-- ==== Sys2Proof/Word.lean ====
section
/-! DEFINITION. The machine's word types. Values wider than a byte are little-endian in memory (R2). -/

namespace Sys2Proof

/-- R29: a 64-bit register, operand or run value. -/
abbrev Word := BitVec 64

/-- R2: the smallest addressable unit. -/
abbrev Byte := BitVec 8

/-- R51: one instruction word. -/
abbrev InsnWord := BitVec 32

end Sys2Proof
end

