-- ==== Sys2Proof/Syntax.lean ====
section
/-! DEFINITION. The instruction set: operand forms (R28, R31, R53, R54, R60, R63, R72, R92), the arguments of the device's own steps, and `Instr`,
one constructor for each row of spec/opcode_table.json. -/

namespace Sys2Proof

/-- R53: an operand specifier. -/
inductive Src where
  /-- age slot a0-a15 -/
  | a (i : Fin 16)
  /-- named register n0-n31 -/
  | n (i : Fin 32)
  /-- constant register k0-k15 -/
  | k (i : Fin 16)
deriving DecidableEq, Repr

/-- R54: a destination specifier. -/
inductive Dst where
  /-- push to the age queue -/
  | push
  /-- named register n0-n31 -/
  | n (i : Fin 32)
deriving DecidableEq, Repr

/-- R28, R31: the type codes. -/
inductive Ty where
  | s32 | n32 | s64 | n64 | f32 | f64 | f16 | bf16 | b32 | b64 | s16 | n16 | s8 | n8
deriving DecidableEq, Repr

/-- R55: the 2-bit type field of format T. -/
inductive FTy where
  | f32 | f64 | f16 | bf16
deriving DecidableEq, Repr

/-- R39: the shared-exponent formats. -/
inductive SxFmt where
  | sx4 | sx6 | sx8
deriving DecidableEq, Repr

/-- R32: the rounding modes, in the order of their codes. -/
inductive Rnd where
  | rn | rz | rp | rm
deriving DecidableEq, Repr

/-- R72: the cache policies, in the order of their codes. -/
inductive CachePolicy where
  | default | stream | keep | nol1
deriving DecidableEq, Repr

/-- R92: the special values, in the order of their selectors. -/
inductive SpecialValue where
  | sp | fp | fid | fxyz | gx | gy | gz | launch | ms | rkey | rctr | rep | flags | preds | cvi | clock
deriving DecidableEq, Repr

/-- R60: v0-v15. -/
abbrev VReg := Fin 16

/-- R60: m0-m7. -/
abbrev MReg := Fin 8

/-- R63: no guard, or a guard slot of the group. -/
abbrev Guard := Option (Fin 16)

/-- R258, R322: who owns a queue of copy commands: a group, a stolen continuation, or a packet of a queue. -/
inductive CopyOwner where
  | group (g : Nat)
  | fibre (f : Nat)
  | packet (q n : Nat)
deriving DecidableEq, Repr

/-- R21: a request held at a shared unit. -/
inductive RequestId where
  /-- the ray that fibre `f` waits to hand to its ray unit -/
  | ray (f : Nat)
  /-- the head of a group's copy queue -/
  | copy (g : Nat)
  /-- the head of a group's matrix queue -/
  | mtx (g : Nat)
deriving DecidableEq, Repr

/-- R330, R332: an event ring, of a queue or of a context. -/
inductive RingId where
  | queue (q : Nat)
  | context (c : Nat)
deriving DecidableEq, Repr

/-- R421: a unit of a link: a Causeway module, the host port, or a fabric port. -/
inductive LinkUnit where
  | module (i : Fin 16)
  | host
  | fabric (i : Fin 8)
deriving DecidableEq, Repr

/-- R226: the operations of an atomic. -/
inductive AtomOp where
  | add | min | max | and | or | xor | exch | cas
deriving DecidableEq, Repr

/-- R426: what another package asks of this one, by tier and physical offset. -/
inductive RemoteRequest where
  | load (tier : Bool) (off len : Nat)
  | store (tier : Bool) (off : Nat) (data : List Byte)
  /-- `operand` and the compared value of `cas`, of type `t`; with an answer, for `atom`, or without one, for `ared` -/
  | atom (tier : Bool) (off : Nat) (op : AtomOp) (t : Ty) (mode : Rnd) (sat : Bool) (operand compared : Word) (answered : Bool)
  /-- `atomw`: what is compared, if anything, and what is written, if anything -/
  | wide (tier : Bool) (off : Nat) (compared new : Option (Word × Word))
  /-- `swinit` and `swadd`; the read of `swwait` is a load -/
  | syncInit (tier : Bool) (off : Nat) (target : Word)
  | syncAdd (tier : Bool) (off : Nat) (n : Word)
deriving DecidableEq, Repr

/-- R428: a flush marker as it arrives. -/
structure Marker where
  path : Nat
  sender : Nat
  epoch : Nat
  count : Nat
  paths : Nat
deriving DecidableEq, Repr

/-- R430, R431: what another member sends: its descriptor's matching bytes, its member table and its terms, source by source. -/
structure CollectiveMessage where
  rank : Nat
  tag : Nat
  match0 : List Byte
  table : List Nat
  terms : List (List Word)
deriving DecidableEq, Repr

/-- R457: where an error is found. -/
inductive EccSite where
  /-- a byte of device memory, read by a fibre, a copy or a binding -/
  | memory (tier : Bool) (off : Nat)
  /-- the mode byte of the tile that holds a byte -/
  | mode (tier : Bool) (off : Nat)
  /-- a byte of a line that L2 holds for a context -/
  | l2 (c : Nat) (tier : Bool) (off : Nat)
  /-- a byte of a line, by its physical address, in the L1 or the sampler cache of a core -/
  | l1 (core pa : Nat)
  | sampler (core pa : Nat)
  /-- a reservoir record of a context on a die; a byte, by its physical address, of a speculative line of a launch's group: both in L2 -/
  | record (c die index : Nat)
  | speculative (l group pa : Nat)
  /-- a byte of a fibre's stack, in scratchpad -/
  | stack (f off : Nat)
  /-- a byte of a group's scratchpad slice -/
  | slice (g off : Nat)
  /-- register store or run pool of a fibre -/
  | registers (f : Nat)
  /-- the frame or the save area of a fibre -/
  | frame (f : Nat)
  /-- the constant bank of a group -/
  | bank (g : Nat)
  /-- the accumulator window of a group -/
  | accumulators (g : Nat)
  /-- an accumulator that the matrix engine reads -/
  | accumulator (g h : Nat)
  /-- Tollhouse memory -/
  | tollhouse
deriving DecidableEq, Repr

/-- R25: a unit that a targeted self-test covers. -/
inductive TestUnit where
  | core (c : Nat)
  | slice (die s : Nat)
  | subArray (core quadrant sub : Nat)
  /-- a GDDR 7 device, or an LPDDR 5X device -/
  | memoryDevice (die : Nat) (tier : Bool) (i : Nat)
deriving DecidableEq, Repr

/-- The rows of spec/opcode_table.json. Rows with an encoding are fibre instructions and hint words (R51, R67); the others are steps of the device
(spec/95_what_each_step_holds.md), whose arguments name the agent that moves and, where a rule leaves a choice open, the choice. -/
inductive Instr where
  /-- R95: Integer add of two operands, wrapping or saturating. -/
  | add (d : Dst) (a : Src) (b : Src) (t : Ty)
  /-- R95: Integer subtract. -/
  | sub (d : Dst) (a : Src) (b : Src) (t : Ty)
  /-- R95: Integer multiply, low half. -/
  | mul (d : Dst) (a : Src) (b : Src) (t : Ty)
  /-- R95: High half of the exact integer product. -/
  | mulh (d : Dst) (a : Src) (b : Src) (t : Ty)
  /-- R30: Integer divide truncating toward zero, never faulting. -/
  | div (d : Dst) (a : Src) (b : Src) (t : Ty)
  /-- R30: Integer remainder with the sign of the dividend. -/
  | rem (d : Dst) (a : Src) (b : Src) (t : Ty)
  /-- R95: Integer minimum. -/
  | min (d : Dst) (a : Src) (b : Src) (t : Ty)
  /-- R95: Integer maximum. -/
  | max (d : Dst) (a : Src) (b : Src) (t : Ty)
  /-- R95: Integer negate. -/
  | neg (d : Dst) (a : Src) (t : Ty)
  /-- R95: Integer absolute value. -/
  | abs (d : Dst) (a : Src) (t : Ty)
  /-- R95: Bitwise AND. -/
  | and (d : Dst) (a : Src) (b : Src) (t : Ty)
  /-- R95: Bitwise OR. -/
  | or (d : Dst) (a : Src) (b : Src) (t : Ty)
  /-- R95: Bitwise XOR. -/
  | xor (d : Dst) (a : Src) (b : Src) (t : Ty)
  /-- R95: Bitwise complement. -/
  | not (d : Dst) (a : Src) (t : Ty)
  /-- R95: Shift left by B mod W. -/
  | shl (d : Dst) (a : Src) (b : Src) (t : Ty)
  /-- R95: Logical shift right. -/
  | shr (d : Dst) (a : Src) (b : Src) (t : Ty)
  /-- R95: Arithmetic shift right. -/
  | sra (d : Dst) (a : Src) (b : Src) (t : Ty)
  /-- R95: Rotate right within W bits. -/
  | ror (d : Dst) (a : Src) (b : Src) (t : Ty)
  /-- R95: Population count. -/
  | pcnt (d : Dst) (a : Src) (t : Ty)
  /-- R95: Count leading zeros. -/
  | clz (d : Dst) (a : Src) (t : Ty)
  /-- R95: Count trailing zeros. -/
  | ctz (d : Dst) (a : Src) (t : Ty)
  /-- R95: Bit reverse. -/
  | brev (d : Dst) (a : Src) (t : Ty)
  /-- R96: Multiply-add into the old destination value. -/
  | mad (d : Dst) (a : Src) (b : Src) (t : Ty)
  /-- R96: Bit-field extract. -/
  | bfx (d : Dst) (a : Src) (b : Src) (t : Ty)
  /-- R96: Bit-field insert into the old destination value. -/
  | bfi (d : Dst) (a : Src) (b : Src) (t : Ty)
  /-- R97: Register move with extension. -/
  | mov (d : Dst) (a : Src) (t : Ty)
  /-- R97: Address computation a + (b << s). -/
  | lea (d : Dst) (a : Src) (b : Src) (sh : Fin 16)
  /-- R97: Select a or b by a predicate test. -/
  | sel (d : Dst) (a : Src) (b : Src) (neg : Bool) (p : Fin 8) (t : Ty)
  /-- R98: Set predicate to a == b. -/
  | setpEq (a : Src) (b : Src) (p : Fin 8) (t : Ty)
  /-- R98: Set predicate to a < b. -/
  | setpLt (a : Src) (b : Src) (p : Fin 8) (t : Ty)
  /-- R98: Set predicate to a <= b. -/
  | setpLe (a : Src) (b : Src) (p : Fin 8) (t : Ty)
  /-- R98: Set predicate to a != b. -/
  | setpNe (a : Src) (b : Src) (p : Fin 8) (t : Ty)
  /-- R99: Add a signed immediate. -/
  | addImm (d : Dst) (a : Src) (imm : BitVec 14)
  /-- R99: AND with a signed immediate. -/
  | andImm (d : Dst) (a : Src) (imm : BitVec 14)
  /-- R99: OR with a zero-extended immediate. -/
  | orImm (d : Dst) (a : Src) (imm : BitVec 14)
  /-- R99: XOR with a zero-extended immediate. -/
  | xorImm (d : Dst) (a : Src) (imm : BitVec 14)
  /-- R99: Shift left by an immediate count. -/
  | shlImm (d : Dst) (a : Src) (imm : BitVec 14)
  /-- R99: Logical shift right by an immediate count. -/
  | shrImm (d : Dst) (a : Src) (imm : BitVec 14)
  /-- R99: Arithmetic shift right by an immediate count. -/
  | sraImm (d : Dst) (a : Src) (imm : BitVec 14)
  /-- R99: Move a sign-extended immediate. -/
  | movImm (d : Dst) (imm : BitVec 14)
  /-- R100: Floating add, rounded once. -/
  | fadd (d : Dst) (a : Src) (b : Src) (t : Ty)
  /-- R100: Floating subtract. -/
  | fsub (d : Dst) (a : Src) (b : Src) (t : Ty)
  /-- R100: Floating multiply. -/
  | fmul (d : Dst) (a : Src) (b : Src) (t : Ty)
  /-- R35: Floating minimum. -/
  | fmin (d : Dst) (a : Src) (b : Src) (t : Ty)
  /-- R35: Floating maximum. -/
  | fmax (d : Dst) (a : Src) (b : Src) (t : Ty)
  /-- R101: Correctly rounded reciprocal. -/
  | sfnRcp (d : Dst) (a : Src) (t : Ty)
  /-- R101: Correctly rounded reciprocal square root. -/
  | sfnRsq (d : Dst) (a : Src) (t : Ty)
  /-- R101: Correctly rounded square root. -/
  | sfnSqrt (d : Dst) (a : Src) (t : Ty)
  /-- R101: Correctly rounded base-2 exponential. -/
  | sfnExp2 (d : Dst) (a : Src) (t : Ty)
  /-- R101: Correctly rounded base-2 logarithm. -/
  | sfnLog2 (d : Dst) (a : Src) (t : Ty)
  /-- R101: Correctly rounded sine. -/
  | sfnSin (d : Dst) (a : Src) (t : Ty)
  /-- R101: Correctly rounded cosine. -/
  | sfnCos (d : Dst) (a : Src) (t : Ty)
  /-- R101: Correctly rounded hyperbolic tangent. -/
  | sfnTanh (d : Dst) (a : Src) (t : Ty)
  /-- R102: Scalar type conversion. -/
  | fcvt (d : Dst) (a : Src) (dt : Ty) (t : Ty)
  /-- R103: Set predicate to quiet float equality. -/
  | fsetpEq (a : Src) (b : Src) (p : Fin 8) (t : Ty)
  /-- R103: Set predicate to signalling float less-than. -/
  | fsetpLt (a : Src) (b : Src) (p : Fin 8) (t : Ty)
  /-- R103: Set predicate to signalling float less-or-equal. -/
  | fsetpLe (a : Src) (b : Src) (p : Fin 8) (t : Ty)
  /-- R103: Set predicate to unordered. -/
  | fsetpUn (a : Src) (b : Src) (p : Fin 8) (t : Ty)
  /-- R100: Fused multiply-add with one rounding. -/
  | ffma (d : Dst) (a : Src) (b : Src) (c : Src) (t : FTy)
  /-- R104: Unconditional relative branch. -/
  | bra (off : BitVec 22)
  /-- R104: Branch on a predicate test. -/
  | brp (neg : Bool) (p : Fin 8) (off : BitVec 22)
  /-- R104: Push the return address and branch. -/
  | call (off : BitVec 22)
  /-- R105: Indirect jump. -/
  | jmpi (a : Src)
  /-- R105: Indirect call pushing the return address. -/
  | calli (a : Src)
  /-- R105: Indirect return. -/
  | ret (a : Src)
  /-- R106: End the fibre after an implicit await of its children. -/
  | exit
  /-- R106: No operation. -/
  | nop
  /-- R107: Set selected predicates. -/
  | pset (a : Src) (b : Src)
  /-- R109: Spill named registers to the stack. -/
  | pushmN (a : Src)
  /-- R109: Spill vector registers as run records. -/
  | pushmV (a : Src)
  /-- R109: Spill mask registers as run records. -/
  | pushmM (a : Src)
  /-- R109: Restore named registers from the stack. -/
  | popmN (a : Src)
  /-- R110: Restore vector registers from run records. -/
  | popmV (a : Src)
  /-- R110: Restore mask registers from run records. -/
  | popmM (a : Src)
  /-- R93: Read a special value. -/
  | getsv (d : Dst) (sv : SpecialValue)
  /-- R93: Write a special value. -/
  | setsv (a : Src) (sv : SpecialValue)
  /-- R69: Kind-0 hint widening the next instruction's immediate. -/
  | wideImmediateHint (p : BitVec 24)
  /-- R70: Kind-1 hint repeating the next instruction with stepped fields. -/
  | repeatPrefix (countM1 : Fin 64) (sd : Bool) (sa : Bool) (sb : Bool) (sc : Bool)
  /-- R68: Scheduling hint with code 0, which advises nothing. -/
  | hintNone
  /-- R68: Scheduling hint preferring other convoys. -/
  | hintYield
  /-- R68: Scheduling hint expecting reconvergence. -/
  | hintJoin
  /-- R68: Scheduling hint announcing a long stall. -/
  | hintLong
  /-- R72: Kind-3 hint selecting rounding, saturation or cache policy. -/
  | rareModifierHint (rndEn : Bool) (rnd : Rnd) (sat : Bool) (cache : CachePolicy)
  /-- R71: One repetition of a repeated unit executes, advancing the repeat index. -/
  | repetition (f : Nat)
  /-- R128: Element-wise vector add. -/
  | vadd (vd : VReg) (va : VReg) (vb : VReg) (mk : MReg) (t : Ty) (c : Bool)
  /-- R128: Element-wise vector subtract. -/
  | vsub (vd : VReg) (va : VReg) (vb : VReg) (mk : MReg) (t : Ty) (c : Bool)
  /-- R128: Element-wise vector multiply. -/
  | vmul (vd : VReg) (va : VReg) (vb : VReg) (mk : MReg) (t : Ty) (c : Bool)
  /-- R128: Element-wise vector divide. -/
  | vdiv (vd : VReg) (va : VReg) (vb : VReg) (mk : MReg) (t : Ty) (c : Bool)
  /-- R128: Element-wise vector minimum. -/
  | vmin (vd : VReg) (va : VReg) (vb : VReg) (mk : MReg) (t : Ty) (c : Bool)
  /-- R128: Element-wise vector maximum. -/
  | vmax (vd : VReg) (va : VReg) (vb : VReg) (mk : MReg) (t : Ty) (c : Bool)
  /-- R128: Element-wise absolute value. -/
  | vabs (vd : VReg) (va : VReg) (mk : MReg) (t : Ty) (c : Bool)
  /-- R128: Element-wise negate. -/
  | vneg (vd : VReg) (va : VReg) (mk : MReg) (t : Ty) (c : Bool)
  /-- R128: Element-wise fused multiply-add into vd. -/
  | vfma (vd : VReg) (va : VReg) (vb : VReg) (mk : MReg) (t : Ty) (c : Bool)
  /-- R129: Element-wise AND. -/
  | vand (vd : VReg) (va : VReg) (vb : VReg) (mk : MReg) (t : Ty) (c : Bool)
  /-- R129: Element-wise OR. -/
  | vor (vd : VReg) (va : VReg) (vb : VReg) (mk : MReg) (t : Ty) (c : Bool)
  /-- R129: Element-wise XOR. -/
  | vxor (vd : VReg) (va : VReg) (vb : VReg) (mk : MReg) (t : Ty) (c : Bool)
  /-- R129: Element-wise shift left. -/
  | vshl (vd : VReg) (va : VReg) (vb : VReg) (mk : MReg) (t : Ty) (c : Bool)
  /-- R129: Element-wise logical shift right. -/
  | vshr (vd : VReg) (va : VReg) (vb : VReg) (mk : MReg) (t : Ty) (c : Bool)
  /-- R129: Element-wise arithmetic shift right. -/
  | vsra (vd : VReg) (va : VReg) (vb : VReg) (mk : MReg) (t : Ty) (c : Bool)
  /-- R130: Vector compare equal into a mask. -/
  | vcmpEq (md : MReg) (va : VReg) (vb : VReg) (mk : MReg) (t : Ty) (c : Bool)
  /-- R130: Vector compare not-equal into a mask. -/
  | vcmpNe (md : MReg) (va : VReg) (vb : VReg) (mk : MReg) (t : Ty) (c : Bool)
  /-- R130: Vector compare less-than into a mask. -/
  | vcmpLt (md : MReg) (va : VReg) (vb : VReg) (mk : MReg) (t : Ty) (c : Bool)
  /-- R130: Vector compare less-or-equal into a mask. -/
  | vcmpLe (md : MReg) (va : VReg) (vb : VReg) (mk : MReg) (t : Ty) (c : Bool)
  /-- R130: Vector compare unordered into a mask. -/
  | vcmpUn (md : MReg) (va : VReg) (vb : VReg) (mk : MReg) (t : Ty) (c : Bool)
  /-- R131: Select elements of va or vb by a mask. -/
  | vsel (vd : VReg) (va : VReg) (vb : VReg) (ms : MReg) (c : Bool)
  /-- R132: Vector copy under a mask. -/
  | vmov (vd : VReg) (va : VReg) (mk : MReg) (c : Bool)
  /-- R133: Merge neighbouring bit-identical runs. -/
  | vcoal (vd : VReg) (va : VReg)
  /-- R134: Vector type conversion, optionally stochastic. -/
  | vcvt (vd : VReg) (va : VReg) (vb : VReg) (mk : MReg) (sr : Bool) (dt : Ty) (t : Ty) (c : Bool)
  /-- R135: Quantise spans through a shared-exponent format in place. -/
  | vcvtSx (vd : VReg) (va : VReg) (vb : VReg) (mk : MReg) (sr : Bool) (fmt : SxFmt) (t : Ty) (c : Bool)
  /-- R136: Element-wise reciprocal. -/
  | vsfnRcp (vd : VReg) (va : VReg) (mk : MReg) (t : Ty)
  /-- R136: Element-wise reciprocal square root. -/
  | vsfnRsq (vd : VReg) (va : VReg) (mk : MReg) (t : Ty)
  /-- R136: Element-wise square root. -/
  | vsfnSqrt (vd : VReg) (va : VReg) (mk : MReg) (t : Ty)
  /-- R136: Element-wise base-2 exponential. -/
  | vsfnExp2 (vd : VReg) (va : VReg) (mk : MReg) (t : Ty)
  /-- R136: Element-wise base-2 logarithm. -/
  | vsfnLog2 (vd : VReg) (va : VReg) (mk : MReg) (t : Ty)
  /-- R136: Element-wise sine. -/
  | vsfnSin (vd : VReg) (va : VReg) (mk : MReg) (t : Ty)
  /-- R136: Element-wise cosine. -/
  | vsfnCos (vd : VReg) (va : VReg) (mk : MReg) (t : Ty)
  /-- R136: Element-wise hyperbolic tangent. -/
  | vsfnTanh (vd : VReg) (va : VReg) (mk : MReg) (t : Ty)
  /-- R137: Mask AND. -/
  | mand (md : MReg) (ma : MReg) (mb : MReg) (mk : MReg) (c : Bool)
  /-- R137: Mask OR. -/
  | mor (md : MReg) (ma : MReg) (mb : MReg) (mk : MReg) (c : Bool)
  /-- R137: Mask XOR. -/
  | mxor (md : MReg) (ma : MReg) (mb : MReg) (mk : MReg) (c : Bool)
  /-- R137: Mask NOT. -/
  | mnot (md : MReg) (ma : MReg) (mk : MReg) (c : Bool)
  /-- R128: Vector add with a uniform scalar. -/
  | vaddS (vd : VReg) (va : VReg) (s : Src) (mk : MReg) (t : Ty)
  /-- R128: Vector subtract a uniform scalar. -/
  | vsubS (vd : VReg) (va : VReg) (s : Src) (mk : MReg) (t : Ty)
  /-- R128: Vector multiply by a uniform scalar. -/
  | vmulS (vd : VReg) (va : VReg) (s : Src) (mk : MReg) (t : Ty)
  /-- R128: Vector divide by a uniform scalar. -/
  | vdivS (vd : VReg) (va : VReg) (s : Src) (mk : MReg) (t : Ty)
  /-- R128: Vector minimum with a scalar. -/
  | vminS (vd : VReg) (va : VReg) (s : Src) (mk : MReg) (t : Ty)
  /-- R128: Vector maximum with a scalar. -/
  | vmaxS (vd : VReg) (va : VReg) (s : Src) (mk : MReg) (t : Ty)
  /-- R128: Vector fused multiply-add with a scalar. -/
  | vfmaS (vd : VReg) (va : VReg) (s : Src) (mk : MReg) (t : Ty)
  /-- R129: Vector AND with a scalar. -/
  | vandS (vd : VReg) (va : VReg) (s : Src) (mk : MReg) (t : Ty)
  /-- R129: Vector OR with a scalar. -/
  | vorS (vd : VReg) (va : VReg) (s : Src) (mk : MReg) (t : Ty)
  /-- R129: Vector XOR with a scalar. -/
  | vxorS (vd : VReg) (va : VReg) (s : Src) (mk : MReg) (t : Ty)
  /-- R129: Vector shift left by a scalar. -/
  | vshlS (vd : VReg) (va : VReg) (s : Src) (mk : MReg) (t : Ty)
  /-- R129: Vector logical shift right by a scalar. -/
  | vshrS (vd : VReg) (va : VReg) (s : Src) (mk : MReg) (t : Ty)
  /-- R129: Vector arithmetic shift right by a scalar. -/
  | vsraS (vd : VReg) (va : VReg) (s : Src) (mk : MReg) (t : Ty)
  /-- R138: Read the logical length of a register. -/
  | vlen (va : VReg) (d : Dst)
  /-- R138: Read the occupancy of a register. -/
  | vruns (va : VReg) (d : Dst)
  /-- R138: Count true elements of a mask. -/
  | mpop (ma : MReg) (d : Dst)
  /-- R138: Index of the first true mask element. -/
  | mfirst (ma : MReg) (d : Dst)
  /-- R139: Build an index register 0..L-1. -/
  | vidx (vd : VReg) (s : Src) (mk : MReg) (t : Ty)
  /-- R140: Write one run of a scalar with the length of va. -/
  | vsplat (vd : VReg) (va : VReg) (s : Src) (mk : MReg) (t : Ty)
  /-- R141: Set the logical length of a register. -/
  | vsetl (vd : VReg) (s : Src)
  /-- R147: Interleave two registers. -/
  | vilv2 (vd : VReg) (va : VReg) (c : Bool)
  /-- R147: Interleave three registers. -/
  | vilv3 (vd : VReg) (va : VReg) (c : Bool)
  /-- R147: Interleave four registers. -/
  | vilv4 (vd : VReg) (va : VReg) (c : Bool)
  /-- R148: De-interleave into two registers. -/
  | vdilv2 (vd : VReg) (va : VReg) (c : Bool)
  /-- R148: De-interleave into three registers. -/
  | vdilv3 (vd : VReg) (va : VReg) (c : Bool)
  /-- R148: De-interleave into four registers. -/
  | vdilv4 (vd : VReg) (va : VReg) (c : Bool)
  /-- R149: Gather elements of va by indices in vb. -/
  | vperm (vd : VReg) (va : VReg) (vb : VReg) (mk : MReg) (c : Bool)
  /-- R150: Reverse a register. -/
  | vrev (vd : VReg) (va : VReg) (mk : MReg) (c : Bool)
  /-- R158: Stable ascending sort of runs. -/
  | vsort (vd : VReg) (va : VReg) (t : Ty) (c : Bool)
  /-- R159: Descending sort of runs by total order. -/
  | vtopk (vd : VReg) (va : VReg) (t : Ty) (c : Bool)
  /-- R159: Positions in descending total order. -/
  | vtopkI (vd : VReg) (va : VReg) (t : Ty)
  /-- R154: Sum reduction of active contributors. -/
  | vredAdd (vd : VReg) (va : VReg) (mk : MReg) (t : Ty)
  /-- R154: Minimum reduction. -/
  | vredMin (vd : VReg) (va : VReg) (mk : MReg) (t : Ty)
  /-- R154: Maximum reduction. -/
  | vredMax (vd : VReg) (va : VReg) (mk : MReg) (t : Ty)
  /-- R154: AND reduction. -/
  | vredAnd (vd : VReg) (va : VReg) (mk : MReg) (t : Ty)
  /-- R154: OR reduction. -/
  | vredOr (vd : VReg) (va : VReg) (mk : MReg) (t : Ty)
  /-- R154: XOR reduction. -/
  | vredXor (vd : VReg) (va : VReg) (mk : MReg) (t : Ty)
  /-- R156: Prefix sum. -/
  | vscanAdd (vd : VReg) (va : VReg) (mk : MReg) (t : Ty) (c : Bool)
  /-- R156: Prefix minimum. -/
  | vscanMin (vd : VReg) (va : VReg) (mk : MReg) (t : Ty) (c : Bool)
  /-- R156: Prefix maximum. -/
  | vscanMax (vd : VReg) (va : VReg) (mk : MReg) (t : Ty) (c : Bool)
  /-- R156: Prefix AND. -/
  | vscanAnd (vd : VReg) (va : VReg) (mk : MReg) (t : Ty) (c : Bool)
  /-- R156: Prefix OR. -/
  | vscanOr (vd : VReg) (va : VReg) (mk : MReg) (t : Ty) (c : Bool)
  /-- R156: Prefix XOR. -/
  | vscanXor (vd : VReg) (va : VReg) (mk : MReg) (t : Ty) (c : Bool)
  /-- R165: Copy the register of participant rank d. -/
  | shflIdx (vd : VReg) (va : VReg) (s : Src) (dist : Fin 32)
  /-- R165: Copy the register of rank q - d. -/
  | shflUp (vd : VReg) (va : VReg) (s : Src) (dist : Fin 32)
  /-- R165: Copy the register of rank q + d. -/
  | shflDown (vd : VReg) (va : VReg) (s : Src) (dist : Fin 32)
  /-- R165: Copy the register of rank q XOR d. -/
  | shflXor (vd : VReg) (va : VReg) (s : Src) (dist : Fin 32)
  /-- R166: OR of participants' predicates. -/
  | voteAny (pd : Fin 8) (neg : Bool) (ps : Fin 8) (s : Src)
  /-- R166: AND of participants' predicates. -/
  | voteAll (pd : Fin 8) (neg : Bool) (ps : Fin 8) (s : Src)
  /-- R166: Ballot of participants' predicates into a mask. -/
  | voteBallot (md : MReg) (neg : Bool) (ps : Fin 8) (s : Src)
  /-- R167: Element-wise sum across participants. -/
  | xredAdd (vd : VReg) (va : VReg) (s : Src) (t : Ty)
  /-- R167: Element-wise minimum across participants. -/
  | xredMin (vd : VReg) (va : VReg) (s : Src) (t : Ty)
  /-- R167: Element-wise maximum across participants. -/
  | xredMax (vd : VReg) (va : VReg) (s : Src) (t : Ty)
  /-- R167: Element-wise AND across participants. -/
  | xredAnd (vd : VReg) (va : VReg) (s : Src) (t : Ty)
  /-- R167: Element-wise OR across participants. -/
  | xredOr (vd : VReg) (va : VReg) (s : Src) (t : Ty)
  /-- R167: Element-wise XOR across participants. -/
  | xredXor (vd : VReg) (va : VReg) (s : Src) (t : Ty)
  /-- R151: Slide elements up, filling with zero. -/
  | vslideUp (vd : VReg) (va : VReg) (s : Src) (mk : MReg)
  /-- R151: Slide elements down, filling with zero. -/
  | vslideDown (vd : VReg) (va : VReg) (s : Src) (mk : MReg)
  /-- R152: Push one element to the age queue. -/
  | vext (va : VReg) (s : Src)
  /-- R153: Insert element 0 of va at position s of vd. -/
  | vins (vd : VReg) (va : VReg) (s : Src)
  /-- R171: Bind a queue register to a descriptor. -/
  | qbind (q : Fin 4) (s : Src)
  /-- R173: Unbind a queue register. -/
  | qfree (q : Fin 4)
  /-- R175: The device reads ahead a load-queue element at an unspecified time. -/
  | queueReadAhead (f : Nat) (q : Nat)
  /-- R195: Scalar load. -/
  | ld (d : Dst) (base : Src) (t : Ty) (off : BitVec 8)
  /-- R195: Scalar store. -/
  | st (a : Src) (base : Src) (t : Ty) (off : BitVec 8)
  /-- R196: Contiguous vector load. -/
  | vld (vd : VReg) (mk : MReg) (base : Src) (t : Ty) (off : BitVec 7)
  /-- R196: Indexed vector load. -/
  | vldg (vd : VReg) (mk : MReg) (base : Src) (t : Ty) (vx : VReg) (sh : Fin 8)
  /-- R196: Contiguous vector store. -/
  | vst (vd : VReg) (mk : MReg) (base : Src) (t : Ty) (off : BitVec 7)
  /-- R196: Indexed vector store. -/
  | vstg (vd : VReg) (mk : MReg) (base : Src) (t : Ty) (vx : VReg) (sh : Fin 8)
  /-- R197: Load and decode a shared-exponent block. -/
  | ldq (vd : VReg) (mk : MReg) (base : Src) (t : Ty) (fmt : SxFmt)
  /-- R198: Quantise and store a shared-exponent block. -/
  | stq (vd : VReg) (base : Src) (t : Ty) (fmt : SxFmt) (sr : Bool) (vb : VReg)
  /-- R186: Load through the sampler cache. -/
  | ldt (d : Dst) (base : Src) (t : Ty) (off : BitVec 8)
  /-- R195: Prefetch a line without faulting. -/
  | pref (base : Src) (off : BitVec 8)
  /-- R187: Invalidate the core's sampler cache. -/
  | pfence
  /-- R187: Invalidate the sampler caches of every live core of the die. -/
  | pfenceDie
  /-- R191: Data of an outstanding load arrive and are written; the ld count falls or a data fault is raised. -/
  | loadDataReturn (f : Nat) (k : Nat)
  /-- R191: A store is performed in scratchpad or accepted by L1; the st count falls. -/
  | storeAccept (f : Nat) (k : Nat)
  /-- R216: At an acquire point the releasing core writes back dirty bytes and the acquirer invalidates clean lines before the acquire issues. -/
  | reconciliation (f : Nat)
  /-- R356: A write to a compressible tile is merged and re-encoded at the home slice as one step. -/
  | compressedTileWrite (core : Nat) (tile : Nat)
  /-- R224: Create child fibres or Task records. -/
  | spawn (a : Src) (b : Src)
  /-- R225: Park until all children have reached Gone. -/
  | await
  /-- R225: Park without being eligible for saving. -/
  | awaitStay
  /-- R226: Atomic add returning the old value. -/
  | atomAdd (d : Dst) (a : Src) (b : Src) (t : Ty)
  /-- R226: Atomic minimum returning the old value. -/
  | atomMin (d : Dst) (a : Src) (b : Src) (t : Ty)
  /-- R226: Atomic maximum returning the old value. -/
  | atomMax (d : Dst) (a : Src) (b : Src) (t : Ty)
  /-- R226: Atomic AND. -/
  | atomAnd (d : Dst) (a : Src) (b : Src) (t : Ty)
  /-- R226: Atomic OR. -/
  | atomOr (d : Dst) (a : Src) (b : Src) (t : Ty)
  /-- R226: Atomic XOR. -/
  | atomXor (d : Dst) (a : Src) (b : Src) (t : Ty)
  /-- R226: Atomic exchange. -/
  | atomExch (d : Dst) (a : Src) (b : Src) (t : Ty)
  /-- R226: Atomic compare-and-swap against the old destination. -/
  | atomCas (d : Dst) (a : Src) (b : Src) (t : Ty)
  /-- R227: Atomic add returning nothing. -/
  | aredAdd (a : Src) (b : Src) (t : Ty)
  /-- R227: Atomic minimum returning nothing. -/
  | aredMin (a : Src) (b : Src) (t : Ty)
  /-- R227: Atomic maximum returning nothing. -/
  | aredMax (a : Src) (b : Src) (t : Ty)
  /-- R227: Atomic AND returning nothing. -/
  | aredAnd (a : Src) (b : Src) (t : Ty)
  /-- R227: Atomic OR returning nothing. -/
  | aredOr (a : Src) (b : Src) (t : Ty)
  /-- R229: Atomic 16-byte read into a register pair. -/
  | atomwLd (d : Dst) (a : Src)
  /-- R229: Atomic 16-byte exchange. -/
  | atomwExch (d : Dst) (a : Src) (b : Src)
  /-- R229: Atomic 16-byte compare-and-swap. -/
  | atomwCas (d : Dst) (a : Src) (b : Src)
  /-- R242: Choose the lowest-ranked candidate among participants. -/
  | elect (d : Dst) (a : Src) (b : Src) (p : Fin 8)
  /-- R243: Write a constant-bank register of the group. -/
  | kst (a : Src) (k : Fin 16)
  /-- R243: A kst write takes effect at the end of the cycle after its issue. -/
  | kstTakeEffect (g : Nat)
  /-- R248: Arrive at a group barrier and stall until release. -/
  | bar (id : Fin 64)
  /-- R250: Barrier among the fibres a member word names. -/
  | barm (a : Src)
  /-- R254: Initialise a sync word with a target. -/
  | swinit (a : Src) (b : Src)
  /-- R254: Add bytes to a sync word by ADDSW. -/
  | swadd (a : Src) (b : Src)
  /-- R255: Stall until a sync word's generation reaches b. -/
  | swwait (a : Src) (b : Src) (d : Dst)
  /-- R255: Repeated atomic read of a waited sync word, at least every 1,024 cycles. -/
  | swwaitPoll (f : Nat)
  /-- R258: Queue a copy-engine command, optionally guarded. -/
  | kick (a : Src) (b : Src) (g : Guard)
  /-- R263: Stall until ld, st and cp counts fall to their limits. -/
  | wait (ld : Fin 64) (st : Fin 64) (cp : Fin 64)
  /-- R263: Stall until mx and ry counts fall to their limits. -/
  | waitMxRy (mx : Fin 64) (ry : Fin 64)
  /-- R266: Resolve a guard slot true or false. -/
  | gset (slot : Fin 64) (b : Src)
  /-- R266: Reopen a guard slot. -/
  | gsetOpen (slot : Fin 64)
  /-- R266: A guard write takes effect at the end of the cycle after issue, starting or discarding waiting commands. -/
  | gsetTakeEffect (g : Nat)
  /-- R259: A copy command at its queue head starts fetching its records. -/
  | copyCommandStart (o : CopyOwner)
  /-- R259: A copy record completes, with its sync addition; the last one lowers cp. -/
  | copyRecordComplete (o : CopyOwner)
  /-- R285: Queue a block matrix multiply-accumulate. -/
  | mma (a : Src) (b : Src) (c : Src) (g : Guard)
  /-- R287: Queue zeroing of a tile. -/
  | mzero (a : Src) (g : Guard)
  /-- R287: Queue a load of a tile from scratchpad. -/
  | mld (a : Src) (b : Src) (c : Src) (g : Guard)
  /-- R287: Queue a store of a tile to scratchpad. -/
  | mst (a : Src) (b : Src) (c : Src) (g : Guard)
  /-- R288: Queue quantisation of a tile to shared-exponent blocks. -/
  | mqnt (a : Src) (b : Src) (c : Src) (g : Guard)
  /-- R289: Queue an epilogue over a tile. -/
  | mew (a : Src) (b : Src) (g : Guard)
  /-- R280: Stall until the fibre's slice stores are performed. -/
  | mrdy
  /-- R283: Stall until the mx count falls to a register limit. -/
  | mwait (a : Src)
  /-- R276: A matrix command reaches its queue head and starts running or is held or discarded. -/
  | matrixCommandStart (g : Nat)
  /-- R276: A 16-row step of a matrix command ends. -/
  | matrixStepEnd (g : Nat)
  /-- R276: A suspended command continues once no higher-class command is ready. -/
  | matrixResume (g : Nat)
  /-- R292: The sequencer injects a self-test product into a quadrant. -/
  | matrixSelfTest (core : Nat) (quadrant : Nat) (failing : List Nat)
  /-- R384: Trace a ray from a scratchpad record for the closest hit. -/
  | trace (a : Src) (b : Src)
  /-- R384: Trace a ray from a register block for the closest hit. -/
  | traceR (a : Src) (b : Src)
  /-- R384: Trace a ray from scratchpad for any hit. -/
  | tracea (a : Src) (b : Src)
  /-- R384: Trace a ray from registers for any hit. -/
  | traceaR (a : Src) (b : Src)
  /-- R385: Wait for own rays to a hit record, then read one field. -/
  | hitld (d : Dst) (b : Src) (fld : Fin 64)
  /-- R387: Walk the light tree with one draw. -/
  | lwalk (d : Dst) (j : Src) (c : Src)
  /-- R393: Filtered texture sample. -/
  | tex (j : Src) (b : Src) (c : Src)
  /-- R394: Query a sample's footprint residency. -/
  | texq (d : Dst) (b : Src) (c : Src)
  /-- R381: The ray unit finishes a ray and writes its hit record; ry falls. -/
  | rayComplete (f : Nat) (k : Nat)
  /-- R399: Set the generator key from seed and lane word, counter 0. -/
  | rngkey (a : Src) (b : Src)
  /-- R399: Set generator key and counter. -/
  | rngset (a : Src) (b : Src)
  /-- R400: Draw one value and advance the counter. -/
  | rng (d : Dst)
  /-- R400: Draw L values into a vector register. -/
  | rngV (vd : VReg) (a : Src)
  /-- R403: Write a null reservoir record. -/
  | rsinit (j : Dst) (a : Src)
  /-- R404: Stream one candidate into a reservoir. -/
  | rsadd (j : Dst) (a : Src) (b : Src)
  /-- R405: Merge a source reservoir. -/
  | rsmerge (j : Dst) (a : Src) (b : Src)
  /-- R406: Normalise a reservoir. -/
  | rsnorm (j : Dst)
  /-- R409: Load a record from the reservoir store. -/
  | rsld (j : Dst) (a : Src)
  /-- R409: Store a record to the reservoir store. -/
  | rsst (a : Src) (b : Src)
  /-- R414: Submit a reuse job descriptor. -/
  | reuse (a : Src)
  /-- R412: Run a target program as one unit. -/
  | tcall (d : Dst) (a : Src) (b : Src)
  /-- R411: End a target program returning a value. -/
  | tret (a : Src)
  /-- R415: Both dies' halo copies complete and the job moves to Resampling. -/
  | haloExchangeComplete (j : Nat)
  /-- R416: An engine takes an owned tile of a job and resamples its pixels. -/
  | reuseTileStart (j : Nat) (tile : Nat)
  /-- R415: A tile's pixels are all written and 2,048 is added to the sync word. -/
  | reuseTileRetire (j : Nat) (tile : Nat)
  /-- R308: Launch a child grid from a launch record. -/
  | launch (d : Dst) (a : Src)
  /-- R309: Publish the true extent to a shape cell and resolve its launch. -/
  | shape (a : Src) (b : Src)
  /-- R310: Allocate a block from the context heap. -/
  | xalloc (d : Dst) (a : Src) (b : Src)
  /-- R311: Free a heap block. -/
  | xfree (a : Src)
  /-- R341: Read a trap field in the handler. -/
  | trapRd (d : Dst) (fld : Fin 64)
  /-- R341: Write the unit or rep trap field. -/
  | trapWr (fld : Fin 64) (b : Src)
  /-- R341: Leave the handler and reissue the saved unit. -/
  | trapRet
  /-- R342: Call a system service and stall until it completes. -/
  | sys (d : Dst) (a : Src) (b : Src)
  /-- R343: Raise FLT_BREAK with a code. -/
  | brk (code : Fin 64)
  /-- R362: Invalidate cached translations of a range. -/
  | pinval (a : Src) (b : Src)
  /-- R363: Reset the compression metadata of regions. -/
  | metaz (a : Src) (b : Src)
  /-- R364: Rewrite a range as plain images. -/
  | decomp (a : Src) (b : Src)
  /-- R365: Report an address's leaf, size and mode byte. -/
  | pquery (d : Dst) (a : Src)
  /-- R434: Start a collective from a descriptor. -/
  | bxsum (a : Src)
  /-- R440: Open a waymark for a work tile. -/
  | markOpen (a : Src) (b : Src)
  /-- R440: Close the open waymark. -/
  | markClose
  /-- R440: Write a trace marker record when selected. -/
  | markTrace (a : Src)
  /-- R82: Every 4 cycles Ready fibres are grouped into convoys by program point. -/
  | convoyForming (core : Nat)
  /-- R84: A free lane chooses a Ready convoy and issues one unit to each member. -/
  | convoyPass (core : Nat) (k : Nat)
  /-- R85: A convoy unissued for 1,024 cycles moves to the head of its class. -/
  | convoyAgePromotion (core : Nat) (k : Nat)
  /-- R21: A shared-unit request waiting 1,024 cycles moves to the head of its class. -/
  | requestAgePromotion (r : RequestId)
  /-- R80: A stalled fibre's condition clears and it becomes Ready. -/
  | stallClear (f : Nat)
  /-- R80: An Exiting fibre's counters reach zero; its slots are freed. -/
  | fibreGone (f : Nat)
  /-- R234: The dispatcher places a Waiting group on the core with the fewest fibres. -/
  | groupPlacement (die : Nat)
  /-- R299: The prologue engine performs one transform binding for a group. -/
  | prologueBinding (g : Nat)
  /-- R233: A group's bindings are done and its fibres become Ready. -/
  | prologueComplete (g : Nat)
  /-- R206: A core starts a Task or Resumable record when resources free. -/
  | taskStart (core : Nat)
  /-- R206: An idle core steals the oldest record of another core of its die. -/
  | recordSteal (thief : Nat) (context : Nat)
  /-- R208: A core saves a parked fibre to the frame area to free its slot. -/
  | parkedFibreSave (core : Nat)
  /-- R179: Every 65,536 cycles the scratchpad/L1 boundary may move one step. -/
  | localBoundaryStep (core : Nat) (lowHits : Bool)
  /-- R251: After a delay a stuck group's waiting members raise FLT_MASK_MISMATCH. -/
  | stuckGroupFault (g : Nat)
  /-- R320: Type-1 packet accepting its sub-launches together. -/
  | jointLaunch (q : Nat)
  /-- R324: Type-2 packet step 1 writes a value to an address. -/
  | writeThenSignal (q : Nat)
  /-- R324: Step 2 of a type-2 packet adds to its sync word, possibly after a resume. -/
  | signalStep (q : Nat)
  /-- R325: Type-3 packet blocking the queue until a generation is reached. -/
  | waitOnValue (q : Nat)
  /-- R325: The CP reads the waited sync word at least every 2 µs. -/
  | waitValuePoll (q : Nat)
  /-- R326: Type-4 packet writing package time. -/
  | timestamp (q : Nat)
  /-- R441: Type-5 operation opening a trace session. -/
  | traceOpen (q : Nat)
  /-- R444: Type-5 operation flushing and closing a session with an end record. -/
  | traceClose (q : Nat)
  /-- R444: Type-5 operation writing held records and the tail word. -/
  | traceFlush (q : Nat)
  /-- R329: Type-6 packet resetting the packets before it. -/
  | queueResetPacket (q : Nat)
  /-- R326: Type-7 packet with no effect. -/
  | marker (q : Nat)
  /-- R315: The CP reads a doorbell at least every 2 µs and copies pending packets. -/
  | doorbellPoll (q : Nat)
  /-- R330: An event record is written by RDMA, body first then seq. -/
  | eventWrite (r : RingId)
  /-- R330: The device reads the acknowledgement word at least every 2 µs while events are held. -/
  | eventAckPoll (r : RingId)
  /-- R328: A context's time slice expires; it is pre-empted or given a new slice. -/
  | sliceEnd (c : Nat)
  /-- R333: Every group of a Saving context has drained and been saved. -/
  | contextSaved (c : Nat)
  /-- R328: Tollhouse core 2 binds and runs a ready context when its carve-outs fit. -/
  | contextSchedule (c : Nat)
  /-- R333: The abort dump completes; queues reset and the context returns to Loaded. -/
  | dumpComplete (c : Nat)
  /-- R331: Mailbox code 1 creating a context from a descriptor. -/
  | createContext (slot : Nat)
  /-- R333: Mailbox code 2 destroying a context. -/
  | destroyContext (slot : Nat)
  /-- R312: Mailbox code 3 creating a queue. -/
  | createQueue (slot : Nat)
  /-- R327: Mailbox code 4 destroying an Idle queue. -/
  | destroyQueue (slot : Nat)
  /-- R329: Mailbox code 5 resetting a queue. -/
  | resetQueue (slot : Nat)
  /-- R339: Mailbox code 6 setting a context's slice. -/
  | setSlice (slot : Nat)
  /-- R342: Mailbox code 7 answering a sys service; the fibre completes. -/
  | serviceReply (slot : Nat)
  /-- R344: Mailbox code 8 dumping a Saved context. -/
  | dumpRequest (slot : Nat)
  /-- R455: Mailbox code 9 writing the capability list to the host. -/
  | readCapabilityList (slot : Nat)
  /-- R453: Mailbox code 10 writing a signed attestation report. -/
  | attestationReport (slot : Nat)
  /-- R339: A mailbox message with another code is refused. -/
  | mailboxUnknownCode (slot : Nat)
  /-- R351: Tollhouse moves a page between tiers, rewriting the leaf and invalidating. -/
  | pageMigration (c : Nat) (va : Nat) (tier : Bool) (off : Nat)
  /-- R483: Host RDMA WRITE checked and performed in the space its R_Key selects. -/
  | rdmaWrite (qp : Nat) (rkey : Nat) (addr : Word) (data : List Byte)
  /-- R483: Host RDMA READ returning raw bytes. -/
  | rdmaRead (qp : Nat) (rkey : Nat) (addr : Word) (len : Nat)
  /-- R483: Host 8-byte atomic fetch-add. -/
  | rdmaFetchAdd (qp : Nat) (rkey : Nat) (addr : Word) (v : Word)
  /-- R483: Host 8-byte atomic compare-and-swap. -/
  | rdmaCmpSwap (qp : Nat) (rkey : Nat) (addr : Word) (cmp : Word) (swap : Word)
  /-- R423: SEND and other unsupported operations are refused with a NAK. -/
  | rdmaUnsupported (qp : Nat)
  /-- R425: Host write of the link control word setting id, size and ports. -/
  | linkControlWrite (v : Word)
  /-- R421: Reset end or an enable starts training of a link unit. -/
  | linkEnable (u : LinkUnit)
  /-- R421: Training completes and the unit goes Up. -/
  | linkTrainingComplete (u : LinkUnit)
  /-- R421: Training fails three times and the unit returns Down. -/
  | linkTrainingFail (u : LinkUnit)
  /-- R421: A lane fails and is repaired; the unit goes Degraded. -/
  | laneFailure (u : LinkUnit)
  /-- R421: A retrain restores full width. -/
  | linkRetrainComplete (u : LinkUnit)
  /-- R421: A unit is lost and traffic moves to remaining units. -/
  | linkUnitLost (u : LinkUnit)
  /-- R426: A load, store or atomic from another package is performed at the home slice. -/
  | remoteAccessRequest (src : Nat) (path : Nat) (r : RemoteRequest)
  /-- R426: Every path to a package down for 10 ms; loads and atomics fault. -/
  | pathDownTimeout (pkg : Nat)
  /-- R428: A flush marker arrives at the home package and is counted for its epoch. -/
  | flushMarker (m : Marker)
  /-- R428: An epoch acknowledgement arrives and waiting acquire points may issue. -/
  | flushAck (pkg : Nat) (epoch : Nat)
  /-- R431: A partial value from another member arrives at the collective engine. -/
  | collectiveTraffic (k : Nat) (m : CollectiveMessage)
  /-- R430: A member fails to join within the timeout; status 4. -/
  | collectiveTimeout (k : Nat)
  /-- R437: A closed tile's stamped commands complete and its waymark record is written. -/
  | waymarkRetire (k : Nat)
  /-- R445: Each sampling period a core writes one sample record. -/
  | traceSample (q : Nat) (core : Nat)
  /-- R447: Debug command code 1 stopping a group. -/
  | debugStop (slot : Nat)
  /-- R447: Debug command code 2 returning Stopped members to Ready. -/
  | debugResume (slot : Nat)
  /-- R449: Debug command code 3 enabling FLT_STEP after each unit. -/
  | stepByTrap (slot : Nat)
  /-- R449: Debug command code 4 stopping the group after each pass. -/
  | stepByStop (slot : Nat)
  /-- R449: Debug command code 5 clearing stepping. -/
  | stepOff (slot : Nat)
  /-- R448: Debug command code 6 writing a group dump. -/
  | debugDump (slot : Nat)
  /-- R447: No member of a stopping group can issue; the dump and reply are written. -/
  | stopComplete (g : Nat)
  /-- R451: Package reset starts the boot sequence in recovery mode. -/
  | packageReset
  /-- R451: A boot step finishes and the next begins, or the package stays on failure. -/
  | bootStepComplete (ok : Bool)
  /-- R456: Power or junction limit exceeded; a die's clock is lowered or contexts aborted. -/
  | junctionLimit (die : Nat)
  /-- R457: An error is detected and handled by location; a targeted self-test starts. -/
  | eccError (site : EccSite) (fatal : Bool)
  /-- R457: A unit's targeted self-test finishes; a failing unit is fenced. -/
  | targetedSelfTestDone (u : TestUnit) (pass : Bool)
  /-- R73: An issued word that is not an assigned instruction (major opcode 0x00, 0xFFFF_FFFF, an unassigned opcode or function code, a bad field) raises. -/
  | illegalEncoding
deriving DecidableEq, Repr

end Sys2Proof
end

