-- ==== Sys2Proof/Machine/Flags.lean ====
section
/-! DEFINITION. The sticky flag word (R37). Every computation of the model that sets flags answers the set it adds; R38 joins it to a fibre's word by OR. -/

namespace Sys2Proof

/-- R37: bits 5..0 of the flag word; bits 63..6 read as zero. -/
abbrev FlagSet := BitVec 6

/-- R37, bit 0. -/
def Flag.invalid : FlagSet := 1#6
/-- R37, bit 1. -/
def Flag.divzero : FlagSet := 2#6
/-- R37, bit 2. -/
def Flag.overflow : FlagSet := 4#6
/-- R37, bit 3. -/
def Flag.underflow : FlagSet := 8#6
/-- R37, bit 4. -/
def Flag.inexact : FlagSet := 16#6
/-- R37, bit 5. -/
def Flag.eccSub : FlagSet := 32#6

/-- A flag that is set when a condition holds. -/
def flagIf (c : Bool) (f : FlagSet) : FlagSet := if c then f else 0#6

/-- A computed value and the flags that computing it sets. -/
abbrev Flagged (α : Type) := α × FlagSet

/-- Apply a function to the value and join its flags. -/
def Flagged.andThen {α β : Type} (x : Flagged α) (f : α → Flagged β) : Flagged β :=
  ((f x.1).1, x.2 ||| (f x.1).2)

/-- Compute over a list from left to right, joining the flags. -/
def flaggedMap {α β : Type} (f : α → Flagged β) : List α → Flagged (List β)
  | [] => ([], 0#6)
  | a :: as => ((f a).1 :: (flaggedMap f as).1, (f a).2 ||| (flaggedMap f as).2)

/-- Fold over a list from left to right, joining the flags. -/
def flaggedFold {α β : Type} (f : β → α → Flagged β) (b : β) : List α → Flagged β
  | [] => (b, 0#6)
  | a :: as => ((flaggedFold f (f b a).1 as).1, (f b a).2 ||| (flaggedFold f (f b a).1 as).2)

end Sys2Proof
end

