-- ==== Sys2Proof/Config.lean ====
section
/-! DEFINITION. What the spec leaves open (free values, with no body) and what the package fixes (R14, R17, R20). -/

namespace Sys2Proof

/-- A byte that a rule calls undefined (R260, R261, R280, R281, R300, R381, R413, R418, R426, R430, R433), by the count of free values taken before. (DESIGN CHOICE, assumption 3) -/
opaque Config.freeByte : Nat → Byte

/-- R367, R417: a byte of an undefined hit record of a visibility ray, by the count of free values taken before, the pixel and the participant. (DESIGN CHOICE, assumption 3) -/
opaque Config.looseRay : Nat → Nat → Nat → Nat → Byte

/-- R453: the SHA-384 digest of firmware image `core`, which no rule gives. (DESIGN CHOICE, assumption 24) -/
opaque Config.imageDigest : Nat → BitVec 384

/-- R452, R453: the two signatures over the signed bytes of a report: they depend on keys that no rule gives. (DESIGN CHOICE, assumption 24) -/
opaque Config.rsaSignature : List Byte → BitVec 3072

opaque Config.slhSignature : List Byte → BitVec 129792

/-- R347, R455: bytes of a tier of a die that remain for pages beside the compression metadata, whose size no rule gives. (DESIGN CHOICE, assumption 24) -/
opaque Config.pageBytes : Nat → Bool → BitVec 64

/-- R228, R269: bytes of ordered buffers that the package holds for a context beside its frame area, which no rule gives. (DESIGN CHOICE, assumption 33) -/
opaque Config.bufferBytes : Nat

/-- R457: the device of a die's tier that holds a byte: no rule gives the interleaving, nor the number of LPDDR 5X devices. (DESIGN CHOICE, assumption 69) -/
opaque Config.memoryDevice : Bool → Nat → Nat

/-- R25, R455: the value of a tier record while memory devices of the tier are fenced: the list shows their fence there, and no rule gives the number. (DESIGN CHOICE, assumption 69) -/
opaque Config.fencedBytes : Nat → Bool → List Nat → BitVec 64

/-- R17: the GDDR 7 devices of a die. -/
def Config.gddrDevices : Nat := 24

/-- R19: bytes of a sampler cache. -/
def Config.samplerBytes : Nat := 65536

/-- R347: bytes of a tier on one die. -/
def Config.tierBytes (tier : Bool) : Nat := if tier then 256 * 2 ^ 30 else 96 * 2 ^ 30

/-- R14. -/
def Config.coresPerDie : Nat := 96

/-- R20. -/
def Config.fibresPerCore : Nat := 4096

/-- R20. -/
def Config.groupsPerCore : Nat := 32

/-- R20. -/
def Config.fibresPerGroup : Nat := 1024

/-- R82. -/
def Config.fibresPerConvoy : Nat := 32

/-- R19: run slots of a core's run pool. -/
def Config.runSlotsPerCore : Nat := 131072

/-- R79. -/
def Config.counterLimit : Nat := 4095

/-- R20: frame records that a core's frame store holds. -/
def Config.framesPerCore : Nat := 8192

/-- R176: the first address of the local window. -/
def Config.windowBase : Nat := 0xFFFFFFFE00000

/-- R177: the offset of the stack in the window. -/
def Config.stackOffset : Nat := 0x100000

/-- R177: the offset of the grant word in the window. -/
def Config.grantOffset : Nat := 0x1FFFF8

end Sys2Proof
end

