-- ==== Sys2Proof/WellFormed.lean ====
section
/-! DEFINITION. Well-formed instructions: the types, fields and register blocks that the owning chapters list (R55, R73, R94, R124, R126, R144, R188, R221,
R241, R246, R277, R382, R397, R307, R340). What depends on the fibre (the window, the hint words of the unit) is checked at issue. -/

namespace Sys2Proof

/-- R94: *Int*, type codes 0x0-0x3 and 0xA-0xD. -/
def Ty.isInt : Ty → Bool
  | .s32 | .n32 | .s64 | .n64 | .s16 | .n16 | .s8 | .n8 => true
  | .f32 | .f64 | .f16 | .bf16 | .b32 | .b64 => false

/-- R94: *Float*, type codes 0x4-0x7. -/
def Ty.isFloat : Ty → Bool
  | .f32 | .f64 | .f16 | .bf16 => true
  | .s32 | .n32 | .s64 | .n64 | .s16 | .n16 | .s8 | .n8 | .b32 | .b64 => false

/-- R28: raw bits. -/
def Ty.isBits : Ty → Bool
  | .b32 | .b64 => true
  | .s32 | .n32 | .s64 | .n64 | .f32 | .f64 | .f16 | .bf16 | .s16 | .n16 | .s8 | .n8 => false

/-- R28: signed integer types. -/
def Ty.signed : Ty → Bool
  | .s32 | .s64 | .s16 | .s8 => true
  | .n32 | .n64 | .f32 | .f64 | .f16 | .bf16 | .b32 | .b64 | .n16 | .n8 => false

/-- R28, R31: the width of a type in bits. -/
def Ty.width : Ty → Nat
  | .s32 | .n32 | .f32 | .b32 => 32
  | .s64 | .n64 | .f64 | .b64 => 64
  | .f16 | .bf16 | .s16 | .n16 => 16
  | .s8 | .n8 => 8

/-- R221: the integer types of atomics. -/
def Ty.isAtomInt (t : Ty) : Bool := t == .s32 || t == .n32 || t == .s64 || t == .n64

/-- R221: the types of exch and cas. -/
def Ty.isExch (t : Ty) : Bool := t == .n32 || t == .n64 || t == .b32 || t == .b64

/-- R188: f32 or f64. -/
def Ty.isF3264 (t : Ty) : Bool := t == .f32 || t == .f64

/-- A field that must name n0-n31 (R229, R277, R382, R397). -/
def Src.isN : Src → Bool
  | .n _ => true
  | .a _ | .k _ => false

/-- A destination field that must name n0-n31 (R229, R397). -/
def Dst.isN : Dst → Bool
  | .n _ => true
  | .push => false

/-- R126, R134: the draw register is unused unless `.sr` is set. -/
def drawField (sr : Bool) (vb : VReg) : Bool := sr || vb == 0

/-- R14: a core number. -/
def coreOk (c : Nat) : Bool := c < 192

/-- R14: a die number. -/
def dieOk (d : Nat) : Bool := d < 2

/-- R312: a queue number. -/
def queueOk (q : Nat) : Bool := q < 1024

/-- R331: a context number, and so a slot of the mailbox (R339) or of the debug window (R446). -/
def contextOk (c : Nat) : Bool := c < 64

/-- R330, R332. -/
def RingId.ok : RingId → Bool
  | .queue q => queueOk q
  | .context c => contextOk c

/-- R25: a unit the package has. -/
def TestUnit.ok : TestUnit → Bool
  | .core c => coreOk c
  | .slice d s => dieOk d && s < 256
  | .subArray c q s => coreOk c && q < 4 && s < 4
  | .memoryDevice d tier i => dieOk d && (tier || i < Config.gddrDevices)

/-- R73: the instruction is one that its owning chapter assigns. -/
def Instr.wf : Instr → Bool
  -- R94
  | .add _ _ _ t | .sub _ _ _ t | .mul _ _ _ t | .mulh _ _ _ t | .div _ _ _ t | .rem _ _ _ t | .min _ _ _ t | .max _ _ _ t
  | .neg _ _ t | .abs _ _ t | .mad _ _ _ t => t.isInt
  | .and _ _ _ t | .or _ _ _ t | .xor _ _ _ t | .not _ _ t | .shl _ _ _ t | .shr _ _ _ t | .sra _ _ _ t | .ror _ _ _ t
  | .pcnt _ _ t | .clz _ _ t | .ctz _ _ t | .brev _ _ t | .bfi _ _ _ t => t.isBits
  | .bfx _ _ _ t => t.isBits || t == .s32 || t == .s64
  | .mov _ _ t => t.isInt || t.isBits
  | .lea _ _ _ _ => true
  | .sel _ _ _ _ _ t => t.isBits
  | .setpEq _ _ _ t | .setpNe _ _ _ t => t.isInt || t.isBits
  | .setpLt _ _ _ t | .setpLe _ _ _ t => t.isInt
  | .addImm _ _ _ | .andImm _ _ _ | .orImm _ _ _ | .xorImm _ _ _ | .movImm _ _ => true
  | .shlImm _ _ i | .shrImm _ _ i | .sraImm _ _ i => i.toNat < 64
  | .fadd _ _ _ t | .fsub _ _ _ t | .fmul _ _ _ t | .fmin _ _ _ t | .fmax _ _ _ t => t.isFloat
  | .sfnRcp _ _ t | .sfnRsq _ _ t | .sfnSqrt _ _ t | .sfnExp2 _ _ t | .sfnLog2 _ _ t | .sfnSin _ _ t | .sfnCos _ _ t | .sfnTanh _ _ t => t.isFloat
  | .fcvt _ _ dt t => dt != t
  | .fsetpEq _ _ _ t | .fsetpLt _ _ _ t | .fsetpLe _ _ _ t | .fsetpUn _ _ _ t => t.isFloat
  | .ffma _ _ _ _ _ => true
  | .bra _ | .brp _ _ _ | .call _ | .jmpi _ | .calli _ | .ret _ | .exit | .nop | .pset _ _ => true
  | .pushmN _ | .pushmV _ | .pushmM _ | .popmN _ | .popmV _ | .popmM _ | .getsv _ _ | .setsv _ _ => true
  -- R67-R72
  | .wideImmediateHint _ | .repeatPrefix _ _ _ _ _ | .hintNone | .hintYield | .hintJoin | .hintLong => true
  | .rareModifierHint en rnd _ _ => en || rnd == .rn
  | .repetition _ => true
  -- R124, R126
  | .vadd _ _ _ _ t _ | .vsub _ _ _ _ t _ | .vmul _ _ _ _ t _ | .vdiv _ _ _ _ t _ | .vmin _ _ _ _ t _ | .vmax _ _ _ _ t _
  | .vabs _ _ _ t _ | .vneg _ _ _ t _ => t.isInt || t.isFloat
  | .vfma _ _ _ _ t _ => t.isFloat
  | .vand _ _ _ _ t _ | .vor _ _ _ _ t _ | .vxor _ _ _ _ t _ | .vshl _ _ _ _ t _ | .vshr _ _ _ _ t _ | .vsra _ _ _ _ t _ => t.isBits
  | .vcmpEq _ _ _ _ _ _ => true
  | .vcmpNe _ _ _ _ t _ => t.isInt || t.isBits
  | .vcmpLt _ _ _ _ t _ | .vcmpLe _ _ _ _ t _ => t.isInt || t.isFloat
  | .vcmpUn _ _ _ _ t _ => t.isFloat
  | .vsel _ _ _ _ _ | .vmov _ _ _ _ | .vcoal _ _ => true
  | .vcvt _ _ vb _ sr dt t _ => dt != t && drawField sr vb && (!sr || ((dt == .f16 || dt == .bf16) && t.isFloat))
  | .vcvtSx _ _ vb _ sr _ t _ => t.isF3264 && drawField sr vb
  | .vsfnRcp _ _ _ t | .vsfnRsq _ _ _ t | .vsfnSqrt _ _ _ t | .vsfnExp2 _ _ _ t | .vsfnLog2 _ _ _ t | .vsfnSin _ _ _ t | .vsfnCos _ _ _ t
  | .vsfnTanh _ _ _ t => t.isFloat
  | .mand _ ma mb _ _ | .mor _ ma mb _ _ | .mxor _ ma mb _ _ => !(ma == 0 && mb == 0)
  | .mnot _ ma _ _ => ma != 0
  | .vaddS _ _ _ _ t | .vsubS _ _ _ _ t | .vmulS _ _ _ _ t | .vdivS _ _ _ _ t | .vminS _ _ _ _ t | .vmaxS _ _ _ _ t => t.isInt || t.isFloat
  | .vfmaS _ _ _ _ t => t.isFloat
  | .vandS _ _ _ _ t | .vorS _ _ _ _ t | .vxorS _ _ _ _ t | .vshlS _ _ _ _ t | .vshrS _ _ _ _ t | .vsraS _ _ _ _ t => t.isBits
  | .vlen _ _ | .vruns _ _ => true
  | .mpop ma _ | .mfirst ma _ => ma != 0
  | .vidx _ _ _ t => t.isInt
  | .vsplat _ _ _ _ _ => true
  | .vsetl _ _ => true
  -- R144, R147, R148
  | .vilv2 _ va _ => va.val + 1 ≤ 15
  | .vilv3 _ va _ => va.val + 2 ≤ 15
  | .vilv4 _ va _ => va.val + 3 ≤ 15
  | .vdilv2 vd _ _ => vd.val + 1 ≤ 15
  | .vdilv3 vd _ _ => vd.val + 2 ≤ 15
  | .vdilv4 vd _ _ => vd.val + 3 ≤ 15
  | .vperm _ _ _ _ _ | .vrev _ _ _ _ | .vsort _ _ _ _ | .vtopk _ _ _ _ | .vtopkI _ _ _ => true
  | .vredAdd _ _ _ t | .vredMin _ _ _ t | .vredMax _ _ _ t => t.isInt || t.isFloat
  | .vredAnd _ _ _ t | .vredOr _ _ _ t | .vredXor _ _ _ t => t.isBits
  | .vscanAdd _ _ _ t _ | .vscanMin _ _ _ t _ | .vscanMax _ _ _ t _ => t.isInt || t.isFloat
  | .vscanAnd _ _ _ t _ | .vscanOr _ _ _ t _ | .vscanXor _ _ _ t _ => t.isBits
  | .shflIdx _ _ _ _ | .shflUp _ _ _ _ | .shflDown _ _ _ _ | .shflXor _ _ _ _ => true
  | .voteAny _ _ _ _ | .voteAll _ _ _ _ | .voteBallot _ _ _ _ => true
  | .xredAdd _ _ _ t | .xredMin _ _ _ t | .xredMax _ _ _ t => t.isInt || t.isFloat
  | .xredAnd _ _ _ t | .xredOr _ _ _ t | .xredXor _ _ _ t => t.isBits
  | .vslideUp _ _ _ _ | .vslideDown _ _ _ _ | .vext _ _ | .vins _ _ _ | .qbind _ _ | .qfree _ => true
  | .queueReadAhead _ q => q < 4
  -- R188, R197, R198
  | .ld _ _ _ _ | .st _ _ _ _ | .vld _ _ _ _ _ | .vldg _ _ _ _ _ _ | .vst _ _ _ _ _ | .vstg _ _ _ _ _ _ | .ldt _ _ _ _ => true
  | .ldq vd mk _ t fmt => t.isF3264 && (fmt != .sx4 || (mk == 0 && vd.val + 1 ≤ 15))
  | .stq vd _ t fmt sr vb => t.isF3264 && drawField sr vb && (fmt != .sx4 || (vd.val + 1 ≤ 15 && (!sr || vb.val + 1 ≤ 15)))
  | .pref _ _ | .pfence | .pfenceDie => true
  | .loadDataReturn _ _ | .storeAccept _ _ | .reconciliation _ => true
  | .compressedTileWrite c _ => coreOk c
  -- R221, R229
  | .spawn _ _ | .await | .awaitStay => true
  | .atomAdd _ _ _ t | .atomMin _ _ _ t | .atomMax _ _ _ t => t.isAtomInt || t.isF3264
  | .atomAnd _ _ _ t | .atomOr _ _ _ t | .atomXor _ _ _ t => t.isBits
  | .atomExch _ _ _ t | .atomCas _ _ _ t => t.isExch
  | .aredAdd _ _ t | .aredMin _ _ t | .aredMax _ _ t => t.isAtomInt || t.isF3264
  | .aredAnd _ _ t | .aredOr _ _ t => t.isBits
  | .atomwLd d _ => d.isN
  | .atomwExch d _ b | .atomwCas d _ b => d.isN && b.isN
  -- R241, R246
  | .elect _ _ _ _ | .kst _ _ | .kstTakeEffect _ => true
  | .bar id => id.val < 16
  | .barm _ | .swinit _ _ | .swadd _ _ | .swwait _ _ _ | .swwaitPoll _ | .kick _ _ _ | .wait _ _ _ | .waitMxRy _ _ => true
  | .gset slot _ | .gsetOpen slot => slot.val < 16
  | .gsetTakeEffect _ | .copyCommandStart _ | .copyRecordComplete _ => true
  -- R277
  | .mma _ _ c _ => c.isN
  | .mzero _ _ | .mld _ _ _ _ | .mst _ _ _ _ | .mqnt _ _ _ _ | .mew _ _ _ | .mrdy | .mwait _ => true
  | .matrixCommandStart _ | .matrixStepEnd _ | .matrixResume _ => true
  | .matrixSelfTest c q failing => coreOk c && q < 4 && failing.all (· < 4)
  -- R382
  | .trace _ _ | .tracea _ _ => true
  | .traceR a _ | .traceaR a _ => a.isN
  | .hitld _ _ fld => fld.val < 8
  | .lwalk _ j _ => j.isN
  | .tex j _ c => j.isN && c.isN
  | .texq _ _ c => c.isN
  | .rayComplete _ _ => true
  -- R397
  | .rngkey _ _ | .rngset _ _ | .rng _ | .rngV _ _ => true
  | .rsinit j _ => j.isN
  | .rsadd j a _ | .rsmerge j a _ => j.isN && a.isN
  | .rsnorm j | .rsld j _ => j.isN
  | .rsst _ b => b.isN
  | .reuse _ => true
  | .tcall _ _ b => b.isN
  | .tret _ => true
  | .haloExchangeComplete _ | .reuseTileStart _ _ | .reuseTileRetire _ _ => true
  -- R307, R340, R361, R434, R439
  | .launch _ _ | .shape _ _ | .xalloc _ _ _ | .xfree _ => true
  | .trapRd _ fld => fld.val ≤ 4
  | .trapWr fld _ => fld == 1 || fld == 2
  | .trapRet | .sys _ _ _ | .brk _ | .pinval _ _ | .metaz _ _ | .decomp _ _ | .pquery _ _ | .bxsum _ | .markOpen _ _ | .markClose | .markTrace _ => true
  -- the device's own steps: the units they name exist
  | .convoyForming c | .convoyPass c _ | .convoyAgePromotion c _ => coreOk c
  | .requestAgePromotion _ | .stallClear _ | .fibreGone _ => true
  | .groupPlacement d => dieOk d
  | .prologueBinding _ | .prologueComplete _ => true
  | .taskStart c | .parkedFibreSave c | .localBoundaryStep c _ => coreOk c
  | .recordSteal a _ => coreOk a
  | .stuckGroupFault _ => true
  | .jointLaunch q | .writeThenSignal q | .signalStep q | .waitOnValue q | .waitValuePoll q | .timestamp q | .traceOpen q | .traceClose q | .traceFlush q
  | .queueResetPacket q | .marker q | .doorbellPoll q => queueOk q
  | .eventWrite r | .eventAckPoll r => r.ok
  | .sliceEnd c | .contextSaved c | .contextSchedule c | .dumpComplete c => contextOk c
  | .createContext s | .destroyContext s | .createQueue s | .destroyQueue s | .resetQueue s | .setSlice s | .serviceReply s | .dumpRequest s
  | .readCapabilityList s | .attestationReport s | .mailboxUnknownCode s => contextOk s
  | .pageMigration c _ _ _ => contextOk c
  | .rdmaWrite qp _ _ _ | .rdmaRead qp _ _ _ | .rdmaFetchAdd qp _ _ _ | .rdmaCmpSwap qp _ _ _ _ | .rdmaUnsupported qp => qp < 1024
  | .linkControlWrite _ | .linkEnable _ | .linkTrainingComplete _ | .linkTrainingFail _ | .laneFailure _ | .linkRetrainComplete _ | .linkUnitLost _ => true
  | .remoteAccessRequest src path _ => src < 4096 && path < 128
  | .pathDownTimeout p => p < 4096
  | .flushMarker m => m.sender < 4096 && m.path < 128
  | .flushAck p _ => p < 4096
  | .collectiveTraffic _ _ | .collectiveTimeout _ | .waymarkRetire _ => true
  | .traceSample q c => queueOk q && coreOk c
  | .debugStop s | .debugResume s | .stepByTrap s | .stepByStop s | .stepOff s | .debugDump s => contextOk s
  | .stopComplete _ | .packageReset | .bootStepComplete _ => true
  | .junctionLimit d => dieOk d
  | .eccError _ _ => true
  | .targetedSelfTestDone u _ => u.ok
  | .illegalEncoding => true

end Sys2Proof
end

