-- ==== Sys2Proof/Machine/Numbers.lean ====
section
/-! DEFINITION. Exact values and their rounding (R28-R36, R50). A magnitude is a dyadic number, with a mark when the value lies strictly above it:
that is all a correct rounding needs to know of a quotient, a root or a transcendental value. -/

namespace Sys2Proof

/-- R31: a binary format by its precision (the hidden bit counted), least and greatest exponent, and width. -/
structure FloatFmt where
  prec : Nat
  emin : Int
  emax : Int
  width : Nat
deriving DecidableEq, Repr

/-- R31: the format of a floating type; the others never reach it. -/
def Ty.fmt : Ty → FloatFmt
  | .f16 => ⟨11, -14, 15, 16⟩
  | .bf16 => ⟨8, -126, 127, 16⟩
  | .f64 => ⟨53, -1022, 1023, 64⟩
  | .f32 | .s32 | .n32 | .s64 | .n64 | .b32 | .b64 | .s16 | .n16 | .s8 | .n8 => ⟨24, -126, 127, 32⟩

/-- R55: the type of a format T code. -/
def FTy.ty : FTy → Ty
  | .f32 => .f32 | .f64 => .f64 | .f16 => .f16 | .bf16 => .bf16

/-- R28: the least value of an integer type. -/
def Ty.minInt (t : Ty) : Int := if t.signed then -(2 ^ (t.width - 1) : Nat) else 0

/-- R28: the greatest value of an integer type. -/
def Ty.maxInt (t : Ty) : Int := if t.signed then (2 ^ (t.width - 1) : Nat) - 1 else (2 ^ t.width : Nat) - 1

/-- The biased exponent field of infinities and NaNs, in place. -/
def FloatFmt.infBits (f : FloatFmt) : Nat := (2 ^ (f.width - f.prec) - 1) * 2 ^ (f.prec - 1)

/-- R31: the canonical quiet NaN. -/
def FloatFmt.canon (f : FloatFmt) : Nat := f.infBits + 2 ^ (f.prec - 2)

/-- The sign bit in place. -/
def FloatFmt.signBit (f : FloatFmt) (neg : Bool) : Nat := if neg then 2 ^ (f.width - 1) else 0

/-- The number `man * 2 ^ exp`, plus, when `more`, an amount strictly between 0 and `2 ^ exp`. A mark stands only on a `man` of at least 2^66. -/
structure Mag where
  man : Nat
  exp : Int
  more : Bool := false
deriving DecidableEq, Repr

/-- R50, EXACT: a real number with its sign (zero has one), an infinity, or a NaN with its kind. -/
inductive XVal where
  | nan (signalling : Bool)
  | inf (neg : Bool)
  | fin (neg : Bool) (m : Mag)
deriving DecidableEq, Repr

/-- A shift by a signed count. -/
def shiftBy (n : Nat) (k : Int) : Nat :=
  match k with
  | .ofNat j => n <<< j
  | .negSucc j => n >>> (j + 1)

/-- R30, R98: bits W-1..0 of a word, read as the type says. -/
def intOf (t : Ty) (v : Word) : Int :=
  let n := v.toNat % 2 ^ t.width
  if t.signed && n ≥ 2 ^ (t.width - 1) then (n : Int) - (2 ^ t.width : Nat) else n

/-- Bits W-1..0 of a word. -/
def bitsOf (t : Ty) (v : Word) : Nat := v.toNat % 2 ^ t.width

/-- R29: a result of a type, extended to a word. -/
def place (t : Ty) (n : Nat) : Word :=
  let m := n % 2 ^ t.width
  if t.signed && m ≥ 2 ^ (t.width - 1) then BitVec.ofNat 64 (m + (2 ^ 64 - 2 ^ t.width)) else BitVec.ofNat 64 m

/-- R29, R50 WRAP: an integer modulo 2^W, extended to a word. -/
def placeInt (t : Ty) (x : Int) : Word := place t (x % (2 ^ t.width : Nat)).toNat

/-- R50, SAT. -/
def clampInt (x lo hi : Int) : Int := if x < lo then lo else if x > hi then hi else x

/-- R50, EXACT, for a floating encoding. -/
def exactFloat (f : FloatFmt) (n : Nat) : XVal :=
  let neg := n.testBit (f.width - 1)
  let frac := n % 2 ^ (f.prec - 1)
  let e := n / 2 ^ (f.prec - 1) % 2 ^ (f.width - f.prec)
  if e = 2 ^ (f.width - f.prec) - 1 then
    if frac = 0 then .inf neg else .nan (!frac.testBit (f.prec - 2))
  else if e = 0 then .fin neg ⟨frac, f.emin - (f.prec - 1 : Nat), false⟩
  else .fin neg ⟨frac + 2 ^ (f.prec - 1), f.emin + (e : Int) - 1 - (f.prec - 1 : Nat), false⟩

/-- The exact value of an integer. -/
def exactInt (x : Int) : XVal := .fin (x < 0) ⟨x.natAbs, 0, false⟩

/-- R50, EXACT. -/
def exact (t : Ty) (v : Word) : XVal :=
  if t.isFloat then exactFloat t.fmt (bitsOf t v) else exactInt (intOf t v)

/-- R32: does a value between two neighbours move away from zero? `half` orders the rest against one half; `odd` is the lower neighbour's last bit. -/
def roundsAway (mode : Rnd) (neg odd inexact : Bool) (half : Ordering) : Bool :=
  match mode with
  | .rn => half == .gt || (half == .eq && odd)
  | .rz => false
  | .rp => inexact && !neg
  | .rm => inexact && neg

/-- The whole number of steps of `2 ^ q` below a magnitude, whether a rest remains, and the rest against one half. -/
def Mag.split (m : Mag) (q : Int) : Nat × Bool × Ordering :=
  let sh := q - m.exp
  if sh ≤ 0 then (m.man <<< (-sh).toNat, m.more, .lt)
  else
    let k := if sh.toNat > m.man.log2 + 3 then m.man.log2 + 3 else sh.toNat
    let rest := m.man % 2 ^ k
    let half := 2 ^ (k - 1)
    (m.man >>> k, rest != 0 || m.more,
      if rest < half then .lt else if rest > half then .gt else if m.more then .gt else .eq)

/-- R50, RINT on a magnitude: rounded to a whole number of steps of `2 ^ q`, and whether that changed it. -/
def Mag.roundSteps (m : Mag) (neg : Bool) (q : Int) (mode : Rnd) : Nat × Bool :=
  let (n, inexact, half) := m.split q
  (if roundsAway mode neg (n % 2 == 1) inexact half then n + 1 else n, inexact)

/-- R33: the result of an overflow in a mode: an infinity or the largest finite value. -/
def overflowBits (f : FloatFmt) (mode : Rnd) (neg : Bool) : Nat :=
  let toInf := match mode with
    | .rn => true
    | .rz => false
    | .rp => !neg
    | .rm => neg
  if toInf then f.infBits else f.infBits - 1

/-- R33: a finite non-zero magnitude rounded to a format. -/
def roundMag (f : FloatFmt) (mode : Rnd) (neg : Bool) (m : Mag) : Flagged Nat :=
  let e : Int := m.exp + m.man.log2
  if e > f.emax then (f.signBit neg + overflowBits f mode neg, Flag.overflow ||| Flag.inexact)
  else
    let top : Int := if e < f.emin then f.emin else e
    let (n, inexact) := m.roundSteps neg (top - (f.prec - 1 : Nat)) mode
    let bits := (top - f.emin).toNat * 2 ^ (f.prec - 1) + n
    let carried := e == f.emin - 1 && (m.roundSteps neg (e - (f.prec - 1 : Nat)) mode).1 == 2 ^ f.prec
    if bits ≥ f.infBits then (f.signBit neg + overflowBits f mode neg, Flag.overflow ||| Flag.inexact)
    else (f.signBit neg + bits,
      flagIf inexact Flag.inexact ||| flagIf (inexact && e < f.emin && !carried) Flag.underflow)

/-- A magnitude of zero, exactly. -/
def Mag.isZero (m : Mag) : Bool := m.man == 0 && !m.more

/-- R50, ROUND, into a floating format: a NaN gives the canonical NaN, a signalling one sets invalid (R34). -/
def roundX (f : FloatFmt) (mode : Rnd) : XVal → Flagged Nat
  | .nan sig => (f.canon, flagIf sig Flag.invalid)
  | .inf neg => (f.signBit neg + f.infBits, 0#6)
  | .fin neg m => if m.isZero then (f.signBit neg, 0#6) else roundMag f mode neg m

/-- R50, ROUND, into a floating type, placed in a word. -/
def roundTo (t : Ty) (mode : Rnd) (x : XVal) : Flagged Word :=
  (BitVec.ofNat 64 (roundX t.fmt mode x).1, (roundX t.fmt mode x).2)

/-- R50, CANON. -/
def canon (t : Ty) : Word := BitVec.ofNat 64 t.fmt.canon

/-- Is the value a NaN? -/
def XVal.isNan : XVal → Bool
  | .nan _ => true
  | .inf _ => false
  | .fin _ _ => false

/-- Is the value a signalling NaN? -/
def XVal.isSignalling : XVal → Bool
  | .nan sig => sig
  | .inf _ => false
  | .fin _ _ => false

/-- Is the value an exact zero, of either sign? -/
def XVal.isZero : XVal → Bool
  | .nan _ => false
  | .inf _ => false
  | .fin _ m => m.isZero

/-- The sign of a value; a NaN has none. -/
def XVal.isNeg : XVal → Bool
  | .nan _ => false
  | .inf neg => neg
  | .fin neg _ => neg

/-- The value with its sign turned. -/
def XVal.negated : XVal → XVal
  | .nan sig => .nan sig
  | .inf neg => .inf (!neg)
  | .fin neg m => .fin (!neg) m

/-- The value without its sign. -/
def XVal.absolute : XVal → XVal
  | .nan sig => .nan sig
  | .inf _ => .inf false
  | .fin _ m => .fin false m

/-- The signed integer `n * 2 ^ (m.exp - e)` for `e` at most the exponent. -/
def signedAt (neg : Bool) (m : Mag) (e : Int) : Int :=
  let n : Int := (m.man <<< (m.exp - e).toNat : Nat)
  if neg then -n else n

/-- R46: the sign of an exact zero that no rule for equal signs fixes. -/
def zeroSign (mode : Rnd) : Bool :=
  match mode with
  | .rm => true
  | .rn | .rz | .rp => false

/-- The exact sum of two finite values; the mode gives a zero its sign. A zero addend leaves the other value as it is. -/
def addFin (mode : Rnd) (na : Bool) (a : Mag) (nb : Bool) (b : Mag) : XVal :=
  if a.isZero && b.isZero then .fin (if na == nb then na else zeroSign mode) ⟨0, 0, false⟩
  else if a.isZero then .fin nb b
  else if b.isZero then .fin na a
  else
    let e := if a.exp ≤ b.exp then a.exp else b.exp
    let x := signedAt na a e + signedAt nb b e
    if x = 0 then .fin (zeroSign mode) ⟨0, 0, false⟩ else .fin (x < 0) ⟨x.natAbs, e, false⟩

/-- R34: a NaN result from operands that hold one; a signalling operand sets invalid. -/
def nanOf (xs : List XVal) : Flagged XVal := (.nan false, flagIf (xs.any XVal.isSignalling) Flag.invalid)

/-- R34: a NaN made by an invalid operation. -/
def invalidNan : Flagged XVal := (.nan false, Flag.invalid)

/-- R100: the exact sum. -/
def addX (mode : Rnd) (x y : XVal) : Flagged XVal :=
  match x, y with
  | .nan _, _ => nanOf [x, y]
  | _, .nan _ => nanOf [x, y]
  | .inf a, .inf b => if a == b then (.inf a, 0#6) else invalidNan
  | .inf a, .fin _ _ => (.inf a, 0#6)
  | .fin _ _, .inf b => (.inf b, 0#6)
  | .fin na a, .fin nb b => (addFin mode na a nb b, 0#6)

/-- R100: the exact product. -/
def mulX (x y : XVal) : Flagged XVal :=
  match x, y with
  | .nan _, _ => nanOf [x, y]
  | _, .nan _ => nanOf [x, y]
  | .inf a, .inf b => (.inf (a != b), 0#6)
  | .inf a, .fin nb b => if b.isZero then invalidNan else (.inf (a != nb), 0#6)
  | .fin na a, .inf b => if a.isZero then invalidNan else (.inf (na != b), 0#6)
  | .fin na a, .fin nb b => (.fin (na != nb) ⟨a.man * b.man, a.exp + b.exp, false⟩, 0#6)

/-- R100: the exact `x * y + z`; infinity times zero is invalid even beside a quiet NaN. -/
def fmaX (mode : Rnd) (x y z : XVal) : Flagged XVal :=
  if x.isNan || y.isNan then nanOf [x, y, z]
  else
    let p := mulX x y
    if p.1.isNan then invalidNan
    else if z.isNan then nanOf [z]
    else addX mode p.1 z

/-- The quotient of two positive magnitudes to at least 80 bits. -/
def divMag (a b : Mag) : Mag :=
  let k := 80 + b.man.log2
  let n := a.man <<< k
  ⟨n / b.man, a.exp - b.exp - (k : Int), n % b.man != 0⟩

/-- R33, R34, R37: the quotient; 0/0 and infinity/infinity are invalid, a finite non-zero value over zero sets divzero. -/
def divX (x y : XVal) : Flagged XVal :=
  match x, y with
  | .nan _, _ => nanOf [x, y]
  | _, .nan _ => nanOf [x, y]
  | .inf _, .inf _ => invalidNan
  | .inf a, .fin nb _ => (.inf (a != nb), 0#6)
  | .fin na _, .inf b => (.fin (na != b) ⟨0, 0, false⟩, 0#6)
  | .fin na a, .fin nb b =>
    if b.isZero then
      if a.isZero then invalidNan else (.inf (na != nb), Flag.divzero)
    else if a.isZero then (.fin (na != nb) ⟨0, 0, false⟩, 0#6)
    else (.fin (na != nb) (divMag a b), 0#6)

/-- The order of two magnitudes, both exact. -/
def cmpMag (a b : Mag) : Ordering :=
  let e := if a.exp ≤ b.exp then a.exp else b.exp
  compare (a.man <<< (a.exp - e).toNat) (b.man <<< (b.exp - e).toNat)

/-- The order of two values that are no NaN; -0 equals +0 (R103). -/
def cmpX (x y : XVal) : Ordering :=
  match x, y with
  | .nan _, _ => .eq
  | _, .nan _ => .eq
  | .inf a, .inf b => if a == b then .eq else if a then .lt else .gt
  | .inf a, .fin _ _ => if a then .lt else .gt
  | .fin _ _, .inf b => if b then .gt else .lt
  | .fin na a, .fin nb b =>
    if a.isZero && b.isZero then .eq
    else if na && !nb then .lt
    else if !na && nb then .gt
    else if na then cmpMag b a
    else cmpMag a b

/-- R35: the same, with -0 below +0. -/
def cmpMinMax (x y : XVal) : Ordering :=
  if x.isZero && y.isZero then (if x.isNeg == y.isNeg then .eq else if x.isNeg then .lt else .gt) else cmpX x y

/-- R35: minimum of two encodings. -/
def fminBits (t : Ty) (a b : Word) : Flagged Word :=
  let x := exact t a
  let y := exact t b
  if x.isNan || y.isNan then (canon t, flagIf (x.isSignalling || y.isSignalling) Flag.invalid)
  else (place t (bitsOf t (if cmpMinMax x y == .gt then b else a)), 0#6)

/-- R35: maximum of two encodings. -/
def fmaxBits (t : Ty) (a b : Word) : Flagged Word :=
  let x := exact t a
  let y := exact t b
  if x.isNan || y.isNan then (canon t, flagIf (x.isSignalling || y.isSignalling) Flag.invalid)
  else (place t (bitsOf t (if cmpMinMax x y == .lt then b else a)), 0#6)

/-- A floating operation on encodings, rounded once (R100). -/
def floatOp2 (f : XVal → XVal → Flagged XVal) (t : Ty) (mode : Rnd) (a b : Word) : Flagged Word :=
  (f (exact t a) (exact t b)).andThen (roundTo t mode)

/-- R100. -/
def faddBits (t : Ty) (mode : Rnd) (a b : Word) : Flagged Word := floatOp2 (addX mode) t mode a b
/-- R100. -/
def fsubBits (t : Ty) (mode : Rnd) (a b : Word) : Flagged Word := floatOp2 (fun x y => addX mode x y.negated) t mode a b
/-- R100. -/
def fmulBits (t : Ty) (mode : Rnd) (a b : Word) : Flagged Word := floatOp2 mulX t mode a b
/-- R33, R34. -/
def fdivBits (t : Ty) (mode : Rnd) (a b : Word) : Flagged Word := floatOp2 divX t mode a b
/-- R100. -/
def ffmaBits (t : Ty) (mode : Rnd) (a b c : Word) : Flagged Word :=
  (fmaX mode (exact t a) (exact t b) (exact t c)).andThen (roundTo t mode)

/-- R34: NaN in, canonical NaN out; otherwise the sign alone changes. -/
def fsignBits (t : Ty) (f : XVal → XVal) (a : Word) : Flagged Word := roundTo t .rn (f (exact t a))

/-- R50, RINT, as a signed integer, and whether it changed the value. -/
def rint (mode : Rnd) (neg : Bool) (m : Mag) : Int × Bool :=
  let (n, inexact) := m.roundSteps neg 0 mode
  (if neg then -(n : Int) else n, inexact)

/-- R36: a float to an integer type. A source out of range that rounding also changed sets both flags (DEDUCED, assumption 89). -/
def floatToInt (t : Ty) (mode : Rnd) (x : XVal) : Flagged Word :=
  match x with
  | .nan _ => (0#64, Flag.invalid)
  | .inf neg => (placeInt t (if neg then t.minInt else t.maxInt), Flag.invalid)
  | .fin neg m =>
    -- beyond 2^70 no integer type reaches
    if m.man != 0 && m.exp + m.man.log2 > 70 then (placeInt t (if neg then t.minInt else t.maxInt), Flag.invalid)
    else
      let (i, inexact) := rint mode neg m
      if i < t.minInt || i > t.maxInt then (placeInt t (clampInt i t.minInt t.maxInt), Flag.invalid ||| flagIf inexact Flag.inexact)
      else (placeInt t i, flagIf inexact Flag.inexact)

/-- R36: a conversion from one type to another, in a mode; `sat` clamps integer to integer. -/
def convert (src dst : Ty) (mode : Rnd) (sat : Bool) (v : Word) : Flagged Word :=
  if src.isBits || dst.isBits then (place dst (bitsOf src v), 0#6)
  else if src.isFloat then
    if dst.isFloat then roundTo dst mode (exact src v) else floatToInt dst mode (exact src v)
  else if dst.isFloat then roundTo dst mode (exact src v)
  else
    let x := intOf src v
    if sat && (x < dst.minInt || x > dst.maxInt) then (placeInt dst (clampInt x dst.minInt dst.maxInt), Flag.overflow)
    else (placeInt dst x, 0#6)

/-- R45, SRINT on a magnitude: the draw decides between the two whole numbers of steps of `2 ^ q`. -/
def srintSteps (m : Mag) (q : Int) (draw : Nat) : Nat × Bool :=
  let lo := (m.split q).1
  let t := (m.split (q - 32)).1 % 2 ^ 32
  (if draw < t then lo + 1 else lo, (m.split q).2.1)

/-- R45, SROUND, to f16 or bf16. (DEDUCED, assumption 15) -/
def sround (f : FloatFmt) (x : XVal) (draw : Nat) : Flagged Nat :=
  match x with
  | .nan _ => roundX f .rn x
  | .inf _ => roundX f .rn x
  | .fin neg m =>
    if m.isZero then roundX f .rn x
    else
      let e : Int := m.exp + m.man.log2
      let top : Int := if e < f.emin then f.emin else e
      let q := top - (f.prec - 1 : Nat)
      let bits (n : Nat) : Nat := (top - f.emin).toNat * 2 ^ (f.prec - 1) + n
      if e > f.emax || bits (m.split q).1 ≥ f.infBits - 1 then roundX f .rn x
      else
        let (n, inexact) := srintSteps m q draw
        let tiny := bits n < 2 ^ (f.prec - 1)
        (f.signBit neg + bits n, flagIf inexact Flag.inexact ||| flagIf (tiny && inexact) Flag.underflow)

end Sys2Proof
end

