-- ==== Sys2Proof/Machine/Blocks.lean ====
section
/-! DEFINITION. Sums (R46, R47), shared-exponent blocks (R39-R45) and binned terms (R49, R50). -/

namespace Sys2Proof

/-- The signed whole number of steps of `2 ^ e` that an exact value holds; `e` is at most its exponent. -/
def XVal.steps (e : Int) : XVal → Int
  | .nan _ => 0
  | .inf _ => 0
  | .fin neg m => signedAt neg m e

/-- The least exponent of the finite non-zero values of a list. -/
def leastExp : List XVal → Option Int
  | [] => none
  | x :: xs =>
    match x, leastExp xs with
    | .fin _ m, none => if m.isZero then none else some m.exp
    | .fin _ m, some e => if m.isZero then some e else some (if m.exp < e then m.exp else e)
    | .inf _, r => r
    | .nan _, r => r

/-- R46, SUMX: the exact sum of finite and other terms. Beside a quiet NaN, infinities of both signs set no flag (DEDUCED, assumption 90). -/
def sumX (mode : Rnd) (terms : List XVal) : Flagged XVal :=
  if terms.any XVal.isNan then nanOf terms
  else if terms.contains (.inf false) && terms.contains (.inf true) then invalidNan
  else if terms.contains (.inf false) then (.inf false, 0#6)
  else if terms.contains (.inf true) then (.inf true, 0#6)
  else
    let e := (leastExp terms).getD 0
    let x := (terms.map (XVal.steps e)).sum
    if x = 0 then
      (.fin (!terms.isEmpty && (terms.all (fun t => t.isZero && t.isNeg) || zeroSign mode)) ⟨0, 0, false⟩, 0#6)
    else (.fin (x < 0) ⟨x.natAbs, e, false⟩, 0#6)

/-- A value times a count (R46). -/
def XVal.timesCount (n : Nat) : XVal → XVal
  | .nan sig => .nan sig
  | .inf neg => .inf neg
  | .fin neg m => .fin neg ⟨m.man * n, m.exp, false⟩

/-- R47, SUMORD: start from the first element and add each following one, rounding each time. -/
def sumOrdered (t : Ty) (mode : Rnd) : List Word → Flagged Word
  | [] => (0#64, 0#6)
  | [v] => roundTo t mode (exact t v)
  | v :: vs => flaggedFold (fun acc x => faddBits t mode acc x) v vs

/-- R49, R50, BINFIX: a term as a 128-bit fixed-point integer relative to the exponent e; it saturates with overflow. A NaN counts as 0. -/
def binFix (x : XVal) (e : Int) : Flagged Int :=
  match x with
  | .nan _ => (0, 0#6)
  | .inf neg => (if neg then -(2 ^ 127) else 2 ^ 127 - 1, Flag.overflow)
  | .fin neg m =>
    if m.exp + m.man.log2 + 99 - e > 130 then (if neg && !m.isZero then -(2 ^ 127) else if m.isZero then 0 else 2 ^ 127 - 1, flagIf (!m.isZero) Flag.overflow)
    else
      let n := (m.roundSteps neg (e - 99) .rn).1
      let i : Int := if neg then -(n : Int) else n
      if i < -(2 ^ 127) then (-(2 ^ 127), Flag.overflow) else if i > 2 ^ 127 - 1 then (2 ^ 127 - 1, Flag.overflow) else (i, 0#6)

/-- R39: the code in byte 0 of a block. -/
def SxFmt.byteCode : SxFmt → Byte
  | .sx4 => 4#8 | .sx6 => 6#8 | .sx8 => 8#8

/-- R40: the width w of a magnitude. -/
def SxFmt.magWidth : SxFmt → Nat
  | .sx4 => 3 | .sx6 => 5 | .sx8 => 7

/-- R39: spans of a block. -/
def SxFmt.spans : SxFmt → Nat
  | .sx4 => 12 | .sx6 => 8 | .sx8 => 6

/-- R39: elements of a block. -/
def SxFmt.elements (f : SxFmt) : Nat := 8 * f.spans

/-- R39: the offset of the first element byte. -/
def SxFmt.elementBase (f : SxFmt) : Nat := 2 + f.spans

/-- R41: Mmax. -/
def SxFmt.magMax (f : SxFmt) : Nat := 2 ^ f.magWidth - 1

/-- A coded element: its sign and magnitude (R40). -/
abbrev SxCode := Bool × Nat

/-- R40: the w+1 bits of element i in the little-endian bit stream of the element bytes. In sx4 and sx8 the same rule gives the nibble and the byte. -/
def sxElement (f : SxFmt) (stream i : Nat) : SxCode :=
  let v := (stream >>> ((f.magWidth + 1) * i)) % 2 ^ (f.magWidth + 1)
  (v.testBit f.magWidth, v % 2 ^ f.magWidth)

/-- Bytes as a little-endian number (R2). -/
def natOfBytes : List Byte → Nat
  | [] => 0
  | b :: bs => b.toNat + 256 * natOfBytes bs

/-- A number as `n` little-endian bytes (R2). -/
def bytesOfNat : Nat → Nat → List Byte
  | 0, _ => []
  | n + 1, v => BitVec.ofNat 8 v :: bytesOfNat n (v / 256)

/-- A byte read as .s8 (R39). -/
def signedByte (b : Byte) : Int := b.toInt

/-- R41: the exponent of one step of a span. -/
def sxStep (f : SxFmt) (e : Nat) (scale : Int) : Int := (max e 1 : Nat) - 127 + scale - (f.magWidth - 1 : Nat)

/-- R41: the exact value of an element; `allNan` says that every element of its span is coded (1, 0). -/
def sxValue (f : SxFmt) (e : Nat) (scale : Int) (allNan : Bool) (c : SxCode) : Flagged XVal :=
  if e = 255 then
    if allNan then (.nan false, 0#6)
    else if c.2 = f.magMax then (.inf c.1, 0#6)
    else if c.2 = 0 then (.fin c.1 ⟨0, 0, false⟩, 0#6)
    else (.nan false, Flag.invalid)
  else (.fin c.1 ⟨c.2, sxStep f e scale, false⟩, 0#6)

/-- R41: the eight values of a span, each with the flag that it sets. -/
def sxSpanValues (f : SxFmt) (e : Nat) (scale : Int) (cs : List SxCode) : List (Flagged XVal) :=
  cs.map (sxValue f e scale (cs.all (· == (true, 0))))

/-- R42: a block that is not all zero and is not of the format, or whose padding is not zero. -/
def sxMalformed (f : SxFmt) (block : List Byte) : Bool :=
  block.headD 0#8 != f.byteCode || (block.drop (f.elementBase + 48)).any (· != 0#8)

/-- R42: a block of zeros. -/
def sxAllZero (block : List Byte) : Bool := block.all (· == 0#8)

/-- R41, R42, DECSX: every element of a block of 64 bytes, unrounded, each with the flags of decoding it. -/
def sxDecode (f : SxFmt) (block : List Byte) : List (Flagged XVal) :=
  if sxAllZero block then List.replicate f.elements (.fin false ⟨0, 0, false⟩, 0#6)
  else if sxMalformed f block then List.replicate f.elements (.nan false, Flag.invalid)
  else
    let stream := natOfBytes ((block.drop f.elementBase).take 48)
    (List.range f.spans).flatMap fun g =>
      sxSpanValues f (block.getD (2 + g) 0#8).toNat (signedByte (block.getD 1 0#8)) ((List.range 8).map fun i => sxElement f stream (8 * g + i))

/-- R43: how an element of a span is rounded. -/
inductive QMode where
  | rnd (m : Rnd)
  | sr
deriving DecidableEq, Repr

/-- The finite magnitude of a value; none is used for another. -/
def XVal.mag : XVal → Mag
  | .nan _ => ⟨0, 0, false⟩
  | .inf _ => ⟨0, 0, false⟩
  | .fin _ m => m

/-- The largest magnitude of a list. -/
def maxMag : List XVal → Mag
  | [] => ⟨0, 0, false⟩
  | x :: xs => if cmpMag (maxMag xs) x.mag == .lt then x.mag else maxMag xs

/-- R43: one element of a finite span: the steps of `2 ^ q` and the flags. -/
def sxCodeOf (f : SxFmt) (mode : QMode) (q : Int) (x : XVal) (draw : Nat) : Flagged SxCode :=
  let r := match mode with
    | .rnd m => x.mag.roundSteps x.isNeg q m
    | .sr => srintSteps x.mag q draw
  let m := if r.1 > f.magMax then f.magMax else r.1
  ((x.isNeg, m),
    flagIf (r.1 > f.magMax) Flag.overflow ||| flagIf (r.2 || r.1 > f.magMax) Flag.inexact ||| flagIf (!x.isZero && m == 0) Flag.underflow)

/-- R43: the stored exponent of a finite non-zero span and the exponent of its step. -/
def spanStep (f : SxFmt) (scale : Int) (xs : List XVal) : Nat × Int :=
  let a := maxMag xs
  let ecalc : Int := a.exp + a.man.log2 + 127 - scale
  let eu := clampInt ecalc 1 254
  let step (e : Int) : Int := e - 127 + scale - (f.magWidth - 1 : Nat)
  let eu' := if eu < 254 && (a.roundSteps false (step eu) .rn).1 > f.magMax then eu + 1 else eu
  (if ecalc < 1 then 0 else eu'.toNat, step eu')

/-- R43: one element of a finite span. -/
def qspanOne (f : SxFmt) (scale : Int) (mode : QMode) (xs : List XVal) (x : XVal) (draw : Nat) : Flagged SxCode :=
  if (maxMag xs).isZero then ((x.isNeg, 0), 0#6) else sxCodeOf f mode (spanStep f scale xs).2 x draw

/-- R43, QSPAN: the stored exponent and the codes of eight exact values. -/
def qspan (f : SxFmt) (scale : Int) (mode : QMode) (xs : List XVal) (draws : List Nat) : Flagged (Nat × List SxCode) :=
  if xs.any XVal.isNan then ((255, xs.map fun _ => (true, 0)), Flag.invalid)
  else if xs.any (fun x => x == .inf true || x == .inf false) then
    ((255, xs.map fun x => (x.isNeg, if x == .inf true || x == .inf false then f.magMax else 0)), Flag.overflow)
  else
    (flaggedMap (fun p => qspanOne f scale mode xs p.1 p.2) (xs.zip draws)).andThen fun cs =>
      ((if (maxMag xs).isZero then 0 else (spanStep f scale xs).1, cs), 0#6)

/-- Cut a list into pieces of n. -/
def chunks {α : Type} (n : Nat) : Nat → List α → List (List α)
  | 0, _ => []
  | k + 1, xs => xs.take n :: chunks n k (xs.drop n)

/-- A list of exactly n elements, padded or cut. -/
def padTo {α : Type} (n : Nat) (a : α) (xs : List α) : List α := (xs ++ List.replicate n a).take n

/-- R39, R40: the 64 bytes of a block. -/
def sxPack (f : SxFmt) (scale : Byte) (spans : List (Nat × List SxCode)) : List Byte :=
  let code (c : SxCode) : Nat := c.2 + (if c.1 then 2 ^ f.magWidth else 0)
  let stream := (spans.flatMap (·.2)).foldr (fun c acc => code c + 2 ^ (f.magWidth + 1) * acc) 0
  padTo 64 0#8 ([f.byteCode, scale] ++ spans.map (fun s => BitVec.ofNat 8 s.1) ++ bytesOfNat 48 stream)

/-- R43: quantise the elements of a block; a shorter source is padded with +0. -/
def sxQuantise (f : SxFmt) (scale : Byte) (mode : QMode) (xs : List XVal) (draws : List Nat) : Flagged (List Byte) :=
  let es := chunks 8 f.spans (padTo f.elements (.fin false ⟨0, 0, false⟩) xs)
  let ds := chunks 8 f.spans (padTo f.elements 0 draws)
  (flaggedMap (fun p => qspan f (signedByte scale) mode p.1 p.2) (es.zip ds)).andThen fun spans => (sxPack f scale spans, 0#6)

end Sys2Proof
end

