-- ==== Sys2Proof/Machine/State.lean ====
section
/-! DEFINITION. The machine's state as plain data: every piece of state that the chapters name (INVENTORY.md, State), the model's own fields, the state
after reset, and the reasons a step can stop. Tables are lists of keyed entries; what an absent key means is said at each table. -/

namespace Sys2Proof.Machine

/-- A table: entries by key. -/
abbrev Tab (α : Type) := List (Nat × α)

/-- Bytes by address, in canonical form: addresses strictly rising, no entry of the value 0, which an unlisted address reads as (DESIGN CHOICE, assumption 1). -/
abbrev Memory := List Host.Cell

/-- R112: a run: a value and a count of 1-64. -/
structure Run where
  value : Word
  count : Nat
deriving DecidableEq, Repr

/-- R111: the runs of a vector or mask register, first element first. -/
abbrev Runs := List Run

/-- R337: the fault codes. -/
inductive FaultCode where
  | illegal | length | runOverflow | translation | access | align | decode | maskMismatch | detached | depth | tprogLimit | stack | ecc | step | break_
deriving DecidableEq, Repr

/-- R337: bits 15..8 of field code: the unit, a copy record, a transform binding, or an instruction fetch. -/
inductive FaultSource where
  | unit | copyRecord | binding | fetch
deriving DecidableEq, Repr

/-- R337: the trap state of a fibre. -/
structure TrapState where
  inHandler : Bool := false
  code : BitVec 16 := 0
  unit : BitVec 52 := 0
  rep : BitVec 7 := 0
  addr : Word := 0
  info : Word := 0
deriving DecidableEq, Repr

/-- R79: the outstanding counters, each at most 4,095. -/
structure Counters where
  ld : Nat := 0
  st : Nat := 0
  cp : Nat := 0
  mx : Nat := 0
  ry : Nat := 0
deriving DecidableEq, Repr

/-- R70: a repeat prefix in force. -/
structure RepeatHint where
  count : Nat
  sd : Bool
  sa : Bool
  sb : Bool
  sc : Bool
deriving DecidableEq, Repr

/-- R52, R67: the hint words of the unit in issue, so far. -/
structure Hints where
  /-- hint words read; the unit starts that many words below pc -/
  words : Nat := 0
  /-- the kind of the last one -/
  lastKind : Option Nat := none
  wide : Option (BitVec 24) := none
  rep : Option RepeatHint := none
  sched : Option Nat := none
  rnd : Option Rnd := none
  sat : Bool := false
  cache : CachePolicy := .default
deriving DecidableEq, Repr

/-- Where one aligned access of at most 64 bytes goes, once checked and translated (R177, R190, R347). -/
inductive Loc where
  /-- a byte offset in the slice of the fibre's group -/
  | slice (off : Nat)
  /-- a byte offset in the grant word -/
  | grant (off : Nat)
  /-- a physical address (State.mem), with the leaf's compression class and ordered bit and the virtual address used -/
  | mem (pa : Nat) (comp : Nat) (ordered : Bool) (policy : CachePolicy) (va : Nat)
deriving DecidableEq, Repr

/-- Where a pending operation writes its value. An age slot moves with every push, and is gone past a15 (R191). -/
inductive PendDest where
  | age (pos : Nat)
  /-- pushed when it returns: no later unit issues before that -/
  | pushAtReturn
  | named (j : Nat)
  | pair (j : Nat)
  | vec (vd : Nat)
  /-- R172: an element of a store queue, of a type -/
  | element (t : Ty) (loc : Loc)
  | none
deriving DecidableEq, Repr

/-- R226, R229: the update an atomic makes. -/
inductive AtomKind where
  | op (op : AtomOp) (t : Ty) (mode : Rnd) (sat : Bool) (operand compared : Word)
  | wideLoad
  | wideExch (new : Word × Word)
  | wideCas (old new : Word × Word)
deriving DecidableEq, Repr

/-- R191: what an outstanding load or store still does. -/
inductive PendOp where
  /-- ld, ldt -/
  | load (loc : Loc) (t : Ty) (sampler : Bool)
  /-- vld, vldg: the active positions and where their elements lie, of `len` positions in all -/
  | loadVec (elems : List (Nat × Loc)) (t : Ty) (mk : Nat) (len : Nat)
  /-- ldq -/
  | loadBlock (loc : Loc) (t : Ty) (fmt : SxFmt) (mk : Nat)
  /-- atom, atomw -/
  | atom (loc : Loc) (k : AtomKind)
  /-- ared -/
  | ared (loc : Loc) (k : AtomKind)
  /-- st, vst, vstg, stq: bytes in ascending order of application, and the flags set when accepted -/
  | store (writes : List (Loc × List Byte)) (flags : FlagSet)
  /-- swinit -/
  | syncInit (loc : Loc) (target : Word)
  /-- swadd -/
  | syncAdd (loc : Loc) (n : Word)
  /-- qbind: the queue and the descriptor (R171) -/
  | bind (q : Fin 4) (loc : Loc)
  /-- pquery -/
  | query (va : Word)
  /-- a value computed at issue that returns with the load class (lwalk, tex, texq), written to registers from `dest` on -/
  | value (vs : List Word) (flags : FlagSet)
  /-- rsld, rsst: a die and an index of its reservoir store -/
  | rsLoad (die index : Nat)
  | rsStore (die index : Nat) (words : List Word)
deriving DecidableEq, Repr

/-- An outstanding operation of a fibre: the unit that issued it, and whether later units wait for it (a data fault stays precise). -/
structure Pend where
  op : PendOp
  dest : PendDest := .none
  unit : BitVec 52
  hold : Bool := false
  /-- R172: the elements of store queues that the unit pushes to, and the queues it popped -/
  pushes : List (Fin 4 × Ty × Loc) := []
  pops : List (Fin 4) := []
  /-- R70: the repeat index of the unit -/
  rep : Nat := 0
  /-- R192: the pass in which it was issued: the convoy, the cycle, the issuer's convoy-relative index -/
  pass : Option (Nat × Nat × Nat) := none
  /-- R213: the number under which its group's slice records what happened before it, of an operation that reaches the slice -/
  number : Option Nat := none
deriving DecidableEq, Repr

/-- R80: what a stalled fibre waits for. -/
inductive Stall where
  /-- R86: a register that an outstanding load writes -/
  | result
  /-- R79: a counter at its limit, by class: ld, st, cp, mx, ry -/
  | counter (cls : Fin 5)
  /-- R263: a wait in effect: limits on ld, st, cp, mx, ry -/
  | counts (ld st cp mx ry : Option Nat)
  /-- R283: `mwait`: the limit on mx -/
  | matrix (mx : Nat)
  /-- R248 -/
  | barrier (id : Nat)
  /-- R162, R250: a list-form instruction: its member word, whether it is barm, and its address -/
  | list (word : Word) (barm : Bool) (at_ : BitVec 52)
  /-- R255: the word and the generation awaited -/
  | syncWord (va : Word) (gen : BitVec 32) (d : Dst)
  /-- R172: a load queue without its next element, or a store queue that is full -/
  | queue (q : Fin 4)
  /-- R342: the ticket, and where the result goes -/
  | service (ticket : Nat) (d : Dst)
  /-- R304 -/
  | resolution
  /-- R216, R217: reconciliation owed before the next unit -/
  | acquire
  /-- R215, R280: stores not performed, before a release point or `mrdy` -/
  | stores
  /-- R385: rays of the fibre to one hit record -/
  | rays (record : Nat)
  /-- R381, R21: 512 rays in flight: the cycle of the request, and its promotion -/
  | rayUnit (since : Nat) (promoted : Bool)
  /-- R275: the matrix queue is full -/
  | matrixQueue
  /-- R430: 64 collectives -/
  | collectives
  /-- R304: a redirected write finds no room -/
  | specRoom
  /-- R362: accesses in flight through dropped translations -/
  | translations
  /-- R351: the page moves between tiers -/
  | migration
  /-- R335: the context is being saved -/
  | saving
deriving DecidableEq, Repr

/-- R80, R201: the life of a fibre. -/
inductive Life where
  | placed
  | ready
  | stalled (why : Stall)
  | parked
  /-- saved with its group (R335): what it waited for, and whether it was parked -/
  | saved (before : Option Stall) (parked : Bool)
  | stopped (before : Option Stall) (parked : Bool)
  | exiting
  | gone
deriving DecidableEq, Repr

/-- R170: the descriptor of a queue register, as read at `qbind`. -/
structure QueueBinding where
  desc : List Byte
  /-- pops or pushes made -/
  index : Word
  /-- R175: elements read ahead, in order -/
  ahead : List Word := []
deriving DecidableEq, Repr

/-- R436-R438: a waymark, from its opening to its record. Times are in package time. -/
structure Waymark where
  context : Nat
  fibre : Nat
  /-- the address of the ring descriptor, and base and records as read -/
  ring : Word
  base : Word
  records : Nat
  tile : BitVec 32
  launch : Nat
  /-- R304: the launch and group, while speculative -/
  speculative : Option (Nat × Nat) := none
  group : Nat
  fid : Nat
  core : Nat
  opened : Nat
  cinDone : Option Nat := none
  mxIssue : Option Nat := none
  mxStart : Option Nat := none
  mxDone : Option Nat := none
  coutIssue : Option Nat := none
  coutDone : Option Nat := none
  cin : Nat := 0
  mx : Nat := 0
  cout : Nat := 0
  susp : Nat := 0
  discarded : Bool := false
  faulted : Bool := false
  preempted : Bool := false
  /-- commands stamped and not complete -/
  pending : Nat := 0
  closed : Bool := false
  /-- R437: when the tile retired -/
  retired : Option Nat := none
deriving DecidableEq, Repr

/-- R410-R412: a target program runs in a fibre: the fibre's own registers meanwhile, its pc and hint words at the `tcall`, the destination, and the units
executed. -/
structure TargetRun where
  ages : Vector Word 16
  named : Vector Word 32
  window : Nat
  preds : BitVec 8
  flags : FlagSet
  pc : BitVec 52
  hints : Hints
  dst : Dst
  units : Nat := 0
deriving DecidableEq, Repr

/-- R381: a ray handed to the ray unit. -/
structure Ray where
  anyHit : Bool
  /-- its number among the rays that its fibre issued -/
  number : Nat := 0
  /-- the 64-byte record as read at issue -/
  record : List Byte
  /-- the group whose slice holds the hit record, its offset there, and the core whose ray unit traces -/
  group : Nat
  hit : Nat
  core : Nat
deriving DecidableEq, Repr

/-- R261: a copy fault not yet raised: its code, the record, the faulting address, the `kick`, and the record's index. -/
structure CopyFault where
  code : FaultCode
  record : Word
  addr : Word
  unit : BitVec 52
  index : Nat
deriving DecidableEq, Repr

/-- R168: a result held for a list-form instruction at an address with a member word. -/
structure Held where
  at_ : BitVec 52
  word : Word
  runs : Runs
  flags : FlagSet
deriving DecidableEq, Repr

/-- R216: an edge still to be reconciled: the releasing core and its sequence value. -/
abbrev Edge := Nat × Nat

/-- R258: a copy command. -/
structure CopyCommand where
  fibre : Option Nat
  /-- R264: its number among the commands that its fibre issued -/
  number : Nat := 0
  /-- the `kick` -/
  unit : BitVec 52
  list : Word
  count : Nat
  guard : Guard
  /-- records complete, once started -/
  started : Option Nat := none
  /-- R265: it has tested its guard slot at its queue head -/
  passed : Bool := false
  /-- edges that starting it acquires (R266) -/
  acquired : List Edge := []
  /-- R437: the waymark it is stamped with, and whether it is copy-in -/
  stamped : Option (Nat × Bool) := none
  /-- R21: the cycle of its issue, and its promotion -/
  since : Nat := 0
  promoted : Bool := false
deriving DecidableEq, Repr

/-- R78, R79, R337: the state of one fibre. -/
structure Fibre where
  context : Nat
  /-- the key of its launch -/
  launch : Nat
  /-- the key of its group; none when detached (R207) -/
  group : Option Nat
  core : Nat
  fid : Nat
  life : Life
  pc : BitVec 52
  preds : BitVec 8 := 0
  ages : Vector Word 16
  window : Nat
  /-- R78, R19: the slot of its core's register store that holds its ages and its window -/
  windowBase : Nat := 0
  named : Vector Word 32
  vregs : Vector Runs 16
  masks : Vector Runs 8
  quota : Nat
  rkey : Word := 0
  rctr : Word := 0
  rep : Nat := 0
  counts : Counters := {}
  /-- R264, R282: how many operations of each class it has issued -/
  issued : Counters := {}
  flags : FlagSet := 0
  sp : BitVec 52
  /-- R108: bytes of the stack -/
  stackSize : Nat
  stack : Memory := []
  /-- R457: bytes of the stack with an uncorrectable error -/
  badStack : List Nat := []
  trap : TrapState := {}
  hints : Hints := {}
  queues : Vector (Option QueueBinding) 4
  /-- R172: elements that the unit in issue pops, by the bank index under which its operands read them; the queues popped; the elements pushed to -/
  popped : List (Fin 16 × Word) := []
  pops : List (Fin 4) := []
  pushing : List (Fin 4 × Ty × Loc) := []
  pend : List Pend := []
  rays : List Ray := []
  /-- R207: the bank as a detached fibre reads it -/
  bank : Vector Word 16
  /-- R269: the lineage key -/
  lineage : List Nat
  /-- launches made by the fibre (R269) -/
  launches : Nat := 0
  milestone : BitVec 32 := 0
  cls : Nat
  speculative : Bool := false
  /-- R216: edges acquired and not reconciled -/
  acquired : List Edge := []
  /-- R438: its open waymark -/
  mark : Option Nat := none
  /-- R258: the copy queue of a stolen continuation -/
  copies : List CopyCommand := []
  /-- R261: copy faults to be raised at waits -/
  copyFaults : List CopyFault := []
  /-- R300: a binding fault to be raised at the first unit -/
  bindingFault : Option (FaultCode × Word × Word) := none
  /-- R168: the result of a completed list form -/
  held : Option Held := none
  target : Option TargetRun := none
  /-- R208: the order in which fibres parked -/
  parkOrder : Nat := 0
  /-- R192: the pass in which it issues: the convoy, the cycle, its convoy-relative index -/
  place : Option (Nat × Nat × Nat) := none
  /-- R449: FLT_STEP is to be raised at its next unit -/
  stepDue : Bool := false
  /-- R21: its request at the ray unit, when it issues again: the cycle, and its promotion -/
  rayRequest : Option (Nat × Bool) := none
deriving DecidableEq, Repr

/-- R199: the states of a frame record. -/
inductive FrameState where
  | task | running | parked | saved | resumable | exiting
deriving DecidableEq, Repr

/-- R199: a frame record, by the key of its fibre; its address is the frame area base plus 64 times its slot. -/
structure Frame where
  context : Nat
  slot : Nat
  pc : BitVec 52
  parent : Option Nat
  /-- the address of a save area in the save region (R336) -/
  save : Nat := 0
  launch : Nat
  pending : Nat := 0
  ordinal : Nat := 0
  fid : Nat
  state : FrameState
  detached : Bool := false
  speculative : Bool := false
  stay : Bool := false
  exitWait : Bool := false
  cls : Nat
  depth : Nat
  core : Nat
  linear : Nat
  /-- creation order on its core (R206) -/
  order : Nat := 0
  /-- R203, R207: what a Task record passes on: named registers, key, bank, lineage, milestone; or the whole saved fibre -/
  passed : List Word := []
  rkey : Word := 0
  bank : Vector Word 16
  lineage : List Nat := []
  milestone : BitVec 32 := 0
  group : Option Nat := none
  savedFibre : Option Fibre := none
  /-- R281: children that reached Gone: what they knew of the slice, the await learns -/
  learned : List Nat := []
  /-- R225: releases of children that reached Gone, acquired when the await completes; of a Task or Resumable record, what its start acquires -/
  acquired : List Edge := []
  /-- R207: the first slot of the bank copy made for the spawn that created it -/
  bankSlot : Option Nat := none
  /-- R336: the first slot of the save area, and its slots -/
  saveSlot : Option (Nat × Nat) := none
deriving DecidableEq, Repr

/-- R233: the states of a group. -/
inductive GroupState where
  | waiting | prologue | running | saved (fromPrologue stopped : Bool) | stopped | retired | dropped
deriving DecidableEq, Repr

/-- R248: one barrier: its phase count and the fibres that have arrived. -/
structure Barrier where
  phase : BitVec 32 := 0
  arrivals : List Nat := []
deriving DecidableEq, Repr

/-- R265: a guard slot. -/
inductive GuardState where
  | open_ | true_ | false_
deriving DecidableEq, Repr

/-- R79: the classes of outstanding operations. -/
inductive CountClass where
  | ld | st | cp | mx | ry
deriving DecidableEq, Repr

/-- R212: who an access to a slice happens before the further work of: a fibre; the n-th operation of a class that a fibre issued; whoever acquires a release
(its core and sequence value), or observes a sync word (by its address); the commands of a packet's stream; what follows the fibres of a launch that are Gone.
(DEDUCED, assumption 43) -/
inductive Party where
  | fibre (f : Nat)
  | operation (f : Nat) (cls : CountClass) (n : Nat)
  | release (core seq : Nat)
  | word (pa : Nat)
  | stream (queue packet : Nat)
  | grid (launch : Nat)
deriving DecidableEq, Repr

/-- R275: a matrix command: the function code of R277, its operands as read at issue, its guard. -/
structure MatrixCommand where
  fibre : Option Nat
  /-- R282: its number among the commands that its fibre issued -/
  number : Nat := 0
  /-- R321: the queue and packet of a stream's command -/
  stream : Option (Nat × Nat) := none
  unit : BitVec 52
  fn : Nat
  a : Word
  b : Word
  c : Word
  /-- the records read at issue (R278) -/
  recA : List Byte := []
  recB : List Byte := []
  guard : Guard
  /-- 16-row steps done, once started -/
  started : Option Nat := none
  suspended : Bool := false
  passed : Bool := false
  flags : FlagSet := 0
  /-- R290: the B elements, by column and number, that it has replaced -/
  replaced : List (Nat × Nat) := []
  /-- R280: slice bytes written by writes that are not covered for it -/
  stale : List Nat := []
  /-- R281: the slice ranges that it writes: offset and length -/
  writes : List (Nat × Nat) := []
  /-- R437 -/
  stamped : Option Nat := none
  since : Nat := 0
  promoted : Bool := false
deriving DecidableEq, Repr

/-- R304: a sync addition held until resolution: the word, the addend, and the engine operation that makes it. -/
structure HeldAdd where
  word : Word
  amount : Word
  by_ : Option Party := none
deriving DecidableEq, Repr

/-- R280, R281: a write to a slice byte, and whose further work it happens before. -/
structure SliceWrite where
  off : Nat
  known : List Party
deriving DecidableEq, Repr

/-- R280: a matrix command that is Done, and who has acquired it. -/
structure DoneCommand where
  command : MatrixCommand
  known : List Party
deriving DecidableEq, Repr

/-- R449: stepping of a group. -/
inductive StepMode where
  | off | trap | stop
deriving DecidableEq, Repr

/-- R447-R449: the debug state of a group: the mode, a stop in progress with its cause and the reply address of its command, and the dump address. -/
structure Debug where
  mode : StepMode := .off
  stopping : Option (Nat × Option Word) := none
  /-- the cause of the last stop -/
  cause : Nat := 0
  dumpAt : Word := 0
deriving DecidableEq, Repr

/-- R232, R236: a group. -/
structure Group where
  launch : Nat
  context : Nat
  /-- R230: linear index and coordinates -/
  linear : Nat
  gx : Nat
  gy : Nat
  gz : Nat
  die : Nat
  core : Nat := 0
  state : GroupState
  cls : Nat
  bank : Vector Word 16
  /-- R243, R244: writes not in effect: issue cycle, writer's index, register, value -/
  bankWrites : List (Nat × Nat × Fin 16 × Word) := []
  grant : Nat := 0
  slice : Memory := []
  barriers : Vector Barrier 16
  guards : Vector GuardState 16
  /-- R266: the release of the write that made a slot True -/
  guardEdges : Vector (Option Edge) 16 := Vector.replicate 16 none
  /-- R266: writes not in effect: issue cycle, writer's index, slot, state, and the release they make -/
  guardWrites : List (Nat × Nat × Fin 16 × GuardState × Edge) := []
  copies : List CopyCommand := []
  matrix : List MatrixCommand := []
  /-- R271, R273: accumulator units at placement, and the f32 accumulators that are not +0 -/
  units : Nat := 0
  accumulators : List (Nat × BitVec 32) := []
  /-- R291 -/
  errorRecord : List Byte := []
  /-- R280: writes that are not covered -/
  uncovered : List SliceWrite := []
  /-- R281, R381: slice bytes that matrix commands and rays wrote, and who has acquired them -/
  produced : List SliceWrite := []
  /-- R280: the commands that are Done, the last first -/
  doneMatrix : List DoneCommand := []
  /-- R299: the next binding -/
  binding : Nat := 0
  prologueFlags : FlagSet := 0
  prologueFault : Option (FaultCode × Word × Word) := none
  speculative : Bool := false
  /-- R304: sync additions held until resolution -/
  heldAdds : List HeldAdd := []
  dbg : Debug := {}
  /-- R328: package time since which it waits for a core, and the order of placement (R442) -/
  since : Nat := 0
  placed : Nat := 0
  /-- R457: bytes of the slice and accumulators with an uncorrectable error -/
  badBytes : List Nat := []
  badAccumulators : List Nat := []
  /-- R335: where in the save region it is saved, and the bytes there -/
  savedAt : Option (Nat × Nat) := none
  /-- R321: entries of a matrix stream that join when it runs: queue and packet, the stream's address and count -/
  stream : Option (Nat × Nat × Word × Nat) := none
  /-- edges that the first units acquire -/
  acquired : List Edge := []
deriving DecidableEq, Repr

/-- R347, R352, R353: memory bytes, mode bytes of tiles (address / 256) where they are not 0, regions (address / 65,536) whose summary bit is 0.
R457: bytes, and tiles whose mode byte, hold an uncorrectable error. -/
structure Images where
  mem : Memory := []
  modes : Tab Byte := []
  encoded : List Nat := []
  bad : List Nat := []
  badModes : List Nat := []
deriving DecidableEq, Repr

/-- R293: a kernel descriptor. -/
structure Kernel where
  entry : BitVec 52
  gx : Nat
  gy : Nat
  gz : Nat
  quota : Nat
  window : Nat
  smin : Nat
  smax : Nat
  coresident : Bool
  ordered : Bool
  stack : Nat
  tbl : Word
  pmode : Nat
  pstate : Word
deriving DecidableEq, Repr

/-- R298: a transform binding. -/
structure Binding where
  kind : Nat
  stype : Nat
  dtype : Nat
  doff : Nat
  src : Word
  gsx : Int
  gsy : Int
  gsz : Int
  cols : Nat
  rows : Nat
  sstride : Int
  dstride : Int
  idx : Word
  sync : Word
deriving DecidableEq, Repr

/-- R294: a launch record. -/
structure LaunchRecord where
  desc : Word
  x : Nat
  y : Nat
  z : Nat
  units : Nat
  predicted : Bool
  key : Nat
  zmin : Nat
  zmax : Nat
  budget : Nat
  m0 : Nat
  width : Nat
  events : Nat
  cell : Word
  done : Word
  k : Vector Word 16
deriving DecidableEq, Repr

/-- R269: a buffered operation of an ordered task, and the launch and group of the fibre that made it. -/
structure Buffered where
  task : Nat
  lineage : List Nat
  op : PendOp
  by_ : Nat × Nat
deriving DecidableEq, Repr

/-- R330, R332: an event, without its sequence number. -/
structure Event where
  kind : Nat
  /-- byte 1: the status or fault code -/
  status : Nat := 0
  queue : Nat := 0
  tag : BitVec 32 := 0
  /-- bytes 8-11 and 12-15 -/
  low : BitVec 32 := 0
  high : BitVec 32 := 0
  /-- bytes 16-23: the package time, or the service of kind 9 -/
  word : Word := 0
  context : Nat := 0
  /-- the release that its write carries (R330) -/
  acquired : List Edge := []
deriving DecidableEq, Repr

/-- R304: a byte of a speculative line: the group that wrote it, its fibre, where, the leaf's class, the value. R457: whether it holds an uncorrectable error. -/
structure SpecByte where
  group : Nat
  fibre : Nat
  pa : Nat
  comp : Nat
  value : Byte
  bad : Bool := false
deriving DecidableEq, Repr

/-- R294-R306: a launch, from acceptance to retirement. -/
structure Launch where
  context : Nat
  /-- R296 -/
  slot : Nat
  kernel : Kernel
  bindings : List Binding
  record : LaunchRecord
  /-- the extent in z: P, then the true extent -/
  z : Nat
  predictedZ : Nat
  resolved : Bool
  cls : Nat
  depth : Nat
  /-- R297: the launcher's die, for a child grid -/
  child : Option Nat := none
  /-- the queue and packet number of the root grid's packet, and its tag (R301) -/
  queue : Nat
  packet : Nat
  tag : BitVec 32
  /-- the launching fibre and its launch, for a child grid -/
  parent : Option (Nat × Nat) := none
  /-- R301: the grid counter -/
  counter : Nat
  /-- R268: the phase being run -/
  phase : Nat := 0
  buffered : List Buffered := []
  /-- R269: memory as the phase began -/
  phaseMem : Images := {}
  spec : List SpecByte := []
  /-- R268: the task of an ordered grid that a child grid belongs to: the ordered launch and the task index -/
  task : Option (Nat × Nat) := none
  lineage : List Nat := []
  /-- the milestone of that task -/
  milestone : BitVec 32 := 0
  /-- the order of acceptance (R234) -/
  order : Nat
  /-- releases that every first unit acquires (R212) -/
  launchEdges : List Edge := []
  /-- releases of the fibres that reached Gone (R301) -/
  acquired : List Edge := []
  /-- R304: events held until resolution: the group's linear index, whether to the queue's ring, the event -/
  deferred : List (Nat × Bool × Event) := []
deriving DecidableEq, Repr

/-- R215: a dirty byte of L1: its physical address is its key; the bytes of a line have one stamp. R72: its store asked for eviction first. R457: whether it
holds an uncorrectable error. -/
structure DirtyByte where
  value : Byte
  stamp : Nat
  comp : Nat
  stream : Bool := false
  bad : Bool := false
deriving DecidableEq, Repr

/-- R181, R186: a clean cached image: a 64-byte line, or a 256-byte tile with its mode byte. R457: the addresses of its bytes, and whether its mode byte, hold an
uncorrectable error. -/
structure CleanLine where
  pa : Nat
  bytes : List Byte
  mode : Option Byte
  bad : List Nat := []
  badMode : Bool := false
deriving DecidableEq, Repr

/-- R347, R349: a cached translation: the context, the first address and size of the page, and the leaf. -/
structure CachedLeaf where
  context : Nat
  va : Nat
  size : Nat
  leaf : Word
deriving DecidableEq, Repr

/-- R82: whose fibres a convoy holds. -/
inductive ConvoyOf where
  | group (g : Nat)
  | detached (launch : Nat)
deriving DecidableEq, Repr

/-- R82-R85: a convoy. -/
structure Convoy where
  of : ConvoyOf
  members : List Nat
  lane : Nat
  /-- the cycles at which it formed and last issued -/
  formed : Nat
  issued : Nat
  promoted : Bool := false
deriving DecidableEq, Repr

/-- One core. -/
structure CoreState where
  clock : Nat := 0
  /-- R215: the release sequence -/
  release : Nat := 0
  dirty : Tab DirtyByte := []
  clean : List CleanLine := []
  sampler : List CleanLine := []
  /-- R186: has a fibre of the core executed `pfence.die`? -/
  fenced : Bool := false
  tlb : List CachedLeaf := []
  /-- R179: the L1 part in steps of 64 KiB -/
  boundary : Nat := 1
  /-- R179: the last interval of 65,536 cycles in which it could move -/
  interval : Nat := 0
  convoys : Tab Convoy := []
  /-- R344: contexts that it has held -/
  held : List Nat := []
  /-- R292: the cycles of the last passing self-test of each quadrant, and of the last self-test -/
  selfTests : Vector Nat 4 := Vector.replicate 4 0
  tested : Vector (Option Nat) 4 := Vector.replicate 4 none
deriving DecidableEq, Repr

/-- R312, R331: an event ring in host memory: its base, log2 of its records, the acknowledgement word, events written, the last count read, events held. -/
structure Ring where
  base : Word
  size : Nat
  ack : Word
  seq : Nat := 0
  acked : BitVec 32 := 0
  held : List Event := []
deriving DecidableEq, Repr

/-- R323: what of a packet is still to complete. -/
structure PacketParts where
  launch : Option Nat := none
  /-- the stream's matrix commands not yet Done, and its sync word -/
  stream : Option (Nat × Word) := none
  copies : Option CopyCommand := none
  reuse : Option Nat := none
deriving DecidableEq, Repr

/-- R317: a packet that the command processor has copied. -/
structure Packet where
  /-- its number in the queue -/
  number : Nat
  bytes : List Byte
  /-- R328: when the doorbell count that covers it was read -/
  readAt : Nat := 0
  started : Bool := false
  /-- R319: statuses of its parts -/
  statuses : List Nat := []
  /-- R330: the launch identity of its grid -/
  identity : Nat := 0
  parts : PacketParts := {}
  /-- R324: the step counter -/
  steps : Nat := 0
  acquired : List Edge := []
deriving DecidableEq, Repr

/-- R441: an open trace session. -/
structure TraceSession where
  buffer : Nat
  /-- log2 of the buffer's bytes -/
  size : Nat
  full : Bool
  summary : Bool
  samples : Bool
  launch : Nat
  group : Nat
  queue : Nat
  period : Nat
  tailWord : Nat
  /-- R444: bytes written, records dropped since the last one written, and records held in order -/
  tail : Nat := 0
  lost : Nat := 0
  held : List (List Byte) := []
  /-- R445: by core: the period in which it last sampled, and the rotation -/
  sampled : Tab (Nat × Nat) := []
deriving DecidableEq, Repr

/-- R327: the states of a queue. -/
inductive QueueState where
  | idle | active | blocked | descheduled (blocked : Bool) | halted
deriving DecidableEq, Repr

/-- R312: a queue. -/
structure Queue where
  context : Nat
  ring : Word
  lsize : Nat
  cls : Nat
  device : Bool
  interval : Nat
  allow : Word
  bell : Word
  state : QueueState := .idle
  /-- R312: the consumed count -/
  consumed : Word := 0
  /-- the doorbell count last read -/
  bellRead : Word := 0
  /-- C at the last allowance write -/
  allowed : Word := 0
  packets : List Packet := []
  /-- R318: releases of retired packets -/
  acquired : List Edge := []
  events : Ring
  trace : Option TraceSession := none
deriving DecidableEq, Repr

/-- R333: the states of a context. -/
inductive ContextState where
  | loaded | running | saving | saved | dumping
deriving DecidableEq, Repr

/-- R331: a context descriptor. -/
structure ContextDesc where
  bytes : List Byte
  ptroot : Word
  tvec : BitVec 52
  frameBase : Nat
  frameSize : Nat
  sliceMicros : Nat
  saveBase : Nat
  saveSize : Nat
  reservoirMib : Nat
  specMib : Nat
  heapBase : Nat
  heapSize : Nat
  breakToDebugger : Bool
  errorBase : Nat
  errorSize : Nat
  dumpBase : Nat
  dumpSize : Nat
deriving DecidableEq, Repr

/-- R310, R304: a heap block: base and size, the speculative group (launch and index) that holds it retractably, and the one whose free of it is deferred. -/
structure HeapBlock where
  base : Nat
  size : Nat
  retractable : Option (Nat × Nat) := none
  freeing : Option (Nat × Nat) := none
  /-- R304, R311: the release of a deferred `xfree` -/
  freedBy : Option Edge := none
deriving DecidableEq, Repr

/-- R331: a context. A context that is Free is absent from its table. -/
structure Context where
  desc : ContextDesc
  state : ContextState := .loaded
  bound : Bool := false
  heap : List HeapBlock := []
  /-- R311: frees not yet acquired: base, size, edge -/
  freed : List (Nat × Nat × Edge) := []
  /-- R310: 256-byte pieces of blocks whose page was not resident when they were allocated: each is made free at the first access -/
  unset : List Nat := []
  events : Ring
  errorSlots : Nat := 0
  /-- R342: tickets of outstanding services: ticket and fibre; the next ticket -/
  tickets : List (Nat × Nat) := []
  nextTicket : Nat := 0
  results : Tab Word := []
  /-- R328: package time at which the slice began, and when it last ran -/
  sliceStart : Nat := 0
  lastRun : Nat := 0
  /-- R182: the slice table, where it is not the identity -/
  sliceTable : Tab Nat := []
  /-- R407: the reservoir store of each die, by record index, four words each -/
  reservoirs : Vector (Tab (Word × Word × Word × Word)) 2 := Vector.replicate 2 []
  /-- R457: records of the reservoir store with an uncorrectable error, by die and index -/
  badRecords : List (Nat × Nat) := []
  /-- the mailbox slot of a destroy message not yet answered (R333) -/
  destroying : Option Nat := none
deriving DecidableEq, Repr

/-- R84: a pass in progress: the core, the convoy, whether its members have been checked for what they wait for (R86), members that have not issued, all
members, and every member's state as the pass began (R161). (DESIGN CHOICE, assumption 6) -/
structure Pass where
  core : Nat
  convoy : Nat
  opened : Bool := true
  todo : List Nat
  members : List Nat
  snapshot : Tab Fibre
  /-- R449: has a member completed its unit? -/
  completed : Bool := false
deriving DecidableEq, Repr

/-- R452: a signature of a signed object: absent, one that does not verify, or one that does. -/
inductive Signature where
  | missing | failing | verifying
deriving DecidableEq, Repr

/-- R452: a signed object: its RSA-3072 signature and its SLH-DSA-SHA2-192s signature. -/
structure SignedObject where
  rsa : Signature := .verifying
  slh : Signature := .verifying
deriving DecidableEq, Repr

/-- The model's own field: what happens next, as plain data (DESIGN CHOICE, assumption 2). -/
inductive Happening where
  /-- a row of the table without an encoding -/
  | event (i : Instr)
  /-- package time passes, in nanoseconds (DESIGN CHOICE, assumption 5) -/
  | time (n : Nat)
  /-- a core evicts the line that holds a physical address: written back and dropped (R181, R348) -/
  | evict (core pa : Nat)
  /-- a core or die drops a cached translation of a context's page (R348) -/
  | forget (core context va : Nat)
  /-- R483: the host connects a queue pair again after an error (PRESUMED, assumption 94) -/
  | reconnect (qp : Nat)
  /-- R426: the write-backs of the line that holds a physical address are acknowledged (DESIGN CHOICE, assumption 110) -/
  | delivered (pa : Nat)
  /-- R426: every path to a package goes Down, or one is Up again, for a reason outside this package (DESIGN CHOICE, assumption 110) -/
  | pathsDown (pkg : Nat)
  | pathsUp (pkg : Nat)
  /-- R452: a firmware image is stored for a core of Tollhouse (DESIGN CHOICE, assumption 123) -/
  | firmware (core : Fin 8) (o : SignedObject)
deriving DecidableEq, Repr

/-- R421: the states of a link unit. -/
inductive LinkState where
  | down | training (failures : Nat) | up | degraded
deriving DecidableEq, Repr

/-- R427: write packets sent to a package on a path since its last marker. -/
structure PathCount where
  dest : Nat
  path : Nat
  count : Nat
deriving DecidableEq, Repr

/-- R426: a byte written back to another package and not acknowledged: by which core (none for an engine), on which path, and the epoch whose marker counts it. -/
structure InFlight where
  pa : Nat
  core : Option Nat
  path : Nat
  epoch : Nat
deriving DecidableEq, Repr

/-- R427, R428: a marker sent whose epoch is not acknowledged: to whom, the path it takes, its epoch and its 32 bytes. -/
structure SentMarker where
  dest : Nat
  route : Nat
  epoch : Nat
  bytes : List Byte
deriving DecidableEq, Repr

/-- R426: the answer to a load or an atomic of another package: its old bytes, and whether they met an uncorrectable error. -/
structure RemoteReply where
  dest : Nat
  path : Nat
  data : List Byte
  faulty : Bool := false
deriving DecidableEq, Repr

/-- R421-R428: links, the link control word, and the paths to other packages. -/
structure LinkFabric where
  modules : Vector LinkState 16 := Vector.replicate 16 .down
  host : LinkState := .down
  fabric : Vector LinkState 8 := Vector.replicate 8 .down
  /-- R421: units that the end of package reset, or the link control word, has enabled and that have not trained since -/
  armed : List LinkUnit := .host :: (List.finRange 16).map .module
  control : Word := 0
  sent : List PathCount := []
  inFlight : List InFlight := []
  /-- R428: by package, the epoch of the latest acquire point that sent it markers; the epochs not acknowledged, and their markers -/
  epochs : Tab Nat := []
  waiting : List (Nat × Nat) := []
  outgoing : List SentMarker := []
  /-- markers received and not acknowledged, and write packets performed, by sender and path -/
  markers : List Marker := []
  performed : List (Nat × Nat × Nat) := []
  /-- the last epoch acknowledged to each sender, and the acknowledgements sent -/
  acked : Tab Nat := []
  acks : List (Nat × List Byte) := []
  /-- R426: answers to loads and atomics of other packages -/
  replies : List RemoteReply := []
  /-- R426: since when no fabric port carries traffic; packages that no path reaches for a reason outside this package, and since when; packages that no path has
  reached for 10 ms -/
  portsDown : Option Nat := some 0
  down : List (Nat × Nat) := []
  unreachable : List Nat := []
deriving DecidableEq, Repr

/-- R415: the states of a reuse job that is not Done. The engines take an accepted job at once: it is in Exchange with both dies live, else in Resampling. -/
inductive JobState where
  | exchange | resampling
deriving DecidableEq, Repr

/-- R413-R419: a reuse job. -/
structure ReuseJob where
  context : Nat
  cls : Nat
  desc : List Byte
  /-- the queue and packet that carried it -/
  packet : Option (Nat × Nat) := none
  /-- R415, R332: the queue and packet under which its work runs, and the tag and launch identity for a report of kind 13 -/
  root : Nat × Nat
  tag : BitVec 32 := 0
  slot : Nat := 0
  /-- the launch and group for a report of kind 13 -/
  launch : Option (Nat × Nat) := none
  /-- R268: submitted by a task of an ordered grid -/
  ordered : Bool := false
  state : JobState
  /-- tiles whose pixels are written, and tiles retired -/
  written : List Nat := []
  retired : List Nat := []
  /-- R21: tiles whose visibility rays wait for the ray unit: the tile and the cycle of its core -/
  waits : List (Nat × Nat) := []
  /-- R418, R413: the record that each pixel written has, by die and index, the records read for it, and whether a halo copy may have served one; input
  records changed since the job was issued; the dies whose halo region was written to since then -/
  outputs : List (Nat × Nat × List (Nat × Nat) × Bool) := []
  changed : List (Nat × Nat) := []
  haloWritten : List Nat := []
  /-- R419: the first fault: frame tile, frame pixel, order within the pixel, code, address -/
  fault : Option (Nat × Nat × Nat × Nat × Word) := none
  acquired : List Edge := []
deriving DecidableEq, Repr

/-- R429-R433: a collective that this package takes part in. -/
structure Collective where
  context : Nat
  launch : Nat
  group : Nat
  /-- R332: for a report of kind 13: the queue and tag of the root grid's packet, and the launch identity -/
  queue : Nat := 0
  tag : BitVec 32 := 0
  slot : Nat := 0
  desc : List Byte
  table : List Nat
  started : Nat
  /-- R268: issued by a task of an ordered grid -/
  ordered : Bool := false
  /-- R433: the terms, source by source, as they stood at issue; where the sources lie: physical address, length, source, byte offset in it; and the source
  bytes written since, by source and offset -/
  terms : List (List Word) := []
  spans : List (Nat × Nat × Nat × Nat) := []
  touched : List (Nat × Nat) := []
  messages : List CollectiveMessage := []
  acquired : List Edge := []
deriving DecidableEq, Repr

/-- R483: what the host port answered. -/
structure RdmaAnswer where
  qp : Nat
  ok : Bool
  data : List Byte := []
deriving DecidableEq, Repr

/-- Events to the host that no ring carries (R292, R421, R451, R455). -/
inductive HostEvent where
  | capability
  | linkDown (u : LinkUnit)
  | selfTestFailed (core quadrant sub since : Nat)
deriving DecidableEq, Repr

/-- R339: a window of one 64-byte slot per context, and the slots whose message is not answered. -/
structure Window where
  bytes : Memory := []
  pending : List Nat := []
deriving DecidableEq, Repr

/-- R446: an accepted debug command that has not been answered: its slot, its 64 bytes, whether it arrived while one for its group was incomplete, and whether it is
a stop under way. -/
structure DebugEntry where
  slot : Nat
  message : List Byte
  busy : Bool := false
  taken : Bool := false
deriving DecidableEq, Repr

/-- R446: the debug window: one 64-byte slot per context, and the commands accepted and not answered, in order. -/
structure DebugWindow where
  bytes : Memory := []
  accepted : List DebugEntry := []
deriving DecidableEq, Repr

/-- R451-R456: boot, service and clocks. -/
structure Platform where
  /-- the boot step in progress; 8 when boot is complete -/
  step : Nat := 0
  failed : Bool := false
  /-- R456: the core clock of each die in MHz -/
  clock : Vector Nat 2 := Vector.replicate 2 1200
  /-- R456: the package holds reset until a create message -/
  holding : Bool := false
  /-- R457: units under a targeted self-test -/
  testing : List TestUnit := []
  /-- R457: errors found in units whose test has not ended since, and errors counted as transient -/
  errors : List TestUnit := []
  transient : Nat := 0
  /-- R452: the firmware images, in core order -/
  images : Vector SignedObject 8 := Vector.replicate 8 {}
deriving DecidableEq, Repr

/-- The whole package. -/
structure State where
  /-- R15, R347, R426, R353: physical memory by address, with its compression metadata: tier * 2^40 + offset of this package,
  (node + 1) * 2^41 + tier * 2^40 + offset of another -/
  home : Images := {}
  /-- R312, R330: host memory -/
  host : Memory := []
  /-- R256: the releases of additions to a sync word, by its physical address -/
  wordEdges : Tab (List Edge) := []
  /-- R326: package time -/
  time : Nat := 0
  /-- cores, by number; an absent one is as reset leaves it -/
  cores : Tab CoreState := []
  /-- R347: the walk cache of each die -/
  walks : Vector (List CachedLeaf) 2 := Vector.replicate 2 []
  fibres : Tab Fibre := []
  /-- R199: records, by the key of their fibre -/
  frames : Tab Frame := []
  groups : Tab Group := []
  launches : Tab Launch := []
  contexts : Tab Context := []
  queues : Tab Queue := []
  /-- the next key of a fibre, group, launch or convoy -/
  fresh : Nat := 0
  /-- R18, R425: the package's own id -/
  node : Nat := 0
  /-- R25, R455: units out of service -/
  fences : List TestUnit := []
  /-- R16, R422, R451: dies in service; none before boot has brought them up -/
  diesUp : List Nat := []
  link : LinkFabric := {}
  platform : Platform := {}
  mailbox : Window := {}
  debugWindow : DebugWindow := {}
  rdma : List RdmaAnswer := []
  /-- R483: queue pairs in error: a refusal leaves one there, and it takes no operation until it is connected again (PRESUMED, assumption 94) -/
  pairErrors : List Nat := []
  hostEvents : List HostEvent := []
  jobs : Tab ReuseJob := []
  collectives : Tab Collective := []
  marks : Tab Waymark := []
  pass : Option Pass := none
  schedule : List Happening := []
  /-- the model's own field: free values taken (DESIGN CHOICE, assumption 3) -/
  freeCount : Nat := 0
deriving DecidableEq, Repr

/-- Why the machine stops. -/
inductive Fault where
  /-- An encoded instruction is executed and no fibre is issuing: raised by every meaning of an encoded instruction; safe, since no step of the device does it. -/
  | noIssuingFibre
deriving DecidableEq, Repr

/-- What the model gives no meaning. -/
inductive Refusal where
  /-- The arm of an instruction that has no meaning yet; safe. -/
  | notModelled (mnemonic : String)
deriving DecidableEq, Repr

/-- R357, R451: the package right after reset. (DESIGN CHOICE, assumption 8) -/
def State.reset : State := {}

end Sys2Proof.Machine
end

