-- ==== Sys2Proof/Machine/Ops.lean ====
section
/-! DEFINITION. Named operations: tables, memory, the registers of a fibre (R53, R54, R88), releases and edges (R215), events (R330, R332), taking an
exception and returning from one (R338, R341), and the frame in which every instruction of a fibre executes (R52, R71, R80). -/

namespace Sys2Proof.Machine

/-- The entry of a key. -/
def Tab.get? {α : Type} (t : Tab α) (k : Nat) : Option α :=
  match t with
  | [] => none
  | (j, v) :: rest => if j = k then some v else Tab.get? rest k

/-- Set the entry of a key; keys stay rising. -/
def Tab.put {α : Type} (t : Tab α) (k : Nat) (v : α) : Tab α :=
  match t with
  | [] => [(k, v)]
  | (j, w) :: rest => if j = k then (k, v) :: rest else if k < j then (k, v) :: (j, w) :: rest else (j, w) :: Tab.put rest k v

/-- Remove a key. -/
def Tab.del {α : Type} (t : Tab α) (k : Nat) : Tab α := t.filter fun e => e.1 != k

/-- The keys whose entries satisfy a condition, in rising order. -/
def Tab.keys {α : Type} (t : Tab α) (p : Nat → α → Bool) : List Nat := (t.filter fun e => p e.1 e.2).map (·.1)

/-- Apply a function to every entry. -/
def Tab.mapAll {α : Type} (t : Tab α) (f : Nat → α → α) : Tab α := t.map fun e => (e.1, f e.1 e.2)

/-- What an address reads as. -/
def Memory.read (m : Memory) (a : Nat) : Byte :=
  match m with
  | [] => 0
  | (j, v) :: rest => if j = a then v else Memory.read rest a

/-- Write one byte; a byte of 0 is not listed. -/
def Memory.write (m : Memory) (a : Nat) (b : Byte) : Memory :=
  match m with
  | [] => if b = 0 then [] else [(a, b)]
  | (j, v) :: rest =>
    if a < j then (if b = 0 then [] else [(a, b)]) ++ ((j, v) :: rest).filter (fun e => e.1 != a)
    else if j = a then (if b = 0 then [] else [(a, b)]) ++ rest.filter (fun e => e.1 != a)
    else (j, v) :: Memory.write rest a b

/-- The canonical form: addresses strictly rising, no entry of 0. -/
def Memory.wf (m : Memory) : Bool :=
  match m with
  | [] => true
  | (a, b) :: rest => b != 0 && rest.all (fun e => a < e.1) && Memory.wf rest

/-- `n` bytes from an address on. -/
def Memory.readBytes (m : Memory) (a n : Nat) : List Byte := (List.range n).map fun i => m.read (a + i)

/-- Write bytes from an address on. -/
def Memory.writeBytes (m : Memory) (a : Nat) : List Byte → Memory
  | [] => m
  | b :: bs => Memory.writeBytes (m.write a b) (a + 1) bs

/-- A little-endian number of `n` bytes (R2). -/
def Memory.readNat (m : Memory) (a n : Nat) : Nat := natOfBytes (m.readBytes a n)

/-- Write a number as `n` little-endian bytes (R2). -/
def Memory.writeNat (m : Memory) (a n v : Nat) : Memory := m.writeBytes a (bytesOfNat n v)

/-- A number out of a list of bytes (R2). -/
def fieldOf (bs : List Byte) (off n : Nat) : Nat := natOfBytes ((bs.drop off).take n)

/-- A signed number out of a list of bytes. -/
def signedFieldOf (bs : List Byte) (off n : Nat) : Int :=
  let v := fieldOf bs off n
  if v ≥ 2 ^ (8 * n - 1) then (v : Int) - (2 ^ (8 * n) : Nat) else v

/-- A 64-bit field. -/
def wordFieldOf (bs : List Byte) (off : Nat) : Word := BitVec.ofNat 64 (fieldOf bs off 8)

/-- The bytes of a list from `off` on, `n` of them, are all zero. -/
def zeroBytes (bs : List Byte) (off n : Nat) : Bool := ((bs.drop off).take n).all (· == 0)

/-! ### Components of the state -/

/-- A core; one never touched is as reset leaves it (R179, R215). -/
def State.core (s : State) (c : Nat) : CoreState := (s.cores.get? c).getD {}

/-- Replace a core. -/
def State.setCore (s : State) (c : Nat) (k : CoreState) : State := { s with cores := s.cores.put c k }

/-- R344: a core holds a context. -/
def State.holdOn (s : State) (core c : Nat) : State :=
  let k := s.core core
  if k.held.contains c then s else s.setCore core { k with held := c :: k.held }

/-- Replace a fibre. -/
def State.setFibre (s : State) (f : Nat) (x : Fibre) : State := { s with fibres := s.fibres.put f x }

/-- Replace a group. -/
def State.setGroup (s : State) (g : Nat) (x : Group) : State := { s with groups := s.groups.put g x }

/-- Replace a launch. -/
def State.setLaunch (s : State) (l : Nat) (x : Launch) : State := { s with launches := s.launches.put l x }

/-- Replace a context. -/
def State.setContext (s : State) (c : Nat) (x : Context) : State := { s with contexts := s.contexts.put c x }

/-- Replace a queue. -/
def State.setQueue (s : State) (q : Nat) (x : Queue) : State := { s with queues := s.queues.put q x }

/-- Change a fibre that exists. -/
def State.updFibre (s : State) (f : Nat) (k : Fibre → Fibre) : State :=
  match s.fibres.get? f with
  | some x => s.setFibre f (k x)
  | none => s

/-- Change a group that exists. -/
def State.updGroup (s : State) (g : Nat) (k : Group → Group) : State :=
  match s.groups.get? g with
  | some x => s.setGroup g (k x)
  | none => s

/-- Change a launch that exists. -/
def State.updLaunch (s : State) (l : Nat) (k : Launch → Launch) : State :=
  match s.launches.get? l with
  | some x => s.setLaunch l (k x)
  | none => s

/-- Change a context that exists. -/
def State.updContext (s : State) (c : Nat) (k : Context → Context) : State :=
  match s.contexts.get? c with
  | some x => s.setContext c (k x)
  | none => s

/-- Change a queue that exists. -/
def State.updQueue (s : State) (q : Nat) (k : Queue → Queue) : State :=
  match s.queues.get? q with
  | some x => s.setQueue q (k x)
  | none => s

/-- The group of a fibre. -/
def State.groupOf (s : State) (x : Fibre) : Option Group :=
  match x.group with
  | some g => s.groups.get? g
  | none => none

/-- R90, R207: the bank that a fibre reads: its group's, or its own copy when detached. -/
def State.bankOf (s : State) (x : Fibre) : Vector Word 16 :=
  match s.groupOf x with
  | some g => g.bank
  | none => x.bank

/-- Put an element before the first one that it may stand before. -/
def insertBy {α : Type} (le : α → α → Bool) (x : α) : List α → List α
  | [] => [x]
  | y :: ys => if le x y then x :: y :: ys else y :: insertBy le x ys

/-- Sort; elements that may stand before one another keep their order. -/
def sortBy {α : Type} (le : α → α → Bool) : List α → List α
  | [] => []
  | x :: xs => insertBy le x (sortBy le xs)

/-- R231: the fibres of a group that hold a group-relative index, in ascending index. -/
def State.members (s : State) (g : Nat) : List (Nat × Fibre) :=
  sortBy (fun a b => a.2.fid ≤ b.2.fid) (s.fibres.filter fun e => e.2.group == some g && e.2.life != .gone)

/-- `n` free bytes (DESIGN CHOICE, assumption 3). -/
def State.freeBytes (s : State) (n : Nat) : List Byte × State :=
  ((List.range n).map fun i => Config.freeByte (s.freeCount + i), { s with freeCount := s.freeCount + n })

/-! ### The registers of a fibre -/

/-- R53, R172: the value of an operand specifier. An operand popped from a load queue reads its element. -/
def Fibre.read (x : Fibre) (bank : Vector Word 16) : Src → Word
  | .a i => x.ages[i]
  | .n i => x.named[i]
  | .k i =>
    match x.popped.find? (fun e => e.1 == i) with
    | some e => e.2
    | none => bank[i]

/-- R88: shift the age queue and write a0. -/
def pushAge (q : Vector Word 16) (v : Word) : Vector Word 16 :=
  Vector.ofFn fun i : Fin 16 => if i.val = 0 then v else q[i.val - 1]

/-- R191: a pending age slot moves with a push. -/
def PendDest.pushed : PendDest → PendDest
  | .age pos => if pos + 1 < 16 then .age (pos + 1) else .none
  | .pushAtReturn => .pushAtReturn
  | .named j => .named j
  | .pair j => .pair j
  | .vec vd => .vec vd
  | .element t loc => .element t loc
  | .none => .none

/-- R88: push a value; every pending slot of the queue moves. -/
def Fibre.push (x : Fibre) (v : Word) : Fibre :=
  { x with ages := pushAge x.ages v, pend := x.pend.map fun p => { p with dest := p.dest.pushed } }

/-- Write a named register by number. -/
def Fibre.setNamed (x : Fibre) (j : Nat) (v : Word) : Fibre := { x with named := x.named.setIfInBounds j v }

/-- R54: write a destination. -/
def Fibre.write (x : Fibre) (d : Dst) (v : Word) : Fibre :=
  match d with
  | .push => x.push v
  | .n i => x.setNamed i.val v

/-- R96: the destination's old value: the named register, or a0 before the push. -/
def Fibre.old (x : Fibre) (d : Dst) : Word :=
  match d with
  | .push => x.ages[0]
  | .n i => x.named[i]

/-- R38: join flags. -/
def Fibre.orFlags (x : Fibre) (f : FlagSet) : Fibre := { x with flags := x.flags ||| f }

/-- A predicate. -/
def Fibre.pred (x : Fibre) (p : Fin 8) : Bool := x.preds.getLsbD p.val

/-- Write a predicate. -/
def setPredBit (ps : BitVec 8) (p : Nat) (b : Bool) : BitVec 8 :=
  if b then ps ||| (1#8 <<< p) else ps &&& ~~~(1#8 <<< p)

/-- R91: write a predicate of a fibre. -/
def Fibre.setPred (x : Fibre) (p : Fin 8) (b : Bool) : Fibre := { x with preds := setPredBit x.preds p.val b }

/-- R59: the predicate test: sense 0 tests for true, sense 1 for false. -/
def Fibre.test (x : Fibre) (neg : Bool) (p : Fin 8) : Bool := x.pred p != neg

/-- R32: the rounding mode in force. -/
def Fibre.mode (x : Fibre) : Rnd := x.hints.rnd.getD .rn

/-- R207: a fibre that belongs to no group. -/
def Fibre.detached (x : Fibre) : Bool := x.group.isNone

/-- R52: the address of the unit in issue: its first word. -/
def Fibre.unit (x : Fibre) : BitVec 52 := x.pc - BitVec.ofNat 52 (4 * x.hints.words)

/-- R99, R69: a signed immediate of format I, with the payload of a wide hint above it. -/
def Fibre.signedImm {w : Nat} (x : Fibre) (imm : BitVec w) : Word :=
  match x.hints.wide with
  | some p => (p ++ imm).signExtend 64
  | none => imm.signExtend 64

/-- R99, R69: a zero-extended immediate. -/
def Fibre.unsignedImm {w : Nat} (x : Fibre) (imm : BitVec w) : Word :=
  match x.hints.wide with
  | some p => (p ++ imm).zeroExtend 64
  | none => imm.zeroExtend 64

/-! ### Releases, edges and events -/

/-- R215: a release point on a core: its sequence rises, and the edge carries the value at which the writes before it are stamped. -/
def State.releaseOn (s : State) (c : Nat) : State × Edge :=
  let k := s.core c
  (s.setCore c { k with release := (k.release + 1) % 2 ^ 64 }, (c, k.release))

/-- R216: edges to other cores are owed; parties on one core take no steps. An edge stays behind the newest of its core. -/
def addEdges (core : Nat) (old new : List Edge) : List Edge :=
  new.foldl (fun acc e => if e.1 = core || acc.any (fun o => o.1 = e.1 && o.2 ≥ e.2) then acc else acc.filter (·.1 != e.1) ++ [e]) old

/-- R212: a fibre acquires edges at its next unit. -/
def Fibre.acquire (x : Fibre) (es : List Edge) : Fibre := { x with acquired := addEdges x.core x.acquired es }

/-- R332: an event enters the ring of its context. -/
def State.contextEvent (s : State) (c : Nat) (e : Event) : State :=
  s.updContext c fun k => { k with events := { k.events with held := k.events.held ++ [{ e with context := c }] } }

/-- R330: an event enters the ring of its queue. -/
def State.queueEvent (s : State) (q : Nat) (e : Event) : State :=
  s.updQueue q fun k => { k with events := { k.events with held := k.events.held ++ [{ e with queue := q, context := k.context, word := BitVec.ofNat 64 s.time }] } }

/-- R330: a reset or halt event of a queue. It reports no packet, and no rule states its status or tag: both are free (DESIGN CHOICE, assumption 13). -/
def State.queueStateEvent (s : State) (q kind : Nat) : State :=
  let r := s.freeBytes 5
  r.2.queueEvent q { kind := kind, status := (r.1.getD 0 0).toNat, tag := BitVec.ofNat 32 (natOfBytes (r.1.drop 1)) }

/-- R337: the code of a fault. -/
def FaultCode.code : FaultCode → Nat
  | .illegal => 1 | .length => 2 | .runOverflow => 3 | .translation => 4 | .access => 5 | .align => 6 | .decode => 7 | .maskMismatch => 8
  | .detached => 9 | .depth => 10 | .tprogLimit => 11 | .stack => 12 | .ecc => 13 | .step => 14 | .break_ => 15

/-- R337: the code of a source. -/
def FaultSource.code : FaultSource → Nat
  | .unit => 0 | .copyRecord => 1 | .binding => 2 | .fetch => 3

/-- R332: an event of kind 8, 10 or 13 about work of a launch: the queue and tag of the root grid's packet, the launch identity, the group's linear index. (DEDUCED, assumption 42) -/
def State.workEvent (s : State) (kind : Nat) (code : FaultCode) (launch linear : Nat) : State :=
  match s.launches.get? launch with
  | none => s
  | some l =>
    s.contextEvent l.context
      { kind := kind, status := code.code, queue := l.queue, tag := l.tag, low := BitVec.ofNat 32 l.slot, high := BitVec.ofNat 32 linear, word := BitVec.ofNat 64 s.time }

/-- The keys of a list, each once. -/
def distinct {α : Type} [BEq α] (xs : List α) : List α := xs.foldl (fun acc x => if acc.contains x then acc else acc ++ [x]) []

/-! ### What parties know of a slice (R280, R281) -/

/-- R212, R280: those who know what some other parties know. -/
def knownTo (known : List Party) (ps : List Party) (from_ : Party → Bool) : List Party :=
  if known.any from_ then distinct (known ++ ps) else known

/-- R212, R280, R281: what some parties know of a slice, others now know. -/
def Group.learn (g : Group) (ps : List Party) (from_ : Party → Bool) : Group :=
  let ws (l : List SliceWrite) : List SliceWrite := l.map fun w => { w with known := knownTo w.known ps from_ }
  { g with uncovered := ws g.uncovered, produced := ws g.produced, doneMatrix := g.doneMatrix.map fun d => { d with known := knownTo d.known ps from_ } }

/-- R212, R280: the same for one group. -/
def State.learn (s : State) (g : Nat) (ps : List Party) (from_ : Party → Bool) : State := s.updGroup g fun k => k.learn ps from_

/-- R212, R256: the same for every group, through a sync word. -/
def State.learnAll (s : State) (ps : List Party) (from_ : Party → Bool) : State := { s with groups := s.groups.mapAll fun _ g => g.learn ps from_ }

/-! ### Watching (R436-R449) -/

/-- R437: a tile retires when its waymark has been closed and every stamped command has completed. -/
def Waymark.settle (m : Waymark) (now : Nat) : Waymark :=
  if m.closed && m.pending = 0 && m.retired.isNone then { m with retired := some now } else m

/-- R437: change a waymark that exists; its tile may retire now. -/
def State.updMark (s : State) (k : Nat) (f : Waymark → Waymark) : State :=
  match s.marks.get? k with
  | some m => { s with marks := s.marks.put k ((f m).settle s.time) }
  | none => s

/-- R440: the open waymark of a fibre is closed. -/
def State.closeMark (s : State) (f : Nat) (x : Fibre) : State :=
  match x.mark with
  | none => s
  | some m => (s.updMark m fun w => { w with closed := true }).setFibre f { x with mark := none }

/-- R438: a fibre that has reached Exiting has its open waymark closed. -/
def State.closeExiting (s : State) (f : Nat) : State :=
  match s.fibres.get? f with
  | none => s
  | some x => if x.life = .exiting then s.closeMark f x else s

/-- R443: a trace record. -/
def traceRecord (kind core field time : Nat) (payload : Nat) : List Byte :=
  [BitVec.ofNat 8 kind, BitVec.ofNat 8 core] ++ bytesOfNat 2 field ++ bytesOfNat 4 (time % 2 ^ 32) ++ bytesOfNat 8 payload

/-- R442: does a group match a session? -/
def State.traceMatches (s : State) (t : TraceSession) (g : Group) : Bool :=
  match s.launches.get? g.launch with
  | none => false
  | some l =>
    (t.launch = 0xFFFFFFFF || t.launch = l.slot) && (t.group = 0xFFFFFFFF || t.group = g.linear) && (t.queue = 0xFFFF || t.queue = l.queue)

/-- R442: is a group resident, for a session that selects one? -/
def Group.onCore (g : Group) (c : Nat) : Bool :=
  g.core == c && match g.state with
    | .prologue | .running | .stopped => true
    | .waiting | .saved _ _ | .retired | .dropped => false

/-- R442: the matching groups of a core, in placement order. -/
def State.traceGroups (s : State) (t : TraceSession) (core : Nat) : List (Nat × Group) :=
  sortBy (fun a b => a.2.placed ≤ b.2.placed) (s.groups.filter fun e => e.2.onCore core && s.traceMatches t e.2)

/-- Add a record to every open session that takes it. -/
def State.traceIf (s : State) (p : TraceSession → Bool) (rec : List Byte) : State :=
  { s with queues := s.queues.mapAll fun _ q =>
      match q.trace with
      | some t => if p t then { q with trace := some { t with held := t.held ++ [rec] } } else q
      | none => q }

/-- R442: sessions in which a group of a core is selected for full trace. -/
def State.tracesFully (s : State) (core g : Nat) (t : TraceSession) : Bool := t.full && ((s.traceGroups t core).head?.map (·.1)) == some g

/-- R443: the record of a unit. -/
def State.traceUnit (s : State) (x : Fibre) (unit : BitVec 52) (rep : Nat) (faulted : Bool) : State :=
  match x.group with
  | none => s
  | some g =>
    s.traceIf (s.tracesFully x.core g) (traceRecord 1 x.core x.fid s.time (unit.toNat + 2 ^ 52 * rep + if faulted then 2 ^ 58 else 0))

/-- R443: the record of a transition of a group. -/
def State.traceGroup (s : State) (g : Nat) (code : Nat) : State :=
  match s.groups.get? g with
  | none => s
  | some k =>
    let launch := match s.launches.get? k.launch with
      | some l => l.slot
      | none => 0
    s.traceIf (fun t => t.summary && s.traceMatches t k) (traceRecord 2 k.core code s.time (launch + 2 ^ 32 * (k.linear % 2 ^ 31)))

/-- R447: a member stops at a unit boundary. -/
def Life.halt : Life → Life
  | .ready | .placed => .stopped none false
  | .stalled w => .stopped (some w) false
  | .parked => .parked
  | .saved w p => .saved w p
  | .stopped w p => .stopped w p
  | .exiting => .exiting
  | .gone => .gone

/-- R244: writes in their order: by issue cycle, then by the writer's index. -/
def bankOrder (ws : List (Nat × Nat × Fin 16 × Word)) : List (Nat × Nat × Fin 16 × Word) :=
  sortBy (fun a b => a.1 < b.1 || (a.1 = b.1 && a.2.1 ≤ b.2.1)) ws

/-- R243, R244: the writes of a group issued at or before a cycle take effect. -/
def Group.applyBank (g : Group) (upto : Nat) : Group :=
  let due := bankOrder (g.bankWrites.filter fun w => w.1 ≤ upto)
  { g with
    bank := due.foldl (fun b w => b.set w.2.2.1.val w.2.2.2) g.bank,
    bankWrites := g.bankWrites.filter fun w => w.1 > upto }

/-- The latest issue cycle of writes not in effect. -/
def latestCycle (cs : List Nat) : Nat := cs.foldl Nat.max 0

/-- R243: two cycles after the last write's issue have begun. (DESIGN CHOICE, assumption 5) -/
def State.passCycles (s : State) (c t : Nat) : State :=
  let k := s.core c
  s.setCore c { k with clock := Nat.max k.clock (t + 2) }

/-- R243, R245: every bank write of a group takes effect. -/
def State.settleBank (s : State) (g : Nat) : State :=
  match s.groups.get? g with
  | none => s
  | some k =>
    if k.bankWrites.isEmpty then s
    else
      let t := latestCycle (k.bankWrites.map (·.1))
      (s.passCycles k.core t).setGroup g (k.applyBank t)

/-- R245, R447, R448: the members of a group stop, for the cause of the stop in progress, once its bank writes have taken effect. -/
def State.haltGroup (s : State) (g : Nat) : State :=
  let s := s.settleBank g
  let fs := s.fibres.mapAll fun _ x => if x.group == some g then { x with life := x.life.halt } else x
  let s := { s with fibres := fs, cores := s.cores.mapAll fun _ k => { k with convoys := k.convoys.filter fun e => e.2.of != ConvoyOf.group g } }
  (s.updGroup g fun k =>
    { k with
      state := if k.state = GroupState.running then .stopped else k.state
      dbg := { k.dbg with cause := match k.dbg.stopping with
        | some r => r.1
        | none => k.dbg.cause } }).traceGroup g 5

/-! ### Convoys and passes -/

/-- R83: a fibre leaves its convoy; an empty convoy ends. -/
def State.leaveConvoy (s : State) (f : Nat) : State :=
  match s.fibres.get? f with
  | none => s
  | some x =>
    let k := s.core x.core
    s.setCore x.core { k with convoys := (k.convoys.map fun e => (e.1, { e.2 with members := e.2.members.filter (· != f) })).filter fun e => !e.2.members.isEmpty }

/-- The fibre that issues: the first member of the pass that has not. -/
def State.issuing (s : State) : Option Nat :=
  match s.pass with
  | some p => p.todo.head?
  | none => none

/-- R84: the lane that holds the fewest convoys, ties to the lowest. -/
def CoreState.freeLane (k : CoreState) : Nat :=
  let held (l : Nat) : Nat := (k.convoys.filter fun e => e.2.lane == l).length
  (List.range 64).foldl (fun best l => if held l < held best then l else best) 0

/-- R71, R82: a program point. -/
abbrev Point := BitVec 52 × Nat

/-- R82: the program point of a fibre. -/
def State.pointOf (s : State) (f : Nat) : Point :=
  match s.fibres.get? f with
  | some x => (x.pc, x.rep)
  | none => (0, 0)

/-- R82, R84: a new convoy of a core. -/
def State.formConvoy (s : State) (core : Nat) (of : ConvoyOf) (members : List Nat) : State :=
  let k := s.core core
  { s.setCore core { k with convoys := k.convoys.put s.fresh { of := of, members := members, lane := k.freeLane, formed := k.clock, issued := k.clock } } with
    fresh := s.fresh + 1 }

/-- R83: after a pass a convoy splits by its members' new program points; the part of its first member stays on as the convoy. `fuel` bounds the parts. (DESIGN CHOICE, assumption 22) -/
def State.splitConvoy (s : State) (core k fuel : Nat) : State :=
  match fuel with
  | 0 => s
  | fuel + 1 =>
    match (s.core core).convoys.get? k with
    | none => s
    | some c =>
      match c.members with
      | [] => s
      | f :: _ =>
        let stay := c.members.filter fun m => s.pointOf m == s.pointOf f
        let leave := c.members.filter fun m => s.pointOf m != s.pointOf f
        if leave.isEmpty then s
        else
          let key := s.fresh
          let q := s.core core
          ((s.setCore core { q with convoys := q.convoys.put k { c with members := stay } }).formConvoy core c.of leave).splitConvoy core key fuel

/-- R83, R449, R447: after a pass its convoy splits; a group that steps by stop, or that is stopping, stops. -/
def State.passEnded (s : State) (p : Pass) : State :=
  let s := s.splitConvoy p.core p.convoy 32
  match p.members.head?.bind fun f => (p.snapshot.get? f).bind (·.group) with
  | none => s
  | some g =>
    match s.groups.get? g with
    | none => s
    | some k =>
      if k.state != .running then s
      else if k.dbg.stopping.isSome then s.haltGroup g
      else if k.dbg.mode = .stop && p.completed then (s.updGroup g fun k => { k with dbg := { k.dbg with stopping := some (3, none) } }).haltGroup g
      else s

/-- R84: the issuing member is done with this pass; its core's cycle count rises by one. The pass ends with its last member. -/
def State.memberDone (s : State) : State :=
  match s.pass with
  | none => s
  | some p =>
    let k := s.core p.core
    let s := s.setCore p.core { k with clock := k.clock + 1 }
    if p.todo.tail.isEmpty then { s with pass := none }.passEnded p else { s with pass := some { p with todo := p.todo.tail } }

/-! ### Ends of a unit -/

/-- R52, R71: where a fibre stands after its unit: the next repetition of it, or the next unit. -/
def Fibre.advance (x : Fibre) : Fibre :=
  match x.hints.rep with
  | some r =>
    if x.rep + 1 < r.count then { x with pc := x.unit, rep := x.rep + 1, hints := {} }
    else { x with pc := x.pc + 4, rep := 0, hints := {} }
  | none => { x with pc := x.pc + 4, rep := 0, hints := {} }

/-- R299: the linear index that a fibre's record names. -/
def State.linearOf (s : State) (f : Nat) : Nat :=
  match s.frames.get? f with
  | some r => r.linear
  | none => 0

/-- R172: nothing of the queues changes when the unit does not complete. -/
def Fibre.cancelQueues (x : Fibre) : Fibre := { x with popped := [], pops := [], pushing := [] }

/-- R332, R304: an event of kinds 8, 10 and 13 about a fibre's work; of a speculative fibre it is held until resolution. -/
def State.fibreEvent (s : State) (kind : Nat) (code : FaultCode) (launch linear : Nat) (speculative : Bool) : State :=
  match s.launches.get? launch with
  | none => s
  | some l =>
    let e : Event :=
      { kind := kind, status := code.code, queue := l.queue, tag := l.tag, low := BitVec.ofNat 32 l.slot, high := BitVec.ofNat 32 linear,
        word := BitVec.ofNat 64 s.time, context := l.context }
    if speculative then s.setLaunch launch { l with deferred := l.deferred ++ [(linear, false, e)] } else s.contextEvent l.context e

/-- R291: add an entry of 16 bytes to an error record. -/
def logError (rec entry : List Byte) : List Byte :=
  let old := padTo 64 0 rec
  let n := fieldOf old 0 4
  let entries := ((old.drop 8).take (16 * Nat.min n 3) ++ entry).take 48
  bytesOfNat 4 (Nat.min (n + 1) (2 ^ 32 - 1)) ++ [0, 0, 0, 0] ++ padTo 48 0 entries ++ List.replicate 8 0

/-- R291: an entry: the unit, the source, two coordinates, the issuer's index. -/
def errorEntry (unit : BitVec 52) (source i j fid : Nat) : List Byte :=
  bytesOfNat 7 unit.toNat ++ bytesOfNat 1 source ++ bytesOfNat 2 i ++ bytesOfNat 2 j ++ bytesOfNat 2 fid ++ [0, 0]

/-- R261: a copy fault that its fibre will never raise is logged and reported. -/
def State.reportCopyFault (s : State) (f : Nat) (x : Fibre) : State :=
  x.copyFaults.foldl
    (fun s c =>
      let s := match x.group with
        | some g => s.updGroup g fun k => { k with errorRecord := logError k.errorRecord (errorEntry c.unit 4 c.index 0 x.fid) }
        | none => s
      s.fibreEvent 10 c.code x.launch (s.linearOf f) x.speculative)
    (s.updFibre f fun y => { y with copyFaults := [] })

/-- R168, R174: what a fibre that ends no longer holds. -/
def Fibre.atEnd (x : Fibre) : Fibre := { x with held := none, queues := Vector.replicate 4 none, hints := {}, rep := 0, copyFaults := [] }

/-- R80, R261, R338: a fibre ends, by `exit` or a double fault: copy faults that it has not raised are reported, and with unfinished children it parks first (R209),
else it is Exiting. -/
def State.endFibre (s : State) (f : Nat) : State :=
  match s.fibres.get? f, s.frames.get? f with
  | some y, some r =>
    let x := y.atEnd
    let s := (s.reportCopyFault f y).setFibre f x
    if r.pending > 0 then
      { (s.setFibre f { x with life := .parked, parkOrder := s.fresh }) with
        fresh := s.fresh + 1, frames := s.frames.put f { r with state := .parked, exitWait := true } }
    else { (s.setFibre f { x with life := .exiting }) with frames := s.frames.put f { r with state := .exiting } }.closeExiting f
  | some x, none => (s.setFibre f { x with life := .exiting }).closeExiting f
  | none, _ => s

/-- R80: the life in which a fibre goes on; a stopped one stays stopped (R447). -/
def Life.readied : Life → Life
  | .stopped _ p => .stopped none p
  | .saved _ p => .saved none p
  | .placed | .ready | .stalled _ | .parked | .exiting | .gone => .ready

/-- R80: a fibre waits; a stopped one stays stopped (R447). -/
def Life.waiting (w : Stall) : Life → Life
  | .stopped _ p => .stopped (some w) p
  | .placed | .ready | .stalled _ | .parked | .saved _ _ | .exiting | .gone => .stalled w

/-- R338, R449: FLT_BREAK of a fibre stops its group at the end of the pass, with cause 2. -/
def State.breakGroup (s : State) (g : Option Nat) : State :=
  match g with
  | some g => s.updGroup g fun k => { k with dbg := { k.dbg with stopping := some (k.dbg.stopping.getD (2, none)) } }
  | none => s

/-- R338: taking an exception in a fibre, at a unit and repeat index. With the in-handler bit set, or no trap vector, the fibre ends and a kind-8 event is
raised; else the trap fields are written, the bit is set and pc becomes tvec. In both cases the fibre leaves its convoy. Nothing else of it changes (R9).
A fault of a unit has its trace record (R443). A double fault of a speculative fibre waits for resolution (R304).
FLT_BREAK of a member of a group, in a context with the break-to-debugger flag, stops the group instead. -/
def State.takeTrap (s : State) (f : Nat) (unit : BitVec 52) (rep : Nat) (src : FaultSource) (code : FaultCode) (addr info : Word) : State :=
  match s.fibres.get? f with
  | none => s
  | some x =>
    let s := s.leaveConvoy f
    let tvec := match s.contexts.get? x.context with
      | some c => c.desc.tvec
      | none => 0
    let toDebugger : Bool := match s.contexts.get? x.context with
      | some c => c.desc.breakToDebugger && x.group.isSome && code == .break_
      | none => false
    let waits := x.speculative && !toDebugger && (x.trap.inHandler || tvec = 0)
    let s := if waits || code == .step then s else s.traceUnit x unit rep true
    if toDebugger then (s.setFibre f { x with pc := unit, hints := {} }).breakGroup x.group
    else if x.trap.inHandler || tvec = 0 then
      if waits then s.setFibre f { x with life := x.life.waiting .resolution, pc := unit, hints := {} }
      else
        ((s.workEvent 8 code x.launch (s.linearOf f)).setFibre f { x.cancelQueues with hints := {}, rep := 0 }).endFibre f
    else
      s.setFibre f
        { x with
          life := x.life.readied, pc := tvec, rep := 0, hints := {}, rayRequest := none,
          trap := { inHandler := true, code := BitVec.ofNat 16 (code.code + 256 * src.code), unit := unit, rep := BitVec.ofNat 7 rep, addr := addr, info := info } }

/-- R304, R338: does a fault of a fibre wait for resolution, as a speculative double fault does? -/
def State.trapWaits (s : State) (x : Fibre) : Bool :=
  x.speculative && (x.trap.inHandler || match s.contexts.get? x.context with
    | some c => c.desc.tvec == 0
    | none => true)

/-- R261, R304: the fibre without the copy fault that it raises; one that waits for resolution stays, and is raised then. -/
def State.raisesCopyFault (s : State) (x : Fibre) : Fibre := { x with copyFaults := if s.trapWaits x then x.copyFaults else x.copyFaults.tail }

/-- A fault is raised at the unit at which a fibre waits: nothing of the unit has happened. -/
def State.trapAtWait (s : State) (f : Nat) (x : Fibre) (src : FaultSource) (code : FaultCode) (addr info : Word) : State :=
  (s.setFibre f { x.cancelQueues with life := x.life.readied }).takeTrap f x.unit x.rep src code addr info

/-- R261: the first copy fault of a fibre is raised at the unit at which it waits. -/
def State.takeCopyFault (s : State) (f : Nat) (x : Fibre) : State :=
  match x.copyFaults with
  | [] => s
  | c :: _ => s.trapAtWait f (s.raisesCopyFault x) .copyRecord c.code c.addr c.record

/-- R341: returning from an exception: the bit is clear, pc and the repeat index are the saved ones. -/
def Fibre.trapReturn (x : Fibre) : Fibre :=
  { x with pc := x.trap.unit, rep := x.trap.rep.toNat, hints := {}, trap := { x.trap with inHandler := false } }

/-- The bytes that a value of a type stores (R195). -/
def valueBytes (t : Ty) (v : Word) : List Byte := bytesOfNat (t.width / 8) (bitsOf t v)

/-- R172: a push to an element of a store queue, as a plain store of the fibre. -/
def Fibre.pushStore (x : Fibre) (unit : BitVec 52) (e : Fin 4 × Ty × Loc) : Pend :=
  { op := .store [(e.2.2, valueBytes e.2.1 (x.named.toList.getD (28 + e.1.val) 0))] 0, unit := unit, pass := x.place }

/-- R172, R174: the pushes of the unit are made: each queue moves to its next element. -/
def Fibre.countPushes (x : Fibre) : Fibre :=
  { x with
    pushing := [],
    queues := x.pushing.foldl (fun qs e => qs.set e.1.val (qs[e.1].map fun b => { b with index := b.index + 1 })) x.queues }

/-- R172: the pops and the pushes of the unit take effect when it completes: each pop drops the element read ahead, and a push is a plain store of the fibre. -/
def Fibre.commitQueues (x : Fibre) : Fibre :=
  let popOne (qs : Vector (Option QueueBinding) 4) (q : Fin 4) : Vector (Option QueueBinding) 4 :=
    qs.set q.val (qs[q].map fun b => { b with index := b.index + 1, ahead := b.ahead.tail })
  let x := { x with queues := x.pops.foldl popOne x.queues, popped := [], pops := [] }
  { x.countPushes with
    pend := x.pend ++ x.pushing.map (x.pushStore x.unit), counts := { x.counts with st := x.counts.st + x.pushing.length } }

/-- What an instruction does in the fibre that issues it. -/
inductive Issue where
  /-- it completes; the fibre goes on with the next repetition or unit -/
  | done (s : State)
  /-- it completes and the fibre goes on elsewhere (R104, R105) -/
  | jump (s : State) (pc : BitVec 52)
  /-- it completes, and the state already says where the fibre stands; it leaves its convoy (R201) -/
  | leave (s : State)
  /-- it completes, and the state already says at which unit and repetition the fibre goes on (R341) -/
  | resume (s : State)
  /-- it has taken effect and the fibre waits (R80); it completes with its condition -/
  | wait (s : State) (why : Stall)
  /-- it does not issue yet; nothing changes (R79, R86) -/
  | stall (why : Stall)
  /-- R162: it waits at a list-form instruction, with its operands as they are -/
  | arrive (why : Stall)
  /-- it raises a fault: code, data address, info (R9, R337) -/
  | trap (code : FaultCode) (addr info : Word)
  /-- R168, R364: it raises a fault after it has acted in part: code, data address -/
  | trapIn (s : State) (code : FaultCode) (addr : Word)
  /-- R261: it raises a fault of an earlier copy record -/
  | copyTrap (s : State) (code : FaultCode) (addr info : Word)

/-- Does a location lie in the slice? -/
def Loc.inSlice : Loc → Bool
  | .slice _ => true
  | .grant _ | .mem _ _ _ _ _ => false

/-- R213: does an outstanding operation reach the slice? -/
def Pend.reachesSlice (p : Pend) : Bool :=
  (p.pushes.any fun e => e.2.2.inSlice) || match p.op with
    | .load l _ _ | .loadBlock l _ _ _ | .atom l _ | .ared l _ | .syncInit l _ | .syncAdd l _ | .bind _ l => l.inSlice
    | .loadVec es _ _ _ => es.any fun e => e.2.inSlice
    | .store ws _ => ws.any fun w => w.1.inSlice
    | .query _ | .value _ _ | .rsLoad _ _ | .rsStore _ _ _ => false

/-- R213: the party that an outstanding operation of a fibre is: what it accesses of the slice, it accesses as its unit issued, whenever it is performed. -/
def Pend.party (f : Nat) (p : Pend) : Party :=
  match p.number with
  | some n => .operation f .st n
  | none => .fibre f

/-- R213: operations of a fibre that reach the slice, from number n on, are numbered. -/
def numberPends (n : Nat) : List Pend → List Pend
  | [] => []
  | p :: ps => if p.number.isNone && p.reachesSlice then { p with number := some n } :: numberPends (n + 1) ps else p :: numberPends n ps

/-- R213: how many operations of a group's member to the slice have no number yet. -/
def Fibre.unnumbered (y : Fibre) : Nat := if y.group.isSome then (y.pend.filter fun p => p.number.isNone && p.reachesSlice).length else 0

/-- R213: the fibre with every operation to the slice numbered. -/
def Fibre.numbered (y : Fibre) : Fibre :=
  if y.unnumbered = 0 then y else { y with pend := numberPends y.issued.st y.pend, issued := { y.issued with st := y.issued.st + y.unnumbered } }

/-- R213: the parties that the operations of fibre f will be that have no number yet. -/
def Fibre.newParties (y : Fibre) (f : Nat) : List Party := (List.range y.unnumbered).map fun i => .operation f .st (y.issued.st + i)

/-- R213: the operations that a fibre has just issued to the slice come after what it knows now. -/
def State.noteIssued (s : State) (f : Nat) : State :=
  match s.fibres.get? f with
  | none => s
  | some y =>
    match y.group with
    | none => s
    | some g => if y.unnumbered = 0 then s else (s.setFibre f y.numbered).learn g (y.newParties f) (· == .fibre f)

/-- R449: FLT_STEP that is due is raised at the unit at which a fibre stands. One that waits for resolution stays due (R304), and so does that of a fibre
that is parked. (DEDUCED, assumption 126) -/
def State.takeStep (s : State) (f : Nat) : State :=
  match s.fibres.get? f with
  | none => s
  | some x =>
    let stands : Bool := match x.life with
      | .ready | .stalled .result | .stopped none false | .stopped (some .result) false => true
      | _ => false
    if x.stepDue && stands then (s.setFibre f { x with stepDue := s.trapWaits x }).takeTrap f x.unit x.rep .unit .step 0 0 else s

/-- R449: stepping by stop: a unit has completed; the group stops at the end of the pass in progress, or at once between passes. -/
def State.stepGroup (s : State) (g : Nat) : State :=
  match s.pass, s.groups.get? g with
  | some p, _ => { s with pass := some { p with completed := true } }
  | none, some k =>
    if k.state = .running && k.dbg.mode = .stop then
      (s.setGroup g { k with dbg := { k.dbg with stopping := some (k.dbg.stopping.getD (3, none)) } }).haltGroup g
    else s
  | none, none => s

/-- R443, R449: a unit or repetition of a fibre, which stood in state x, has completed: its trace record, and what stepping does. -/
def State.unitEnds (s : State) (f : Nat) (x : Fibre) (unit : BitVec 52) (rep : Nat) : State :=
  let s := s.traceUnit x unit rep false
  match s.fibres.get? f, x.group, s.groupOf x with
  | some y, some g, some k =>
    let s := s.stepGroup g
    if k.dbg.mode = .trap && !x.trap.inHandler && !y.trap.inHandler then (s.setFibre f { y with stepDue := true }).takeStep f else s
  | _, _, _ => s

/-- The same for the unit in issue. One whose data may still fault completes when they arrive (R190). -/
def State.unitOver (s : State) (f : Nat) (x : Fibre) : State :=
  let s := s.noteIssued f
  match s.fibres.get? f with
  | none => s
  | some y => if y.pend.any (·.hold) then s else s.unitEnds f x x.unit x.rep

/-- The state after the issuing fibre f, in state x, has done what its instruction does, outside a target program. -/
def State.settleUnit (s : State) (f : Nat) (x : Fibre) : Issue → State
  | .done t => ((t.updFibre f fun y => y.commitQueues.advance).unitOver f x).memberDone
  | .jump t pc => ((t.updFibre f fun y => { y.commitQueues with pc := pc, rep := 0, hints := {} }).unitOver f x).memberDone
  | .leave t => (((t.leaveConvoy f).updFibre f Fibre.commitQueues).unitOver f x).memberDone
  | .resume t => (t.unitOver f x).memberDone
  | .wait t why => ((t.leaveConvoy f).updFibre f fun y => { y with life := .stalled why }).memberDone
  | .stall why => ((s.leaveConvoy f).setFibre f { x.cancelQueues with life := .stalled why, pc := x.unit, hints := {} }).memberDone
  | .arrive why => ((s.leaveConvoy f).setFibre f { x with life := .stalled why }).memberDone
  | .trap code addr info => ((s.setFibre f x.cancelQueues).takeTrap f x.unit x.rep .unit code addr info).memberDone
  | .trapIn t code addr => ((t.updFibre f Fibre.cancelQueues).takeTrap f x.unit x.rep .unit code addr 0).memberDone
  | .copyTrap t code addr info => ((t.updFibre f Fibre.cancelQueues).takeTrap f x.unit x.rep .copyRecord code addr info).memberDone

/-- R412: the fibre as its `tcall` issued, after the target program. -/
def Fibre.outOfTarget (x : Fibre) (r : TargetRun) : Fibre :=
  { x with
    target := none, ages := r.ages, named := r.named, window := r.window, preds := r.preds, flags := r.flags, pc := r.pc, hints := r.hints, rep := 0 }

/-- R412: one more unit of a target program. -/
def Fibre.countTarget (x : Fibre) : Fibre := { x with target := x.target.map fun r => { r with units := r.units + 1 } }

/-- R412: a fault in a target program is precise at the `tcall`, with the address of the offending word where it concerns no data. -/
def FaultCode.targetAddress (code : FaultCode) (unit : BitVec 52) (addr : Word) : Word :=
  match code with
  | .illegal | .tprogLimit => unit.zeroExtend 64
  | .length | .runOverflow | .translation | .access | .align | .decode | .maskMismatch | .detached | .depth | .stack | .ecc | .step | .break_ => addr

/-- R410-R412: the same inside a target program: its units are parts of the `tcall`; `tret` ends it. -/
def State.settleTarget (s : State) (f : Nat) (x : Fibre) (r : TargetRun) : Issue → State
  | .done t => t.updFibre f fun y => y.countTarget.advance
  | .jump t pc => t.updFibre f fun y => { y.countTarget with pc := pc, rep := 0, hints := {} }
  | .leave t => t.settleUnit f (x.outOfTarget r) (.done t)
  | .trap code addr info => s.settleUnit f (x.outOfTarget r) (.trap code (code.targetAddress x.unit addr) info)
  | .resume _ | .wait _ _ | .stall _ | .arrive _ | .trapIn _ _ _ | .copyTrap _ _ _ _ =>
    s.settleUnit f (x.outOfTarget r) (.trap .illegal (x.unit.zeroExtend 64) 0)

/-- The state after the issuing fibre f, in state x, has done what its instruction does. -/
def State.settle (s : State) (f : Nat) (x : Fibre) (i : Issue) : State :=
  match x.target with
  | none => s.settleUnit f x i
  | some r => s.settleTarget f x r i

/-- The frame of every encoded instruction: it acts for the fibre that issues. -/
def State.issueWith (s : State) (k : Nat → Fibre → Issue) : Host.Outcome State Fault Refusal :=
  match s.issuing with
  | none => .fault .noIssuingFibre
  | some f =>
    match s.fibres.get? f with
    | none => .fault .noIssuingFibre
    | some x => .next (s.settle f x (k f x))

/-- An instruction that computes one value and its flags from its operands and writes it to a destination. -/
def State.scalar (s : State) (d : Dst) (k : (Src → Word) → Fibre → Flagged Word) : Host.Outcome State Fault Refusal :=
  s.issueWith fun f x =>
    let v := k (x.read (s.bankOf x)) x
    .done (s.setFibre f ((x.write d v.1).orFlags v.2))

/-- An instruction that changes only the state of its own fibre. -/
def State.own (s : State) (k : (Src → Word) → Fibre → Fibre) : Host.Outcome State Fault Refusal :=
  s.issueWith fun f x => .done (s.setFibre f (k (x.read (s.bankOf x)) x))

end Sys2Proof.Machine
end

