-- ==== Sys2Proof/Machine/Jobs.lean ====
section
/-! DEFINITION. Reuse jobs as their descriptors say (R408, R413), and the reservoir store (R407, R418): which die owns a tile, where a record lies, and what a
write to a record means for the jobs that read it. -/

namespace Sys2Proof.Machine

/-- R413: a job descriptor. -/
structure JobDesc where
  tx0 : Nat
  ty0 : Nat
  tw : Nat
  th : Nat
  w : Nat
  h : Nat
  rpp : Nat
  halves : Bool
  halo : Nat
  k : Nat
  temporal : Bool
  vis : Nat
  radius : Nat
  input : Nat
  output : Nat
  islot : Nat
  hslot : Nat
  oslot : Nat
  base0 : Nat
  base1 : Nat
  haloBase : Nat
  mcap : Nat
  pass : Nat
  frame : BitVec 32
  seed : Word
  entry : Word
  surface : Nat
  motion : Nat
  scene : Nat
  sync : Word
  status : Word

/-- R413: the fields of a job descriptor. -/
def jobOf (bs : List Byte) : JobDesc :=
  let f (off n : Nat) : Nat := fieldOf bs off n
  { tx0 := f 0 2, ty0 := f 2 2, tw := f 4 2, th := f 6 2, w := f 8 2, h := f 10 2, rpp := f 12 1, halves := f 13 1 = 1, halo := f 14 1, k := f 15 1 % 16,
    temporal := (f 15 1).testBit 4, vis := f 15 1 / 32 % 4, radius := f 16 1, input := f 17 1, output := f 18 1, islot := f 19 1 % 4, hslot := f 19 1 / 4 % 4,
    oslot := f 19 1 / 16 % 4, base0 := f 20 4, base1 := f 24 4, haloBase := f 28 4, mcap := f 32 2, pass := f 34 1, frame := BitVec.ofNat 32 (f 36 4),
    seed := wordFieldOf bs 40, entry := wordFieldOf bs 48, surface := f 56 8, motion := f 64 8, scene := f 72 8, sync := wordFieldOf bs 80,
    status := wordFieldOf bs 88 }

/-- R408: tiles of a frame row. -/
def JobDesc.tilesX (j : JobDesc) : Nat := (j.w + 7) / 8
/-- Tile rows of the frame. -/
def JobDesc.tilesY (j : JobDesc) : Nat := (j.h + 7) / 8
/-- R408: superblocks of a frame row. -/
def JobDesc.superX (j : JobDesc) : Nat := (j.w + 63) / 64
/-- Superblock rows of the frame. -/
def JobDesc.superY (j : JobDesc) : Nat := (j.h + 63) / 64

/-- Are both dies live? -/
def bothLive (live : List Nat) : Bool := live.contains 0 && live.contains 1

/-- R408: the die that owns a tile, and the tile's number there. -/
def JobDesc.home (j : JobDesc) (live : List Nat) (tx ty : Nat) : Nat × Nat :=
  let xt := 8 * ((j.superX + 1) / 2)
  if !bothLive live then (live.headD 0, ty * j.tilesX + tx)
  else if j.halves then
    if tx < xt then (0, ty * Nat.min j.tilesX xt + tx) else (1, ty * (j.tilesX - xt) + tx - xt)
  else ((tx / 8 + ty / 8) % 2, (ty / 8 * j.superX + tx / 8) / 2 * 64 + ty % 8 * 8 + tx % 8)

/-- R408: the record of a pixel, a slot and a buffer: its die and index. -/
def JobDesc.record (j : JobDesc) (live : List Nat) (buffer x y slot : Nat) : Nat × Nat :=
  let t := j.home live (x / 8) (y / 8)
  (t.1, (if buffer = 1 then j.base1 else j.base0) + (64 * t.2 + 8 * (y % 8) + x % 8) * j.rpp + slot)

/-- The tiles of the whole frame. -/
def JobDesc.frameTiles (j : JobDesc) : List (Nat × Nat) := (List.range j.tilesY).flatMap fun ty => (List.range j.tilesX).map fun tx => (tx, ty)

/-- R413: the records of a buffer's region on a die. -/
def JobDesc.bufferRecords (j : JobDesc) (live : List Nat) (die : Nat) : Nat :=
  let tiles := (j.frameTiles.map fun t => j.home live t.1 t.2).foldl (fun m t => if t.1 = die then Nat.max m (t.2 + 1) else m) 0
  tiles * 64 * j.rpp

/-- R413: the records of the halo region on a die; with one die live no halo is used. -/
def JobDesc.haloRecords (j : JobDesc) (live : List Nat) (die : Nat) : Nat :=
  let strips := (j.halo + 7) / 8
  let owned := ((List.range j.superY).map fun sy => ((List.range j.superX).filter fun sx => (sx + sy) % 2 == die).length).sum
  if !bothLive live then 0
  else if j.halves then strips * j.tilesY * 64 * j.rpp
  else 32 * strips * 64 * j.rpp * owned

/-- R413: the regions of a job on a die: their first records and lengths. -/
def JobDesc.regions (j : JobDesc) (live : List Nat) (die : Nat) : List (Nat × Nat) :=
  [(j.base0, j.bufferRecords live die), (j.base1, j.bufferRecords live die), (j.haloBase, j.haloRecords live die)].filter fun r => r.2 != 0

/-- R413: regions that share no record. -/
def regionsApart (rs : List (Nat × Nat)) : Bool :=
  (List.range rs.length).all fun i => (List.range i).all fun k =>
    let a := rs.getD i (0, 0)
    let b := rs.getD k (0, 0)
    a.1 + a.2 ≤ b.1 || b.1 + b.2 ≤ a.1

/-- R413, R475: regions within the carve-out of each live die, that share no record where both dies are live: a job that two dies take one die takes too
(R26, R475). (DEDUCED, assumption 52) -/
def JobDesc.regionsOk (j : JobDesc) (live : List Nat) (capacity : Nat) : Bool :=
  live.all fun d => (j.regions live d).all (fun r => r.1 + r.2 ≤ capacity) && regionsApart (j.regions [0, 1] d)

/-- R413: the limits of a job descriptor. (DEDUCED, assumption 52) -/
def jobOk (live : List Nat) (capacity : Nat) (bs : List Byte) : Bool :=
  let j := jobOf bs
  let f (off n : Nat) : Nat := fieldOf bs off n
  1 ≤ j.tw && 1 ≤ j.th && 1 ≤ j.w && j.w ≤ 32768 && 1 ≤ j.h && j.h ≤ 32768 && j.tx0 + j.tw ≤ j.tilesX && j.ty0 + j.th ≤ j.tilesY && 1 ≤ j.rpp && j.rpp ≤ 4 &&
    f 13 1 ≤ 1 && j.halo ≤ 32 && j.k ≤ 8 && j.vis ≤ 2 && f 15 1 < 128 && (if j.k = 0 then j.radius ≤ 32 else 1 ≤ j.radius && j.radius ≤ 32) && j.input ≤ 1 &&
    j.output ≤ 1 && j.input != j.output && j.islot < j.rpp && j.hslot < j.rpp && j.oslot < j.rpp && f 19 1 < 64 && f 35 1 = 0 && zeroBytes bs 96 32 &&
    j.entry.toNat % 4 = 0 && j.surface % 32 = 0 && j.motion % 4 = 0 && (j.temporal || j.motion = 0) && j.scene % 64 = 0 && (j.vis != 0 || j.scene = 0) &&
    j.sync.toNat % 32 = 0 && j.status.toNat % 8 = 0 && j.regionsOk live capacity

/-! ### The store -/

/-- R407, R183, R331: the records of a context's carve-out on a die. -/
def State.storeRecords (s : State) (c : Nat) : Nat :=
  match s.contexts.get? c with
  | some k => k.desc.reservoirMib * 32768
  | none => 0

/-- R407: a record of a context's reservoir store, as four words. -/
def State.readRecord (s : State) (c die index : Nat) : List Word :=
  match (s.contexts.get? c).bind fun k => (k.reservoirs.toList.getD die []).get? index with
  | some r => [r.1, r.2.1, r.2.2.1, r.2.2.2]
  | none => [0, 0, 0, 0]

/-- R27: does a record of a context's store hold an uncorrectable error? -/
def State.recordError (s : State) (c die index : Nat) : Bool :=
  match s.contexts.get? c with
  | some k => k.badRecords.contains (die, index)
  | none => false

/-- A record of the store replaced, whole; an error in it is gone. (DEDUCED, assumption 32) -/
def State.putRecord (s : State) (c die index : Nat) (ws : List Word) : State :=
  s.updContext c fun k =>
    { k with
      reservoirs := k.reservoirs.setIfInBounds die ((k.reservoirs.toList.getD die []).put index (ws.getD 0 0, ws.getD 1 0, ws.getD 2 0, ws.getD 3 0)),
      badRecords := k.badRecords.filter (· != (die, index)) }

/-- A record of free bytes (DESIGN CHOICE, assumption 3). -/
def State.freeRecord (s : State) (c die index : Nat) : State :=
  let r := s.freeBytes 32
  r.2.putRecord c die index ((List.range 4).map fun i => wordFieldOf r.1 (8 * i))

/-- R418: is a record one of the input slots of a job? -/
def JobDesc.isInput (j : JobDesc) (live : List Nat) (die index : Nat) : Bool :=
  let base := if j.input = 1 then j.base1 else j.base0
  let slot := (index - base) % j.rpp
  base ≤ index && index < base + j.bufferRecords live die && (slot = j.islot || slot = j.hslot)

/-- R413: does a record lie in the halo region of a job? -/
def JobDesc.inHalo (j : JobDesc) (live : List Nat) (die index : Nat) : Bool :=
  j.haloBase ≤ index && index < j.haloBase + j.haloRecords live die

/-- R415: is the record of a pixel copied into the other die's halo region: does a pixel of the other die lie within h pixels? Such a square meets at most two
superblocks in a row, so its corners meet all of them. -/
def JobDesc.copied (j : JobDesc) (live : List Nat) (x y : Nat) : Bool :=
  let owner (x y : Nat) : Nat := (j.home live (x / 8) (y / 8)).1
  bothLive live && [x - j.halo, Nat.min (x + j.halo) (j.w - 1)].any fun a => [y - j.halo, Nat.min (y + j.halo) (j.h - 1)].any fun b => owner a b != owner x y

/-- R413, R418: does the record of a pixel on a die depend on a changed input record, or on a halo region that was written to? -/
def ReuseJob.spoilt (j : ReuseJob) (die : Nat) (reads : List (Nat × Nat) × Bool) : Bool :=
  reads.1.any j.changed.contains || (reads.2 && j.haloWritten.contains die)

/-- R413, R418: what a write to a record means for a job between its issue and its Done. -/
def ReuseJob.noted (j : ReuseJob) (live : List Nat) (die index : Nat) : ReuseJob :=
  let d := jobOf j.desc
  { j with
    changed := if d.isInput live die index then (die, index) :: j.changed else j.changed,
    haloWritten := if d.inHalo live die index then die :: j.haloWritten else j.haloWritten }

/-- R413, R418: a record of a context was written by anyone but the exchange of job `own`: the outputs that read it are undefined, and so are those of the jobs that
read these outputs, and so on through at most n jobs. -/
def State.noteWrite : Nat → Option Nat → State → Nat → Nat → Nat → State
  | 0, _, s, _, _, _ => s
  | n + 1, own, s, c, die, index =>
    (s.jobs.map (·.1)).foldl
      (fun s k =>
        match s.jobs.get? k with
        | none => s
        | some j =>
          let j' := j.noted s.diesUp die index
          if j.context != c || own == some k || j' = j then s
          else
            (j'.outputs.filter fun o => j'.spoilt o.1 o.2.2).foldl (fun s o => State.noteWrite n none (s.freeRecord c o.1 o.2.1) c o.1 o.2.1)
              { s with jobs := s.jobs.put k j' })
      s

/-- R407: write a record, whole. -/
def State.writeRecord (s : State) (c die index : Nat) (ws : List Word) : State :=
  State.noteWrite (s.jobs.length + 1) none (s.putRecord c die index ws) c die index

/-- R413, R415, R418: a record becomes undefined; job `own` is the one whose exchange fills it. -/
def State.blurRecord (s : State) (own : Option Nat) (c die index : Nat) : State :=
  State.noteWrite (s.jobs.length + 1) own (s.freeRecord c die index) c die index

end Sys2Proof.Machine
end

