-- ==== Sys2Proof/Machine/Images.lean ====
section
/-! DEFINITION. Compressed tiles: decoding, encoding and the indivisible step of a write (R352-R358). -/

namespace Sys2Proof.Machine

/-- R355: a length rounded up to a multiple of 16. -/
def roundUp16 (n : Nat) : Nat := (n + 15) / 16 * 16

/-- R354: the 64 words of a tile. -/
def tileWords (tile : List Byte) : List Nat := (List.range 64).map fun i => fieldOf tile (4 * i) 4

/-- R354: a tile out of its words. -/
def tileOfWords (ws : List Nat) : List Byte := ws.flatMap (bytesOfNat 4)

/-- R354: field i of a stream of signed b-bit fields; b = 0 denotes 0. -/
def streamField (stream b i : Nat) : Int :=
  let v := (stream >>> (b * i)) % 2 ^ b
  if b ≠ 0 && v ≥ 2 ^ (b - 1) then (v : Int) - (2 ^ b : Nat) else v

/-- A whole number modulo 2^w. -/
def wrapTo (w : Nat) (x : Int) : Nat := (x % (2 ^ w : Nat)).toNat

/-- R354: values that each differ from the first by one of the differences. -/
def baseSums (w base : Nat) (ds : List Int) : List Nat := base :: ds.map fun d => wrapTo w ((base : Int) + d)

/-- R354: running sums modulo 2^w of a first value and its deltas. -/
def runningSums (w : Nat) (v : Nat) : List Int → List Nat
  | [] => [v]
  | d :: ds => v :: runningSums w (wrapTo w (v + d)) ds

/-- R354: zero-run: the words a bitmap selects. -/
def zeroRunWords (bitmap : Nat) (i : Nat) : List Nat → Nat → List Nat
  | _, 0 => []
  | entries, n + 1 =>
    if bitmap.testBit i then entries.headD 0 :: zeroRunWords bitmap (i + 1) entries.tail n else 0 :: zeroRunWords bitmap (i + 1) entries n

/-- The set bits of a number below 64. -/
def setBits64 (n : Nat) : Nat := ((List.range 64).filter n.testBit).length

/-- The 4-bit widths of a colour-delta encoding. -/
def colourWidths (bs : List Byte) : List Nat :=
  let b4 := fieldOf bs 4 1
  let b5 := fieldOf bs 5 1
  [b4 % 16, b4 / 16, b5 % 16, b5 / 16]

/-- Bytes taken in turn from four channels. -/
def interleaveChannels (chs : List (List Nat)) : List Byte :=
  (List.range 64).flatMap fun i => chs.map fun ch => BitVec.ofNat 8 (ch.getD i 0)

/-- R354, R355: the decoded tile of 256 stored bytes under a mode byte; none where R355 faults. -/
def decodeTile (mode : Byte) (bs : List Byte) : Option (List Byte) :=
  let l := mode.toNat / 16
  let len := 16 * (l + 1)
  match mode.toNat % 16 with
  | 0 => if l = 0 then some bs else none
  | 1 => some (List.replicate 256 (BitVec.ofNat 8 (0x11 * l)))
  | 2 => if l = 0 && zeroBytes bs 4 12 then some (tileOfWords (List.replicate 64 (fieldOf bs 0 4))) else none
  | 3 =>
    let bitmap := fieldOf bs 0 8
    let n := setBits64 bitmap
    let entries := (List.range n).map fun i => fieldOf bs (8 + 4 * i) 4
    if l > 9 || roundUp16 (8 + 4 * n) != len || entries.any (· == 0) || !zeroBytes bs (8 + 4 * n) (len - (8 + 4 * n)) then none
    else some (tileOfWords (zeroRunWords bitmap 0 entries 64))
  | 4 =>
    let b := fieldOf bs 0 1
    let stream := fieldOf bs 5 (len - 5)
    if l > 9 || b > 19 || roundUp16 (5 + (63 * b + 7) / 8) != len || stream ≥ 2 ^ (63 * b) then none
    else some (tileOfWords (runningSums 32 (fieldOf bs 1 4) ((List.range 63).map (streamField stream b))))
  | 5 =>
    let ws := colourWidths bs
    let stream := fieldOf bs 6 (len - 6)
    if l > 9 || ws.any (· > 8) || roundUp16 (6 + (63 * ws.sum + 7) / 8) != len || stream ≥ 2 ^ (63 * ws.sum) then none
    else
      some (interleaveChannels ((List.range 4).map fun ch =>
        let b := ws.getD ch 0
        baseSums 8 (fieldOf bs ch 1) ((List.range 63).map (streamField (stream >>> (63 * (ws.take ch).sum)) b))))
  | _ => none

/-- R356: the least width of a signed field that holds a value. -/
def signedWidth (d : Int) : Nat :=
  if d = 0 then 0 else if d < 0 then (-d - 1).toNat.log2 + (if d = -1 then 0 else 1) + 1 else d.toNat.log2 + 2

/-- R356: a difference taken in the signed range of w bits. -/
def signedDelta (w : Nat) (a b : Nat) : Int :=
  let d := wrapTo w ((b : Int) - a)
  if d ≥ 2 ^ (w - 1) then (d : Int) - (2 ^ w : Nat) else d

/-- R356: the differences of neighbours. -/
def neighbourDeltas (w : Nat) : List Nat → List Int
  | [] => []
  | [_] => []
  | a :: b :: rest => signedDelta w a b :: neighbourDeltas w (b :: rest)

/-- R356: the differences from the first value. -/
def baseDeltas (w : Nat) : List Nat → List Int
  | [] => []
  | a :: rest => rest.map (signedDelta w a)

/-- The greatest of the widths that differences need. -/
def widthOf (ds : List Int) : Nat := ds.foldl (fun m d => Nat.max m (signedWidth d)) 0

/-- R354: a stream of b-bit fields. -/
def streamOf (b : Nat) : List Int → Nat
  | [] => 0
  | d :: ds => wrapTo b d + 2 ^ b * streamOf b ds

/-- R356: a candidate: its mode, the nibble above it, and its stored bytes. -/
structure Encoding where
  mode : Nat
  high : Nat
  bytes : List Byte
deriving DecidableEq, Repr

/-- A candidate of modes 2-5, padded to its required length. -/
def storedEncoding (mode : Nat) (bs : List Byte) : Encoding :=
  ⟨mode, roundUp16 bs.length / 16 - 1, padTo (roundUp16 bs.length) 0 bs⟩

/-- R356: colour-delta. -/
def encodeColour (tile : List Byte) : Encoding :=
  let chs := (List.range 4).map fun ch => (List.range 64).map fun i => fieldOf tile (4 * i + ch) 1
  let ds := chs.map (baseDeltas 8)
  let ws := ds.map widthOf
  let stream := (List.range 4).foldr (fun ch acc => streamOf (ws.getD ch 0) (ds.getD ch []) + 2 ^ (63 * ws.getD ch 0) * acc) 0
  let head := tile.take 4 ++ [BitVec.ofNat 8 (ws.getD 0 0 + 16 * ws.getD 1 0), BitVec.ofNat 8 (ws.getD 2 0 + 16 * ws.getD 3 0)]
  storedEncoding 5 (head ++ bytesOfNat ((63 * ws.sum + 7) / 8) stream)

/-- R356: zero-run. -/
def encodeZeroRun (tile : List Byte) : Encoding :=
  let ws := tileWords tile
  let bitmap := (List.range 64).foldl (fun m i => if ws.getD i 0 = 0 then m else m + 2 ^ i) 0
  storedEncoding 3 (bytesOfNat 8 bitmap ++ (ws.filter (· != 0)).flatMap (bytesOfNat 4))

/-- R356: delta, where the width is at most 19. -/
def encodeDelta (tile : List Byte) : Option Encoding :=
  let ws := tileWords tile
  let ds := neighbourDeltas 32 ws
  let b := widthOf ds
  if b > 19 then none
  else some (storedEncoding 4 ([BitVec.ofNat 8 b] ++ bytesOfNat 4 (ws.headD 0) ++ bytesOfNat ((63 * b + 7) / 8) (streamOf b ds)))

/-- R356: fast-clear. -/
def encodeClear (tile : List Byte) : Option Encoding :=
  let v := (tile.headD 0).toNat
  if tile.all (· == tile.headD 0) && v % 16 = v / 16 then some ⟨1, v % 16, []⟩ else none

/-- R356: constant. -/
def encodeConstant (tile : List Byte) : Option Encoding :=
  if (tileWords tile).all (· == fieldOf tile 0 4) then some (storedEncoding 2 (tile.take 4 ++ List.replicate 12 0)) else none

/-- R356: the candidates of a class, in ascending mode. -/
def candidates (tile : List Byte) (cls : Nat) : List Encoding :=
  let both := (encodeClear tile).toList ++ (encodeConstant tile).toList
  let more := if cls = 1 then [encodeColour tile] else [encodeZeroRun tile] ++ (encodeDelta tile).toList
  both ++ more.filter fun e => e.bytes.length ≤ 160

/-- R356: the candidate of least stored length; ties go to the lower mode. -/
def leastEncoding : List Encoding → Option Encoding
  | [] => none
  | e :: es =>
    match leastEncoding es with
    | none => some e
    | some b => if b.bytes.length < e.bytes.length then some b else some e

/-- R356, ENCODE: the mode byte and the stored bytes. -/
def encodeTile (tile : List Byte) (cls : Nat) : Byte × List Byte :=
  match leastEncoding (candidates tile cls) with
  | some e => (BitVec.ofNat 8 (16 * e.high + e.mode), e.bytes)
  | none => (0, tile)

/-! ### Images at their homes -/

/-- R357: the mode byte that a reader finds. -/
def Images.mode (im : Images) (pa : Nat) : Byte :=
  if im.encoded.contains (pa / 65536) then (im.modes.get? (pa / 256)).getD 0 else 0

/-- Write the mode byte of a tile; a mode that is not 0 clears the summary bit (R356, R357). -/
def Images.setMode (im : Images) (pa : Nat) (m : Byte) : Images :=
  let modes := if im.encoded.contains (pa / 65536) then im.modes else im.modes.filter fun e => e.1 / 256 != pa / 65536
  { im with
    badModes := im.badModes.filter (· != pa / 256),
    modes := if m = 0 then modes.del (pa / 256) else modes.put (pa / 256) m,
    encoded := if m = 0 || im.encoded.contains (pa / 65536) then im.encoded else im.encoded ++ [pa / 65536] }

/-- The first byte of a tile. -/
def tileBase (pa : Nat) : Nat := pa / 256 * 256

/-- R354: the decoded tile that holds an address. -/
def Images.tile (im : Images) (pa : Nat) : Option (List Byte) := decodeTile (im.mode pa) (im.mem.readBytes (tileBase pa) 256)

/-- R358: what a reader under a compression class finds: raw bytes for class 0, decoded bytes within one tile otherwise. -/
def Images.read (im : Images) (pa n comp : Nat) : Option (List Byte) :=
  if comp = 0 then some (im.mem.readBytes pa n) else (im.tile pa).map fun t => (t.drop (pa % 256)).take n

/-- R353: the bytes of a tile's slot that a mode byte stores. -/
def storedLength (mode : Byte) : Nat :=
  match mode.toNat % 16 with
  | 0 => 256
  | 1 => 0
  | _ => Nat.min 256 (16 * (mode.toNat / 16 + 1))

/-- R353, R457: does a reader of n bytes under a compression class read a byte with an uncorrectable error, among raw bytes, or in the mode byte and the stored
bytes of the tile? -/
def readsBad (pa n comp : Nat) (mode : Byte) (badMode : Bool) (bad : List Nat) : Bool :=
  let among (lo k : Nat) : Bool := bad.any fun a => lo ≤ a && a < lo + k
  if comp = 0 then among pa n else badMode || among (tileBase pa) (storedLength mode)

/-- R457: does a read at the home meet an uncorrectable error? (DEDUCED, assumption 32) -/
def Images.faulty (im : Images) (pa n comp : Nat) : Bool :=
  readsBad pa n comp (im.mode pa) (im.encoded.contains (pa / 65536) && im.badModes.contains (pa / 256)) im.bad

/-- R457: a write over bytes leaves no error in them. -/
def Images.heal (im : Images) (lo n : Nat) : Images := { im with bad := im.bad.filter fun a => !(lo ≤ a && a < lo + n) }

/-- Replace bytes of a list. -/
def overlay (bs : List Byte) (base : Nat) (ws : List (Nat × Byte)) : List Byte :=
  ws.foldl (fun acc w => acc.set (w.1 - base) w.2) bs

/-- R353, R356: one write to one tile, as one indivisible step: the mode byte and the stored bytes are rewritten. An error in what it merges with stays with the tile. (DEDUCED, assumption 32) -/
def Images.writeTile (im : Images) (pa comp : Nat) (ws : List (Nat × Byte)) : Images :=
  let base := tileBase pa
  let merged := overlay ((im.tile pa).getD (List.replicate 256 0)) base ws
  let e := encodeTile merged comp
  let r := { im with mem := im.mem.writeBytes base e.2 }.setMode pa e.1
  if im.faulty pa 1 comp && ws.length < 256 then { r with bad := r.bad ++ [base], badModes := r.badModes ++ [pa / 256] } else r.heal base e.2.length

/-- R356, R358: a write of bytes of one tile under a compression class. -/
def Images.write (im : Images) (comp : Nat) (ws : List (Nat × Byte)) : Images :=
  match ws with
  | [] => im
  | w :: _ =>
    if comp = 0 then { im with mem := ws.foldl (fun m e => m.write e.1 e.2) im.mem, bad := im.bad.filter fun a => !ws.any fun e => e.1 == a }
    else im.writeTile w.1 comp ws

/-- Bytes with their addresses. -/
def addressed (pa : Nat) (bs : List Byte) : List (Nat × Byte) := (List.range bs.length).map fun i => (pa + i, bs.getD i 0)

/-- Writes that may touch several tiles: one step a tile. -/
def Images.writeAll (im : Images) (comp : Nat) (ws : List (Nat × Byte)) : Images :=
  (distinct (ws.map fun w => w.1 / 256)).foldl (fun im t => im.write comp (ws.filter fun w => w.1 / 256 == t)) im

end Sys2Proof.Machine
end

