-- ==== Sys2Proof/Machine/Tiles.lean ====
section
/-! DEFINITION. Accumulator tiles (R272), the records and words of matrix commands (R278, R279, R284-R289), and what they read and write of a slice
(R280, R281). -/

namespace Sys2Proof.Machine

/-- R346: bit fields of an entry. -/
def bitsField (w : Word) (lo n : Nat) : Nat := w.toNat / 2 ^ lo % 2 ^ n

/-! ### Tiles and records -/

/-- R272: a view of an accumulator window. -/
structure Tile where
  rows : Nat
  cols : Nat
  base : Nat

/-- R272: accumulator (i, j). -/
def Tile.at (t : Tile) (i j : Nat) : Nat := 256 * t.base + i * t.cols + j

/-- R272. -/
def Tile.inRange (t : Tile) (units : Nat) : Bool := 256 * t.base + t.rows * t.cols ≤ 1024 * units

/-- R272: M by its code. -/
def rowsOf (mcode : Nat) : Nat := 16 * 2 ^ mcode

/-- R272: the tile that a word names; none where the word breaks the limits. -/
def tileOf (w : Word) (units : Nat) : Option Tile :=
  let t : Tile := ⟨rowsOf (bitsField w 16 2), 16 * (bitsField w 18 6 + 1), bitsField w 0 10⟩
  if bitsField w 24 40 = 0 && bitsField w 10 6 = 0 && bitsField w 16 2 != 3 && t.base ≤ 767 && t.inRange units then some t else none

/-- R279: the slice offset that an operand gives. -/
def sliceOffset (v : Word) : Nat := if v.toNat ≥ Config.windowBase && v.toNat < 2 ^ 52 then v.toNat - Config.windowBase else v.toNat

/-- R284: the element formats of mma. -/
inductive OperandFmt where
  | sx (f : SxFmt)
  | ty (t : Ty)
deriving DecidableEq, Repr

/-- R284: a format by its code. -/
def operandFmt (n : Nat) : Option OperandFmt :=
  match n with
  | 0 => some (.sx .sx4) | 1 => some (.sx .sx6) | 2 => some (.sx .sx8)
  | 3 => some (.ty .f16) | 4 => some (.ty .bf16) | 5 => some (.ty .f32)
  | _ => none

/-- R284: elements of one block. -/
def OperandFmt.count : OperandFmt → Nat
  | .sx f => f.elements
  | .ty t => 512 / t.width

/-- R284: an mma as its records give it. -/
structure Product where
  offA : Nat
  strideA : Nat
  offB : Nat
  strideB : Nat
  fmtA : OperandFmt
  fmtB : OperandFmt
  tile : Tile

/-- R284: may the formats of A and B meet? -/
def formatsMeet (a b : Nat) : Bool := a == b || (a == 3 && b == 4) || (a == 4 && b == 3)

/-- R284: an mma that keeps the limits. -/
def productOf (ra rb : List Byte) (grant units : Nat) : Option Product :=
  match operandFmt (fieldOf ra 6 1), operandFmt (fieldOf rb 6 1) with
  | some fa, some fb =>
    let mcode := fieldOf ra 7 1
    let n := fieldOf rb 7 1
    let t : Tile := ⟨rowsOf mcode, 16 * (n + 1), fieldOf ra 8 2⟩
    let p : Product := ⟨fieldOf ra 0 4, fieldOf ra 4 2, fieldOf rb 0 4, fieldOf rb 4 2, fa, fb, t⟩
    if mcode ≤ 2 && n ≤ 63 && t.base ≤ 767 && zeroBytes ra 10 6 && zeroBytes rb 8 8 && formatsMeet (fieldOf ra 6 1) (fieldOf rb 6 1) &&
        p.offA % 64 = 0 && p.offB % 64 = 0 && p.strideA % 64 = 0 && p.strideB % 64 = 0 &&
        p.offA + (t.rows - 1) * p.strideA + 63 < grant && p.offB + (t.cols - 1) * p.strideB + 63 < grant && t.inRange units then some p
    else none
  | _, _ => none

/-- R287: do b and c of mld or mst keep the limits? -/
def moveOk (t : Tile) (b : Nat) (c : Word) (grant : Nat) : Bool :=
  b % 4 = 0 && c.toNat % 4 = 0 && c.toNat < 2 ^ 20 && b + (t.rows - 1) * c.toNat + 4 * t.cols ≤ grant

/-- R288: a quantise word. -/
structure Quantise where
  draws : Nat
  stride : Nat
  scale : Byte
  sr : Bool
  fmt : SxFmt

/-- R288: blocks of a row. -/
def Quantise.blocks (q : Quantise) (cols : Nat) : Nat := (cols + q.fmt.elements - 1) / q.fmt.elements

/-- R288: a quantise word that keeps the limits, for a tile and a destination. -/
def quantiseOf (w : Word) (t : Tile) (b grant : Nat) : Option Quantise :=
  let fmt : SxFmt := match bitsField w 0 2 with
    | 0 => .sx4 | 1 => .sx6 | _ => .sx8
  let q : Quantise := ⟨bitsField w 32 20, bitsField w 16 16, BitVec.ofNat 8 (bitsField w 8 8), w.getLsbD 2, fmt⟩
  if bitsField w 52 12 = 0 && bitsField w 3 5 = 0 && bitsField w 0 2 != 3 && (if q.sr then q.draws % 4 = 0 && q.draws + 4 * t.rows * t.cols ≤ grant else q.draws = 0) &&
      q.stride % 64 = 0 && b % 64 = 0 && b + (t.rows - 1) * q.stride + 64 * q.blocks t.cols ≤ grant then some q
  else none

/-- R289: does an epilogue record keep the limits? -/
def epilogueOk (r : List Byte) (t : Tile) (grant : Nat) : Bool :=
  let bias := fieldOf r 4 4
  (bias = 0xFFFFFFFF || (bias % 4 = 0 && bias + 4 * t.cols ≤ grant)) && fieldOf r 8 1 ≤ 3 && zeroBytes r 9 7

/-- R278: does a command keep every limit? -/
def MatrixCommand.ok (c : MatrixCommand) (grant units : Nat) : Bool :=
  if c.fn = 0 then (productOf c.recA c.recB grant units).isSome
  else
    match tileOf c.a units with
    | none => false
    | some t =>
      if c.fn = 1 then true
      else if c.fn = 2 || c.fn = 3 then moveOk t (sliceOffset c.b) c.c grant
      else if c.fn = 4 then (quantiseOf c.c t (sliceOffset c.b) grant).isSome
      else epilogueOk c.recA t grant

/-- R281: the slice ranges that a command writes. -/
def MatrixCommand.ranges (c : MatrixCommand) (grant units : Nat) : List (Nat × Nat) :=
  match tileOf c.a units with
  | none => []
  | some t =>
    if c.fn = 3 then (List.range t.rows).map fun i => (sliceOffset c.b + i * c.c.toNat, 4 * t.cols)
    else if c.fn = 4 then
      match quantiseOf c.c t (sliceOffset c.b) grant with
      | some q => (List.range t.rows).map fun i => (sliceOffset c.b + i * q.stride, 64 * q.blocks t.cols)
      | none => []
    else []

/-- R271: an accumulator; +0 when it is not listed. -/
def Group.accumulator (g : Group) (h : Nat) : BitVec 32 := (Tab.get? g.accumulators h).getD 0

/-- R271: write an accumulator; an error in it is gone. -/
def Group.setAccumulator (g : Group) (h : Nat) (v : BitVec 32) : Group :=
  { g with accumulators := if v = 0 then Tab.del g.accumulators h else Tab.put g.accumulators h v, badAccumulators := g.badAccumulators.filter (· != h) }

/-! ### What a command reads -/

/-- The numbers below n whose value under f is in the 64-byte block of an offset. -/
def inBlock (o n : Nat) (f : Nat → Nat) : List Nat := (List.range n).filter fun i => f i / 64 == o / 64

/-- The accumulators of a tile in some rows and columns. -/
def Tile.cells (t : Tile) (rows cols : List Nat) : List Nat := rows.flatMap fun i => cols.map (t.at i)

/-- R280: what a command that has done so many rows has computed from the 64-byte block of an offset: accumulators, and bytes of the slice. -/
def MatrixCommand.computedFrom (c : MatrixCommand) (grant units rows o : Nat) : List Nat × List Nat :=
  if c.fn = 0 then
    match productOf c.recA c.recB grant units with
    | none => ([], [])
    | some p =>
      let active := (List.range (Nat.min rows p.tile.rows)).filter c.c.getLsbD
      let cols := List.range p.tile.cols
      (p.tile.cells (active.filter fun i => (p.offA + i * p.strideA) / 64 == o / 64) cols ++ p.tile.cells active (inBlock o p.tile.cols fun j => p.offB + j * p.strideB), [])
  else
    match tileOf c.a units with
    | none => ([], [])
    | some t =>
      let rs := List.range (Nat.min rows t.rows)
      if c.fn = 2 then (rs.flatMap fun i => t.cells [i] (inBlock o t.cols fun j => sliceOffset c.b + i * c.c.toNat + 4 * j), [])
      else if c.fn = 4 then
        match quantiseOf c.c t (sliceOffset c.b) grant with
        | none => ([], [])
        | some q =>
          if !q.sr then ([], [])
          else
            ([], rs.flatMap fun i =>
              (distinct ((inBlock o t.cols fun j => q.draws + 4 * (i * t.cols + j)).map (· / q.fmt.elements))).flatMap fun b =>
                (List.range 64).map fun k => sliceOffset c.b + i * q.stride + 64 * b + k)
      else if c.fn = 5 && fieldOf c.recA 4 4 != 0xFFFFFFFF then (t.cells rs (inBlock o t.cols fun j => fieldOf c.recA 4 4 + 4 * j), [])
      else ([], [])

/-- R287: the accumulators that a command that has started overwrites whatever they hold: the first and how many. -/
def MatrixCommand.overwrites (c : MatrixCommand) (units : Nat) : Option (Nat × Nat) :=
  if c.started.isNone then none
  else if c.fn = 1 || c.fn = 2 then (tileOf c.a units).map fun t => (256 * t.base, t.rows * t.cols) else none

/-- R280: the rows that a command has done. -/
def MatrixCommand.rowsDone (c : MatrixCommand) : Nat := 16 * c.started.getD 0

/-- R287, R288: the slice bytes that a command has stored from accumulators: of `mst` those of each, of `mqnt` every block with one of them. -/
def MatrixCommand.storedFrom (c : MatrixCommand) (grant units : Nat) (cells : List Nat) : List Nat :=
  match tileOf c.a units with
  | none => []
  | some t =>
    let rs := List.range (Nat.min c.rowsDone t.rows)
    if c.fn = 3 then
      rs.flatMap fun i => ((List.range t.cols).filter fun j => cells.contains (t.at i j)).flatMap fun j =>
        (List.range 4).map fun k => sliceOffset c.b + i * c.c.toNat + 4 * j + k
    else if c.fn = 4 then
      match quantiseOf c.c t (sliceOffset c.b) grant with
      | none => []
      | some q =>
        rs.flatMap fun i =>
          (distinct (((List.range t.cols).filter fun j => cells.contains (t.at i j)).map (· / q.fmt.elements))).flatMap fun b =>
            (List.range 64).map fun k => sliceOffset c.b + i * q.stride + 64 * b + k
    else []

/-- R280: what commands that ran later, in order, make of accumulators and bytes that an earlier one computed: they overwrite accumulators, and store from them. -/
def Group.spread (k : Group) : List MatrixCommand → List Nat × List Nat → List Nat × List Nat
  | [], r => r
  | e :: es, r =>
    let cells := match e.overwrites k.units with
      | some c => r.1.filter fun h => !(c.1 ≤ h && h < c.1 + c.2)
      | none => r.1
    k.spread es (cells, r.2 ++ e.storedFrom k.grant k.units cells)

/-- R280: what the commands of a list, the last first, that a party has not acquired have computed from some blocks: accumulators that no later command has
overwritten, and bytes. `later` ran after the list, in order. -/
def Group.reached (k : Group) (p : Party) (blocks : List Nat) (later : List MatrixCommand) : List DoneCommand → List Nat × List Nat
  | [] => ([], [])
  | d :: ds =>
    let rest := k.reached p blocks (d.command :: later) ds
    if d.known.contains p then rest
    else
      let own := blocks.map fun b => d.command.computedFrom k.grant k.units d.command.rowsDone (64 * b)
      let r := k.spread later (own.flatMap (·.1), own.flatMap (·.2))
      (r.1 ++ rest.1, r.2 ++ rest.2)

/-- R280: accumulators and slice bytes become undefined. -/
def State.undefine (s : State) (g : Nat) (cells bytes : List Nat) : State :=
  let r := s.freeBytes (4 * cells.length + bytes.length)
  r.2.updGroup g fun k =>
    let k := (cells.zipIdx).foldl (fun (k : Group) e => k.setAccumulator e.1 (BitVec.ofNat 32 (natOfBytes ((r.1.drop (4 * e.2)).take 4)))) k
    (bytes.zipIdx).foldl (fun (k : Group) e => { k with slice := k.slice.writeBytes e.1 [r.1.getD (4 * cells.length + e.2) 0] }) k

/-- R280: a party writes slice bytes. Commands whose completion it has not acquired may have read the bytes after the write: what they computed from the blocks
is undefined. -/
def State.disturb (s : State) (g : Nat) (p : Party) (offs : List Nat) : State :=
  match s.groups.get? g with
  | none => s
  | some k =>
    let running := (k.matrix.take 1).map fun c => (⟨c, []⟩ : DoneCommand)
    let r := k.reached p (distinct (offs.map (· / 64))) [] (running ++ k.doneMatrix)
    let cells := distinct r.1
    let bytes := (distinct r.2).filter fun o => k.produced.any fun w => w.off == o
    if cells.isEmpty && bytes.isEmpty then s else s.undefine g cells bytes

end Sys2Proof.Machine
end

