-- ==== Sys2Proof/Machine/Access.lean ====
section
/-! DEFINITION. Where accesses go and what they find: walks and cached translations (R345-R350), the checks of an access (R176, R177, R190), L1, the
sampler cache and reconciliation (R181, R186, R213-R218), ordered pages (R269) and speculative lines (R304). -/

namespace Sys2Proof.Machine

/-! ### Entries and walks -/

/-- R346: resident. -/
def leafResident (w : Word) : Bool := w.getLsbD 2
/-- R346: writable. -/
def leafWritable (w : Word) : Bool := w.getLsbD 4
/-- R346: ordered. -/
def leafOrdered (w : Word) : Bool := w.getLsbD 5
/-- R346: comp. -/
def leafComp (w : Word) : Nat := bitsField w 10 2
/-- R346: node. -/
def leafNode (w : Word) : Nat := bitsField w 52 12
/-- R346: tier. -/
def entryTier (w : Word) : Bool := w.getLsbD 8
/-- R346: addr, as an offset. -/
def entryOffset (w : Word) : Nat := bitsField w 12 40 * 4096

/-- R72: a cache policy by its code. -/
def policyOf (n : Nat) : CachePolicy :=
  match n with
  | 0 => .default | 1 => .stream | 2 => .keep | _ => .nol1

/-- R346: the default cache policy. -/
def leafPolicy (w : Word) : CachePolicy := policyOf (bitsField w 6 2)

/-- The key of local memory. -/
def localKey (tier : Bool) (off : Nat) : Nat := (if tier then 2 ^ 40 else 0) + off

/-- R347: the key of the memory of a node, as this package reaches it. (DEDUCED, assumption 84) -/
def nodeKey (own node : Nat) (tier : Bool) (off : Nat) : Nat :=
  if node = own then localKey tier off else (node + 1) * 2 ^ 41 + localKey tier off

/-- R346, R347: is an entry a valid table entry? Its table lies within the tier. -/
def validTable (e : Word) : Bool :=
  e.getLsbD 0 && !e.getLsbD 9 && bitsField e 10 2 = 0 && bitsField e 1 7 = 0 && bitsField e 52 12 = 0 &&
    entryOffset e + 4096 ≤ 2 * Config.tierBytes (entryTier e)

/-- R345: the size of a page mapped at a level. -/
def pageSize (level : Nat) : Nat := 2 ^ (43 - 9 * level)

/-- R346, R347: is an entry a valid leaf at a level? -/
def validLeaf (own level : Nat) (e : Word) : Bool :=
  e.getLsbD 0 && e.getLsbD 1 && level != 0 && !e.getLsbD 9 && !e.getLsbD 3 && leafComp e != 3 && entryOffset e % pageSize level = 0 &&
    (leafNode e = own || leafComp e = 0) && entryOffset e + pageSize level ≤ 2 * Config.tierBytes (entryTier e)

/-- R345: one step of a walk: `entry` is a valid table entry, `left` levels remain. -/
def walkFrom (im : Images) (own va : Nat) (entry : Word) (left : Nat) : Option (Nat × Word) :=
  match left with
  | 0 => none
  | left + 1 =>
    let level := 3 - left
    let idx := va / pageSize level % 512
    let e := BitVec.ofNat 64 (im.mem.readNat (localKey (entryTier entry) (entryOffset entry) + 8 * idx) 8)
    if validLeaf own level e then some (pageSize level, e)
    else if level < 3 && validTable e then walkFrom im own va e left
    else none

/-- R345-R347: the page size and leaf of a virtual address. -/
def walk (im : Images) (own : Nat) (root : Word) (va : Nat) : Option (Nat × Word) :=
  if validTable root then walkFrom im own va root 4 else none

/-- R348, R349: a cached translation of an address. -/
def findLeaf (ls : List CachedLeaf) (c va : Nat) : Option (Nat × Word) :=
  match ls.find? fun l => l.context == c && l.va ≤ va && va < l.va + l.size with
  | some l => some (l.size, l.leaf)
  | none => none

/-- R14: the die of a core. -/
def dieOf (core : Nat) : Nat := core / Config.coresPerDie

/-- R350: who translates: the lanes, sampler and ray unit of a core, or the engines of a die. -/
inductive Walker where
  | core (c : Nat)
  | die (d : Nat)

/-- R348: the translations a walker holds. -/
def State.cachedFor (s : State) : Walker → List CachedLeaf
  | .core c => (s.core c).tlb
  | .die d => s.walks.toList.getD d []

/-- Keep a translation (DESIGN CHOICE, assumption 4). -/
def State.cacheLeaf (s : State) (w : Walker) (l : CachedLeaf) : State :=
  match w with
  | .core c => s.setCore c { s.core c with tlb := l :: (s.core c).tlb }
  | .die d => { s with walks := s.walks.setIfInBounds d (l :: s.walks.toList.getD d []) }

/-- The root table of a context. -/
def State.rootOf (s : State) (c : Nat) : Word :=
  match s.contexts.get? c with
  | some k => k.desc.ptroot
  | none => 0

/-- R454: is only die 0 in service? -/
def State.reduced (s : State) : Bool := s.platform.step < 8 || s.diesUp != [0, 1]

/-- R454: is the memory of a leaf, at an offset, in service? -/
def State.served (s : State) (tier : Bool) (off : Nat) : Bool := !s.reduced || (tier && off < Config.tierBytes true)

/-- R425: the packages of the domain. -/
def State.domainSize (s : State) : Nat := s.link.control.toNat / 2 ^ 17 % 2 ^ 12 + 1

/-- R425: is a package within reach: this one has an assigned id, and that one lies in the domain? -/
def State.inDomain (s : State) (node : Nat) : Bool := s.link.control.getLsbD 15 && node < s.domainSize

/-- R425, R454: may an access use a leaf at an offset? -/
def State.leafReachable (s : State) (leaf : Word) (off : Nat) : Bool :=
  if leafNode leaf = s.node then s.served (entryTier leaf) off else s.inDomain (leafNode leaf)

/-- R347-R349: the translation an access uses, and the state in which it is cached. A non-resident leaf is not kept. -/
def State.translate (s : State) (w : Walker) (c va : Nat) : Option (Nat × Word) × State :=
  match findLeaf (s.cachedFor w) c va with
  | some l => (some l, s)
  | none =>
    match walk s.home s.node (s.rootOf c) va with
    | none => (none, s)
    | some l =>
      if leafResident l.2 then (some l, s.cacheLeaf w ⟨c, va / l.1 * l.1, l.1, l.2⟩) else (some l, s)

/-! ### Ordered tasks and speculation -/

/-- R268, R308: the ordered launch and the task that a fibre belongs to. -/
def State.taskOf (s : State) (f : Nat) (x : Fibre) : Option (Nat × Nat) :=
  match s.launches.get? x.launch with
  | none => none
  | some l => if l.task.isSome then l.task else if l.kernel.ordered then some (x.launch, s.linearOf f) else none

/-- R269: memory as the phase of a fibre's task began. -/
def State.phaseImages (s : State) (f : Nat) (x : Fibre) : Option Images :=
  match s.taskOf f x with
  | none => none
  | some t => (s.launches.get? t.1).map (·.phaseMem)

/-- R304: the speculative bytes that a group sees. -/
def State.specBytes (s : State) (launch group : Nat) : List SpecByte :=
  match s.launches.get? launch with
  | none => []
  | some l => l.spec.filter fun b => b.group == group

/-- The group whose speculative lines a fibre reads and writes: its own, or the one its record names (R304). -/
def State.specGroup (s : State) (f : Nat) (x : Fibre) : Nat :=
  match s.frames.get? f with
  | some r => r.linear
  | none => x.fid

/-- R304: bytes with the speculative ones over them. -/
def overSpec (sp : List SpecByte) (pa : Nat) (bs : List Byte) : List Byte :=
  (List.range bs.length).map fun i =>
    match sp.find? fun b => b.pa == pa + i with
    | some b => b.value
    | none => bs.getD i 0

/-! ### Checks -/

/-- What kind of access is checked. -/
structure Access where
  /-- needs a writable page -/
  write : Bool := false
  /-- may reach the slice -/
  slice : Bool := true
  /-- raises FLT_DETACHED in place of FLT_ACCESS there, by a detached fibre -/
  detach : Bool := true
  /-- may reach the grant word -/
  grant : Bool := false
  /-- an ordered page of an ordered grid is refused -/
  orderedOk : Bool := true
  /-- an atomic: R426 -/
  atomic : Bool := false

/-- R200, R331: do n bytes at an address reach one of the areas that only the device writes? (DEDUCED, assumption 78) -/
def ContextDesc.deviceArea (d : ContextDesc) (va n : Nat) : Bool :=
  let within (base size : Nat) : Bool := size != 0 && base < va + n && va < base + size
  within d.frameBase d.frameSize || within d.saveBase d.saveSize || within d.errorBase d.errorSize || within d.dumpBase d.dumpSize

/-- R331: the same in a context. -/
def State.inDeviceArea (s : State) (c va n : Nat) : Bool :=
  match s.contexts.get? c with
  | some k => k.desc.deviceArea va n
  | none => false

/-- R310: the 256 bytes of a block's piece hold nothing defined: no copy of them is left in a core, and each is free, in memory and in what the tasks of an
ordered grid find there. (DESIGN CHOICE, assumption 46) -/
def State.scramblePiece (s : State) (pa comp : Nat) : State :=
  let r := s.freeBytes 256
  let ws := addressed pa r.1
  let inside (a : Nat) : Bool := pa ≤ a && a < pa + 256
  let keep (ls : List CleanLine) : List CleanLine := ls.filter fun e => !inside e.pa
  { r.2 with
    home := r.2.home.write comp ws
    cores := r.2.cores.mapAll fun _ k => { k with dirty := k.dirty.filter (fun e => !inside e.1), clean := keep k.clean, sampler := keep k.sampler }
    launches := r.2.launches.mapAll fun _ l => if l.kernel.ordered then { l with phaseMem := l.phaseMem.write comp ws } else l }

/-- R310: the first access to a piece of a block whose page was not resident when it was allocated: its bytes are undefined. -/
def State.freshen (s : State) (c va pa comp : Nat) : State :=
  match s.contexts.get? c with
  | none => s
  | some k =>
    let piece := va / 256 * 256
    if k.unset.contains piece then
      ({ s with contexts := s.contexts.put c { k with unset := k.unset.filter (· != piece) } }).scramblePiece (pa - va % 256) comp
    else s

/-- R177: a local-window offset. -/
def State.windowLoc (s : State) (x : Fibre) (a : Access) (o n : Nat) : Except FaultCode Loc :=
  if o < Config.stackOffset then
    if x.detached && a.detach then .error .detached
    else
      match s.groupOf x with
      | none => .error .access
      | some g => if a.slice && o + n ≤ g.grant then .ok (.slice o) else .error .access
  else if o ≥ Config.grantOffset && a.grant && !a.write then
    if x.detached then .error .detached else .ok (.grant (o - Config.grantOffset))
  else .error .access

/-- R72, R347: the policy in force. -/
def policyFor (hint leaf : CachePolicy) : CachePolicy := if hint = .default then leaf else hint

/-- R176, R190: check and translate one access of n bytes, aligned on `al`. -/
def State.locate (s : State) (f : Nat) (x : Fibre) (a : Access) (va : Word) (n al : Nat) : Except FaultCode (Loc × State) :=
  let v := va.toNat
  if v % al != 0 then .error .align
  else if v ≥ 2 ^ 52 then .error .translation
  else if v ≥ Config.windowBase then (s.windowLoc x a (v - Config.windowBase) n).map fun l => (l, s)
  else
    match s.translate (.core x.core) x.context v with
    | (none, _) => .error .translation
    | (some l, t) =>
      if !leafResident l.2 || !s.leafReachable l.2 (entryOffset l.2 + v % l.1) then .error .translation
      else if leafNode l.2 != s.node && s.link.unreachable.contains (leafNode l.2) && (!a.write || a.atomic) then .error .access
      else if a.write && (!leafWritable l.2 || s.inDeviceArea x.context v n) then .error .access
      else if !a.orderedOk && leafOrdered l.2 && (s.taskOf f x).isSome then .error .access
      else
        let pa := nodeKey s.node (leafNode l.2) (entryTier l.2) (entryOffset l.2 + v % l.1)
        .ok (.mem pa (leafComp l.2) (leafOrdered l.2) (policyFor x.hints.cache (leafPolicy l.2)) v, t.freshen x.context v pa (leafComp l.2))

/-- A list of accesses in order; the first fault is reported with its address. -/
def State.locateAll (s : State) (f : Nat) (x : Fibre) (a : Access) (n al : Nat) : List Word → Except (FaultCode × Word) (List Loc × State)
  | [] => .ok ([], s)
  | va :: rest =>
    match s.locate f x a va n al with
    | .error e => .error (e, va)
    | .ok (l, t) =>
      match State.locateAll t f x a n al rest with
      | .error e => .error e
      | .ok (ls, u) => .ok (l :: ls, u)

/-! ### Accesses of engines and of the device itself -/

/-- Translate an access that an engine of a die, or the device, makes in a context: the physical address and the leaf. -/
def State.deviceLocate (s : State) (die c va : Nat) : Option (Nat × Word × State) :=
  match s.translate (.die die) c va with
  | (none, _) => none
  | (some l, t) =>
    if leafResident l.2 && s.leafReachable l.2 (entryOffset l.2 + va % l.1) then some (nodeKey s.node (leafNode l.2) (entryTier l.2) (entryOffset l.2 + va % l.1), l.2, t) else none

/-- R426: the package that a physical address lies in, when it is another. -/
def remoteNode (pa : Nat) : Option Nat := if pa ≥ 2 ^ 41 then some (pa / 2 ^ 41 - 1) else none

/-- R421: does a link carry traffic? -/
def LinkState.carries : LinkState → Bool
  | .up | .degraded => true
  | .down | .training _ => false

/-- R426, R427: the port that takes the place of a path's, if its own does not carry traffic and another does. -/
def LinkFabric.routeOf (l : LinkFabric) (path : Nat) : Nat :=
  let up (j : Nat) : Bool := (l.fabric.toList.getD j .down).carries
  if up (path / 16) then path
  else match (List.range 8).filter up with
    | [] => path
    | p :: ps => 16 * ((p :: ps).getD (path / 16 % (ps.length + 1)) p) + path % 16

/-- R426, R427: the path that the accesses of a core to a line take: the one that carries an access not yet acknowledged, or else, of the ports that carry traffic,
one selected by the line (DESIGN CHOICE, assumption 12). -/
def LinkFabric.pathOf (l : LinkFabric) (core : Option Nat) (line : Nat) : Nat :=
  match l.inFlight.find? fun w => w.core == core && w.pa / 64 == line with
  | some w => w.path
  | none => l.routeOf (line / 16 % 8 * 16 + line % 16)

/-- R427: one more write packet for a package on a path. -/
def countPacket (dest path : Nat) : List PathCount → List PathCount
  | [] => [⟨dest, path, 1⟩]
  | p :: ps => if p.dest = dest && p.path = path then { p with count := p.count + 1 } :: ps else p :: countPacket dest path ps

/-- R428: the last epoch sent to a package. -/
def LinkFabric.epochOf (l : LinkFabric) (dest : Nat) : Nat := (l.epochs.get? dest).getD 0

/-- R428: the epoch after one, as .n32. (DEDUCED, assumption 72) -/
def nextEpoch (e : Nat) : Nat := (e + 1) % 2 ^ 32

/-- R428: is epoch a no later than b? -/
def notLater (a b : Nat) : Bool := (b + 2 ^ 32 - a % 2 ^ 32) % 2 ^ 32 < 2 ^ 31

/-- R426, R427: bytes written to other packages by a core or an engine: one write packet for each line, not acknowledged yet. -/
def LinkFabric.sendWrites (l : LinkFabric) (core : Option Nat) (pas : List Nat) : LinkFabric :=
  let remote := pas.filter fun a => (remoteNode a).isSome
  (distinct (remote.map (· / 64))).foldl
    (fun l line =>
      let dest := (remoteNode (64 * line)).getD 0
      let path := l.pathOf core line
      { l with
        sent := countPacket dest path l.sent
        inFlight := l.inFlight ++ (remote.filter (· / 64 == line)).map fun a => ⟨a, core, path, nextEpoch (l.epochOf dest)⟩ }) l

/-- R217, R426: write-backs are acknowledged. (DESIGN CHOICE, assumption 110) -/
def State.deliver (s : State) (which : InFlight → Bool) : State :=
  { s with link := { s.link with inFlight := s.link.inFlight.filter fun w => !which w } }

/-- R426: does some path reach a package? -/
def LinkFabric.pathUp (l : LinkFabric) (pkg : Nat) : Bool := l.portsDown.isNone && !l.down.any (·.1 == pkg)

/-- R433: source bytes of a collective among bytes of memory: the source and the offset in it. -/
def Collective.sourceBytes (c : Collective) (hit : Nat → Bool) : List (Nat × Nat) :=
  c.spans.flatMap fun (r : Nat × Nat × Nat × Nat) => ((List.range r.2.1).filter fun i => hit (r.1 + i)).map fun i => (r.2.2.1, r.2.2.2 + i)

/-- R433: bytes of memory are written: a collective notes those that are bytes of its sources. -/
def State.noteWhere (s : State) (hit : Nat → Bool) : State :=
  { s with collectives := s.collectives.mapAll fun _ (c : Collective) => { c with touched := c.touched ++ c.sourceBytes hit } }

/-- R433: the same for listed bytes. -/
def State.noteWritten (s : State) (pas : List Nat) : State := s.noteWhere fun a => pas.contains a

/-- R426, R427: bytes written by an engine, or without an answer, to other packages. -/
def State.sendHome (s : State) (pas : List Nat) : State := { s with link := s.link.sendWrites none pas }

/-- Bytes written at their home. -/
def State.writeHome (s : State) (comp : Nat) (ws : List (Nat × Byte)) : State :=
  { s with home := s.home.write comp ws }.noteWritten (ws.map fun (w : Nat × Byte) => w.1)

/-- R200: the device writes bytes of its own areas at their home, whatever the writable attribute; where no page is mapped nothing is written. (DEDUCED, assumption 79) -/
def State.deviceWrite (s : State) (die c va : Nat) (bs : List Byte) : State :=
  match s.deviceLocate die c va with
  | none => s
  | some (pa, leaf, t) =>
    let t := t.freshen c va pa (leafComp leaf)
    ({ t with home := t.home.writeAll (leafComp leaf) ((List.range bs.length).map fun i => (pa + i, bs.getD i 0)) }.noteWritten
      ((List.range bs.length).map (pa + ·))).sendHome ((List.range bs.length).map (pa + ·))

/-- R200: the same for a range, line by line. `fuel` bounds the lines. -/
def State.deviceWriteLines (s : State) (die c va : Nat) (bs : List Byte) (fuel : Nat) : State :=
  match fuel with
  | 0 => s
  | fuel + 1 =>
    let n := 64 - va % 64
    if bs.isEmpty then s else (s.deviceWrite die c va (bs.take n)).deviceWriteLines die c (va + n) (bs.drop n) fuel

/-- R200: the device writes a range of its own areas. -/
def State.deviceWriteRange (s : State) (die c va : Nat) (bs : List Byte) : State := s.deviceWriteLines die c va bs (bs.length / 64 + 2)

/-- R200, R310: no core keeps a copy of physical bytes. -/
def State.dropCopies (s : State) (lo hi : Nat) : State :=
  let keep (ls : List CleanLine) : List CleanLine := ls.filter fun l => hi ≤ l.pa || l.pa + l.bytes.length ≤ lo
  { s with cores := s.cores.mapAll fun _ k => { k with clean := keep k.clean, sampler := keep k.sampler } }

/-! ### L1 -/

/-- R181: the line that a byte under a class lies in: 64 bytes, or a whole tile. -/
def lineBase (pa comp : Nat) : Nat := if comp = 0 then pa / 64 * 64 else tileBase pa

/-- R181: the clean line that holds an address under a class. -/
def findLine (ls : List CleanLine) (pa comp : Nat) : Option CleanLine :=
  ls.find? fun l => l.pa ≤ pa && pa < l.pa + l.bytes.length && (comp = 0 || l.mode.isSome)

/-- R359: what a cached line gives under a class. -/
def CleanLine.read (l : CleanLine) (pa n comp : Nat) : Option (List Byte) :=
  if comp = 0 then some ((l.bytes.drop (pa - l.pa)).take n)
  else (decodeTile (l.mode.getD 0) l.bytes).map fun t => (t.drop (pa % 256)).take n

/-- R181: the line as a fill brings it. -/
def Images.line (im : Images) (pa comp : Nat) : CleanLine :=
  let bad (lo n : Nat) : List Nat := im.bad.filter fun a => lo ≤ a && a < lo + n
  if comp = 0 then ⟨pa / 64 * 64, im.mem.readBytes (pa / 64 * 64) 64, none, bad (pa / 64 * 64) 64, false⟩
  else
    ⟨tileBase pa, im.mem.readBytes (tileBase pa) 256, some (im.mode pa), bad (tileBase pa) 256,
      im.encoded.contains (pa / 65536) && im.badModes.contains (pa / 256)⟩

/-- The dirty bytes of a core over bytes read. -/
def overDirty (d : Tab DirtyByte) (pa : Nat) (bs : List Byte) : List Byte :=
  (List.range bs.length).map fun i =>
    match d.get? (pa + i) with
    | some b => b.value
    | none => bs.getD i 0

/-- Does a core hold every byte of an access dirty? -/
def allDirty (d : Tab DirtyByte) (pa n : Nat) : Bool := (List.range n).all fun i => (d.get? (pa + i)).isSome

/-- R457: does a cached line give an uncorrectable error to a reader? -/
def CleanLine.faulty (l : CleanLine) (pa n comp : Nat) : Bool := readsBad pa n comp (l.mode.getD 0) l.badMode l.bad

/-- R193, R216: write dirty bytes of a core back to their homes, one step a tile; a line written back is no longer held. -/
def State.writeBack (s : State) (c : Nat) (p : Nat → DirtyByte → Bool) : State :=
  let k := s.core c
  let sel := k.dirty.filter fun e => p e.1 e.2
  let im := (distinct (sel.map fun e => (e.1 / 256, e.2.comp))).foldl
    (fun im t =>
      let mine := sel.filter fun e => e.1 / 256 == t.1 && e.2.comp == t.2
      let im := im.write t.2 (mine.map fun e => (e.1, e.2.value))
      { im with bad := im.bad ++ (mine.filter (·.2.bad)).map (·.1) }) s.home
  { s with home := im, link := s.link.sendWrites (some c) (sel.map fun (e : Nat × DirtyByte) => e.1) }.setCore c
    { k with
      dirty := k.dirty.filter fun e => !p e.1 e.2,
      clean := k.clean.filter fun l => !sel.any fun e => l.pa ≤ e.1 && e.1 < l.pa + l.bytes.length }

/-- The same where some byte is to go; a core that has none is left alone. -/
def State.writeBackIf (s : State) (c : Nat) (p : Nat → DirtyByte → Bool) : State :=
  if (s.core c).dirty.any fun e => p e.1 e.2 then s.writeBack c p else s

/-- R218: before an atomic, the core writes back its dirty bytes of the line and drops its copy. -/
def State.flushLine (s : State) (c pa comp : Nat) : State :=
  let base := lineBase pa comp
  let len := if comp = 0 then 64 else 256
  let s := s.writeBack c fun a _ => base ≤ a && a < base + len
  s.setCore c { s.core c with clean := (s.core c).clean.filter fun l => !(l.pa < base + len && base < l.pa + l.bytes.length) }

/-- R359: every byte of a tile that a core stored under another class goes home. (DEDUCED, assumption 11) -/
def State.oneClass (s : State) (c pa comp : Nat) : State :=
  s.writeBackIf c fun a b => a / 256 == pa / 256 && b.comp != comp

/-- R72, R457: does a plain read on a core meet an uncorrectable error, in L1 or at the home? -/
def State.coreFaulty (s : State) (c pa n comp : Nat) (policy : CachePolicy) : Bool :=
  if policy = .nol1 then (s.flushLine c pa comp).home.faulty pa n comp
  else
  let s := s.oneClass c pa comp
  let k := s.core c
  let under (bad : List Nat) : List Nat := if comp = 0 then bad.filter fun a => (k.dirty.get? a).isNone else bad
  ((List.range n).any fun i => (k.dirty.get? (pa + i)).any (·.bad)) ||
    (!allDirty k.dirty pa n && match findLine k.clean pa comp with
      | some l => CleanLine.faulty { l with bad := under l.bad } pa n comp
      | none => Images.faulty { s.home with bad := under s.home.bad } pa n comp)

/-- R186, R457: does a read through the sampler cache? -/
def State.samplerFaulty (s : State) (c pa n comp : Nat) : Bool :=
  match findLine (s.core c).sampler pa comp with
  | some l => l.faulty pa n comp
  | none => s.home.faulty pa n comp || (List.range n).any fun i => ((s.core c).dirty.get? (pa + i)).any (·.bad)

/-- R19: of cached lines, the newest first, those that a number of bytes has room for. -/
def trimLines (room : Nat) : List CleanLine → List CleanLine
  | [] => []
  | l :: ls => if l.bytes.length ≤ room then l :: trimLines (room - l.bytes.length) ls else []

/-- R179, R181: bytes of L1 that hold no dirty line. -/
def CoreState.cleanRoom (k : CoreState) : Nat := 65536 * k.boundary - 64 * (distinct (k.dirty.map (·.1 / 64))).length

/-- R72, R181: a line that a core fills stands before the older ones; one of the policy stream stands last, and is evicted first. -/
def CoreState.fill (k : CoreState) (l : CleanLine) (policy : CachePolicy) : CoreState :=
  { k with clean := trimLines k.cleanRoom (if policy = .stream then k.clean ++ [l] else l :: k.clean) }

/-- R72: a read that bypasses L1: what the core holds of the line goes home first. -/
def State.homeRead (s : State) (c pa n comp : Nat) : Option (List Byte) × State :=
  let s := s.flushLine c pa comp
  ((s.home.line pa comp).read pa n comp, s.deliver fun w => w.core == some c && lineBase w.pa comp == lineBase pa comp)

/-- R72, R181: a plain read on a core: through L1, filling it, unless the policy bypasses it. None where the tile breaks R355. A miss waits until the core's
write-backs of the line are acknowledged (R217). (DESIGN CHOICE, assumption 4) -/
def State.coreRead (s : State) (c pa n comp : Nat) (policy : CachePolicy) : Option (List Byte) × State :=
  if policy = .nol1 then s.homeRead c pa n comp
  else
    let s := s.oneClass c pa comp
    let k := s.core c
    if allDirty k.dirty pa n then (some (overDirty k.dirty pa (List.replicate n 0)), s)
    else
      match findLine k.clean pa comp with
      | some l => ((l.read pa n comp).map (overDirty k.dirty pa), s)
      | none =>
        let s := s.deliver fun w => w.core == some c && lineBase w.pa comp == lineBase pa comp
        let l := s.home.line pa comp
        ((l.read pa n comp).map (overDirty k.dirty pa), s.setCore c (k.fill l policy))

/-- R215, R359: before a store, its line goes home where it was last written before the core's latest release, and the tile where it was written under another
class: a dirty line has one sequence value and one class. (DEDUCED, assumption 11) -/
def State.oneStamp (s : State) (c pa comp : Nat) : State :=
  let now := (s.core c).release
  (s.oneClass c pa comp).writeBackIf c fun a b => a / 64 == pa / 64 && b.stamp != now

/-- R72, R181: the lines that a core holds dirty beyond its part, those of the policy stream first. -/
def CoreState.surplus (k : CoreState) : List Nat :=
  let lines := distinct ((k.dirty.filter (·.2.stream)).map (·.1 / 64) ++ k.dirty.map (·.1 / 64))
  lines.take (lines.length - 1024 * k.boundary)

/-- R72, R215: a store accepted by L1, with the release sequence of the core; one that bypasses L1 is performed at the home. Lines that L1 has no room for are
written back. -/
def State.coreWrite (s : State) (c pa comp : Nat) (bs : List Byte) (policy : CachePolicy) : State :=
  if policy = .nol1 then
    let s := s.flushLine c pa comp
    { s with link := s.link.sendWrites (some c) ((addressed pa bs).map Prod.fst) }.writeHome comp (addressed pa bs)
  else
    let s := (s.noteWritten ((addressed pa bs).map Prod.fst)).oneStamp c pa comp
    let k := s.core c
    let k := { k with dirty := (addressed pa bs).foldl (fun d (w : Nat × Byte) => d.put w.1 ⟨w.2, k.release, comp, policy == CachePolicy.stream, false⟩) k.dirty }
    let s := s.setCore c { k with clean := trimLines k.cleanRoom k.clean }
    s.writeBackIf c fun a _ => k.surplus.contains (a / 64)

/-- R181, R348: a core evicts the line that holds a physical address: it is written back and dropped. -/
def State.evict (s : State) (core pa : Nat) : State :=
  let t := s.writeBack core fun a b => lineBase a b.comp == lineBase pa b.comp
  let keep (ls : List CleanLine) : List CleanLine := ls.filter fun l => !(l.pa ≤ pa && pa < l.pa + l.bytes.length)
  t.setCore core { t.core core with clean := keep (t.core core).clean, sampler := keep (t.core core).sampler }

/-- R348: a core and the walk caches drop a cached translation of a context's page. -/
def State.forget (s : State) (core context va : Nat) : State :=
  let keep (l : CachedLeaf) : Bool := !(l.context == context && l.va ≤ va && va < l.va + l.size)
  { s.setCore core { s.core core with tlb := (s.core core).tlb.filter keep } with walks := s.walks.map fun ls => ls.filter keep }

/-- R216: a party on a core acquires one edge: the releasing core writes back what the edge covers, and the acquirer drops its clean lines. -/
def State.reconcile (s : State) (acquirer : Nat) (e : Edge) : State :=
  let s := if e.1 < 192 then s.writeBack e.1 fun _ b => b.stamp ≤ e.2 else s
  s.setCore acquirer { s.core acquirer with clean := [] }

/-- R428: a flush marker. -/
def Marker.bytes (m : Marker) : List Byte :=
  padTo 32 0 ([1, BitVec.ofNat 8 m.path] ++ bytesOfNat 2 m.sender ++ bytesOfNat 4 m.epoch ++ bytesOfNat 8 m.count ++ bytesOfNat 4 m.paths)

/-- R427: a marker goes down every path that has carried writes to a package since its last one, or down another in place of one that has gone Down. -/
def LinkFabric.sendTo (l : LinkFabric) (own dest : Nat) : LinkFabric :=
  let epoch := nextEpoch (l.epochOf dest)
  let cs := l.sent.filter (·.dest == dest)
  { l with
    epochs := l.epochs.put dest epoch
    waiting := l.waiting ++ [(dest, epoch)]
    outgoing := l.outgoing ++ cs.map fun (c : PathCount) => ⟨dest, l.routeOf c.path, epoch, Marker.bytes ⟨c.path, own, epoch, c.count, cs.length⟩⟩ }

/-- R217, R427: the markers of an acquire point; what the acquirer then waits for, as edges: 256 + the package, and its last epoch. -/
def State.sendMarkers (s : State) : State × List Edge :=
  let l := (distinct (s.link.sent.map (·.dest))).foldl (fun l d => l.sendTo s.node d) s.link
  ({ s with link := { l with sent := [] } }, (distinct (l.waiting.map (·.1))).map fun d => (256 + d, l.epochOf d))

/-- R428: is an edge to another package still to be acknowledged? -/
def State.unacked (s : State) (e : Edge) : Bool := e.1 ≥ 256 && s.link.waiting.any fun (w : Nat × Nat) => 256 + w.1 == e.1 && notLater w.2 e.2

/-- R216: an engine, a party on no fibre's core, acquires edges: it works at the homes. -/
def State.reconcileHome (s : State) (es : List Edge) : State :=
  es.foldl (fun s e => if e.1 < 192 then s.writeBack e.1 (fun _ b => b.stamp ≤ e.2) else s) s

/-- R216, R217: an acquire point of an engine: does it issue? Its markers are sent, and it waits until every package has acknowledged (DEDUCED, assumption 72). -/
def State.engineAcquires (s : State) (es : List Edge) : State × Bool :=
  if es.isEmpty then (s, true)
  else
    let t := (s.reconcileHome es).sendMarkers.1
    (t, t.link.waiting.isEmpty)

/-- R216: the edge that work done at the homes releases. -/
def homeEdge : Edge := (192, 0)

/-- R186: a read through the sampler cache. A fill writes the dirty bytes of the line back first: the core's own, and those of cores of its die that have
fenced the die. -/
def State.samplerRead (s : State) (c pa n comp : Nat) : Option (List Byte) × State :=
  match findLine (s.core c).sampler pa comp with
  | some l => (l.read pa n comp, s)
  | none =>
    let base := lineBase pa comp
    let len := if comp = 0 then 64 else 256
    let s := (distinct (c :: s.cores.keys fun d k => k.fenced && dieOf d == dieOf c)).foldl (fun s d => s.writeBack d fun a _ => base ≤ a && a < base + len) s
    let l := s.home.line pa comp
    (l.read pa n comp, s.setCore c { s.core c with sampler := trimLines Config.samplerBytes (l :: (s.core c).sampler) })

/-! ### Reads and writes of a fibre -/

/-- The bytes of a group's grant word (R177). -/
def grantBytes (g : Group) (off n : Nat) : List Byte := ((bytesOfNat 8 g.grant).drop off).take n

/-- R281, R381: has a party not acquired what an engine wrote to a slice byte, or what a command that is not Done writes there? -/
def Group.unacquired (g : Group) (p : Party) (off : Nat) : Bool :=
  g.produced.any (fun w => w.off == off && !w.known.contains p) || g.matrix.any fun c => c.writes.any fun w => w.1 ≤ off && off < w.1 + w.2

/-- R281, R381: what a party reads of a slice: bytes that engines wrote and it has not acquired are undefined. -/
def State.readSlice (s : State) (p : Party) (g : Group) (off n : Nat) : List Byte × State :=
  if (List.range n).any fun i => g.unacquired p (off + i) then
    let r := s.freeBytes n
    ((List.range n).map fun i => if g.unacquired p (off + i) then r.1.getD i 0 else g.slice.read (off + i), r.2)
  else (g.slice.readBytes off n, s)

/-- R359: the parties of a slice after a page has moved: sync words have new addresses. -/
def Group.moveWords (g : Group) (move : Nat → Nat) : Group :=
  let party (p : Party) : Party := match p with
    | .word a => .word (move a)
    | .fibre _ | .operation _ _ _ | .release _ _ | .stream _ _ | .grid _ => p
  let ws (l : List SliceWrite) : List SliceWrite := l.map fun w => { w with known := w.known.map party }
  { g with uncovered := ws g.uncovered, produced := ws g.produced, doneMatrix := g.doneMatrix.map fun d => { d with known := d.known.map party } }

/-- R311: is an address freed: of a block that was freed, and of no live one since? -/
def Context.freedAt (k : Context) (va : Nat) : Bool :=
  k.freed.any (fun e => e.1 ≤ va && va < e.1 + e.2.1) && !k.heap.any fun b => b.base ≤ va && va < b.base + b.size

/-- R311: what a read of a context returns: freed bytes are undefined. (DESIGN CHOICE, assumption 46) -/
def State.blurFreed (s : State) (c va : Nat) (bs : List Byte) : List Byte × State :=
  match s.contexts.get? c with
  | none => (bs, s)
  | some k =>
    if (List.range bs.length).any fun i => k.freedAt (va + i) then
      let r := s.freeBytes bs.length
      ((List.range bs.length).map fun i => if k.freedAt (va + i) then r.1.getD i 0 else bs.getD i 0, r.2)
    else (bs, s)

/-- R311: the same of a read that may have found nothing. -/
def State.blurRead (c va : Nat) (r : Option (List Byte) × State) : Option (List Byte) × State :=
  match r.1 with
  | none => r
  | some bs => let b := r.2.blurFreed c va bs; (some b.1, b.2)

/-- What a plain read of a fibre finds where its access was located; none where the tile breaks R355. Of the slice, it reads as the party that it is. -/
def State.readLoc (s : State) (f : Nat) (x : Fibre) (loc : Loc) (n : Nat) (who : Party := .fibre f) : Option (List Byte) × State :=
  match loc with
  | .slice off =>
    match s.groupOf x with
    | some g => let r := s.readSlice who g off n; (some r.1, r.2)
    | none => (none, s)
  | .grant off => ((s.groupOf x).map fun g => grantBytes g off n, s)
  | .mem pa comp ordered policy va =>
    State.blurRead x.context va <|
      match ordered, s.phaseImages f x with
      | true, some im => (im.read pa n comp, s)
      | _, _ =>
        let r := s.coreRead x.core pa n comp policy
        (r.1.map (overSpec (if x.speculative then s.specBytes x.launch (s.specGroup f x) else []) pa), r.2)

/-- R186: the same through the sampler path. -/
def State.readSampler (s : State) (f : Nat) (x : Fibre) (loc : Loc) (n : Nat) : Option (List Byte) × State :=
  match loc with
  | .slice _ | .grant _ => (none, s)
  | .mem pa comp ordered _ va =>
    State.blurRead x.context va <|
      match ordered, s.phaseImages f x with
      | true, some im => (im.read pa n comp, s)
      | _, _ =>
        let r := s.samplerRead x.core pa n comp
        (r.1.map (overSpec (if x.speculative then s.specBytes x.launch (s.specGroup f x) else []) pa), r.2)

/-- R304: the speculative bytes of a launch with a write added. -/
def addSpec (sp : List SpecByte) (group fibre comp : Nat) (ws : List (Nat × Byte)) : List SpecByte :=
  sp.filter (fun b => !(b.group == group && ws.any fun w => w.1 == b.pa)) ++ ws.map fun w => ⟨group, fibre, w.1, comp, w.2, false⟩

/-- R304: the lines of the speculative-store region of a context. -/
def State.specCapacity (s : State) (c : Nat) : Nat :=
  match s.contexts.get? c with
  | some k => k.desc.specMib * 16384
  | none => 0

/-- R347: the home die of a 64-byte line. -/
def lineDie (line : Nat) : Nat := if line * 64 % 2 ^ 40 < Config.tierBytes (line * 64 / 2 ^ 40 % 2 == 1) then 0 else 1

/-- R182: the slice number of a physical address before the table maps it. -/
def sliceHash (pa : Nat) : Nat :=
  let field (i : Nat) : Nat := pa / 2 ^ i % 256
  field 8 ^^^ field 16 ^^^ field 24 ^^^ field 32 ^^^ field 40 ^^^ (pa / 2 ^ 48 % 16)

/-- R15, R182: the slice that holds the line of a physical address for a context: its home die, and the number there. -/
def State.sliceOf (s : State) (c pa : Nat) : Nat × Nat :=
  let die := lineDie (pa / 64)
  let table := match s.contexts.get? c with
    | some k => k.sliceTable
    | none => []
  (die, (table.get? (256 * die + sliceHash pa)).getD (sliceHash pa))

/-- R182: is a slice near a core? -/
def nearSlice (slice : Nat × Nat) (core : Nat) : Bool := slice.1 == dieOf core && slice.2 / 64 == core % Config.coresPerDie / 24

/-- R304: the 64-byte lines that redirected bytes occupy; each group has its own. -/
def specLines (sp : List SpecByte) : List (Nat × Nat) := sp.map fun b => (b.group, b.pa / 64)

/-- R269, R304: the lines that the writes of a fibre are redirected to; a slice and the buffers of a task take none. -/
def State.redirected (s : State) (f : Nat) (x : Fibre) (ws : List (Loc × List Byte)) : List (Nat × Nat) :=
  ws.flatMap fun w =>
    match w.1 with
    | .mem pa _ ordered _ _ =>
      if ordered && (s.taskOf f x).isSome then [] else (List.range w.2.length).map fun i => (s.specGroup f x, (pa + i) / 64)
    | .slice _ | .grant _ => []

/-- R304: the lines of the stores of a fibre that have issued and are not accepted yet. -/
def State.issuedLines (s : State) (f : Nat) (x : Fibre) : List (Nat × Nat) :=
  x.pend.flatMap fun p =>
    match p.op with
    | .store ws _ => s.redirected f x ws
    | .load .. | .loadVec .. | .loadBlock .. | .atom .. | .ared .. | .syncInit .. | .syncAdd .. | .bind .. | .query .. | .value .. | .rsLoad ..
    | .rsStore .. => []

/-- R304: the lines of a launch: those written, and those that issued stores will take. -/
def State.launchLines (s : State) (launch : Nat) (sp : List SpecByte) : List (Nat × Nat) :=
  specLines sp ++ (s.fibres.filter fun e => e.2.launch == launch && e.2.speculative).flatMap fun e => s.issuedLines e.1 e.2

/-- R27, R457: does a fibre's read of n bytes meet an uncorrectable error in a speculative line? -/
def State.specFaulty (s : State) (f : Nat) (x : Fibre) (pa n : Nat) : Bool :=
  x.speculative && (s.specBytes x.launch (s.specGroup f x)).any fun b => b.bad && pa ≤ b.pa && b.pa < pa + n

/-- R304: may a redirected write to lines be made? It raises the lines of its launch neither above the budget, in KiB, nor above what the region of
each die holds. (DEDUCED, assumption 87) -/
def State.specFits (s : State) (launch context : Nat) (lines : List (Nat × Nat)) : Bool :=
  match s.launches.get? launch with
  | none => true
  | some l =>
    let mine := distinct (s.launchLines launch l.spec ++ lines)
    let others := (s.launches.filter fun e => e.1 != launch && e.2.context == context).map fun e => distinct (s.launchLines e.1 e.2.spec)
    let on (d : Nat) (ls : List (Nat × Nat)) : Nat := (ls.filter fun k => lineDie k.2 == d).length
    mine.length ≤ l.record.budget * 16 && [0, 1].all fun d => on d mine + (others.map (on d)).sum ≤ s.specCapacity context

/-- R304: does a store that a fibre issues find room? That of a fibre that is not speculative needs none. (DEDUCED, assumption 87) -/
def State.specRoom (s : State) (f : Nat) (x : Fibre) (ws : List (Loc × List Byte)) : Bool :=
  !x.speculative || s.specFits x.launch x.context (s.redirected f x ws)

/-- R200: the slots of a context's frame area in use: base and count. -/
def State.usedSlots (s : State) (c : Nat) : List (Nat × Nat) :=
  distinct ((s.frames.filter fun e => e.2.context == c).flatMap fun e =>
    [(e.2.slot, 1)] ++ (match e.2.bankSlot with | some b => [(b, 2)] | none => []) ++ e.2.saveSlot.toList)

/-- R331: the slots of a context's frame area. -/
def State.frameSlots (s : State) (c : Nat) : Nat :=
  match s.contexts.get? c with
  | some k => k.desc.frameSize / 64
  | none => 0

/-- The bytes that an atomic covers. -/
def AtomKind.size : AtomKind → Nat
  | .op _ t _ _ _ _ => t.width / 8
  | .wideLoad | .wideExch _ | .wideCas _ _ => 16

/-- The virtual address of a location, as a fault reports it. -/
def Loc.address : Loc → Word
  | .slice off => BitVec.ofNat 64 (Config.windowBase + off)
  | .grant off => BitVec.ofNat 64 (Config.windowBase + Config.grantOffset + off)
  | .mem _ _ _ _ va => BitVec.ofNat 64 va

/-- R352: does a location lie on an ordered page, in an ordered task? -/
def State.buffers (s : State) (f : Nat) (x : Fibre) (loc : Loc) : Bool :=
  match loc with
  | .mem _ _ ordered _ _ => ordered && (s.taskOf f x).isSome
  | .slice _ | .grant _ => false

/-- R228, R269: the bytes that a buffered operation takes. (DESIGN CHOICE, assumption 33) -/
def PendOp.bufferBytes (op : PendOp) : Nat :=
  match op with
  | .store ws _ => (ws.map fun w => 8 + (w.2.length + 7) / 8 * 8).sum
  | .ared _ k => 8 + k.size
  | .load .. | .loadVec .. | .loadBlock .. | .atom .. | .syncInit .. | .syncAdd .. | .bind .. | .query .. | .value .. | .rsLoad .. | .rsStore .. => 0

/-- R228, R269: the bytes that an operation of a fibre will take in the buffers of its task. -/
def State.buffering (s : State) (f : Nat) (x : Fibre) (op : PendOp) : Nat :=
  match op with
  | .store ws fl => (PendOp.store (ws.filter fun w => s.buffers f x w.1) fl).bufferBytes
  | .ared loc k => if s.buffers f x loc then (PendOp.ared loc k).bufferBytes else 0
  | .load .. | .loadVec .. | .loadBlock .. | .atom .. | .syncInit .. | .syncAdd .. | .bind .. | .query .. | .value .. | .rsLoad .. | .rsStore .. => 0

/-- R228, R269: the bytes that the buffers of a context hold, and will hold once the stores issued are accepted. -/
def State.bufferedBytes (s : State) (c : Nat) : Nat :=
  ((s.launches.filter fun e => e.2.context == c).map fun e => (e.2.buffered.map fun b => b.op.bufferBytes).sum).sum +
    ((s.fibres.filter fun e => e.2.context == c).map fun e => (e.2.pend.map fun p => s.buffering e.1 e.2 p.op).sum).sum

/-- R200, R269: the slots of the frame area that buffers of so many bytes take: what the package does not hold beside it. (DESIGN CHOICE, assumption 33) -/
def bufferSlots (bytes : Nat) : Nat := if bytes = 0 then 0 else (bytes - Config.bufferBytes + 63) / 64

/-- R200: the slots of a context's frame area that are taken. -/
def State.takenSlots (s : State) (c : Nat) : Nat := ((s.usedSlots c).map (·.2)).sum + bufferSlots (s.bufferedBytes c)

/-- R228, R269: can the buffers of a fibre's context take so many bytes more? -/
def State.bufferRoom (s : State) (x : Fibre) (more : Nat) : Bool :=
  more == 0 || ((s.usedSlots x.context).map (·.2)).sum + bufferSlots (s.bufferedBytes x.context + more) ≤ s.frameSlots x.context

/-- R269: buffer an operation of an ordered task. -/
def State.bufferOp (s : State) (task : Nat × Nat) (f : Nat) (x : Fibre) (op : PendOp) : State :=
  s.updLaunch task.1 fun l => { l with buffered := l.buffered ++ [⟨task.2, x.lineage, op, (x.launch, s.specGroup f x)⟩] }

/-- R280: a write to the slice by a party. It is not covered; a group without accumulators runs no command that could read it.
A write by a party that has acquired what an engine wrote there supersedes it; an error found there is gone. -/
def Group.writeSlice (g : Group) (off : Nat) (bs : List Byte) (p : Party) : Group :=
  let offs := (List.range bs.length).map fun i => off + i
  { g with
    slice := g.slice.writeBytes off bs,
    uncovered := if g.units = 0 then [] else distinct (g.uncovered ++ offs.map fun o => ⟨o, [p]⟩),
    matrix := g.matrix.map fun c => { c with stale := distinct (c.stale ++ offs) },
    produced := g.produced.filter fun w => !(offs.contains w.off && w.known.contains p),
    badBytes := g.badBytes.filter fun o => !offs.contains o }

/-- R281: a party writes a slice: a byte that an engine wrote and it has not acquired becomes undefined. Commands that read the bytes, and whose completion it
has not acquired, have read undefined values (R280). -/
def State.writeSliceOf (s : State) (p : Party) (g off : Nat) (bs : List Byte) : State :=
  match s.groups.get? g with
  | none => s
  | some k =>
    let r := if (List.range bs.length).any fun i => k.unacquired p (off + i) then
        let r := s.freeBytes bs.length
        ((List.range bs.length).map fun i => if k.unacquired p (off + i) then r.1.getD i 0 else bs.getD i 0, r.2)
      else (bs, s)
    (r.2.setGroup g (k.writeSlice off r.1 p)).disturb g p ((List.range bs.length).map fun i => off + i)

/-- R281, R213: a fibre writes a slice, with an operation as it issued: what the operation wrote, the fibre knows. -/
def State.writeSliceFor (s : State) (f : Nat) (who : Party) (g off : Nat) (bs : List Byte) : State :=
  (s.writeSliceOf who g off bs).learn g [.fibre f] fun q => q == who && who != .fibre f

/-- R191, R269, R304: a write of a fibre is performed in the slice, buffered, redirected, or accepted by L1; none when a redirected write must stall. -/
def State.writeLoc (s : State) (f : Nat) (x : Fibre) (loc : Loc) (bs : List Byte) (who : Party := .fibre f) : Option State :=
  match loc with
  | .slice off =>
    match x.group with
    | some g => some (s.writeSliceFor f who g off bs)
    | none => some s
  | .grant _ => some s
  | .mem pa comp ordered policy _ =>
    match ordered, s.taskOf f x with
    | true, some t => some (s.bufferOp t f x (.store [(loc, bs)] 0))
    | _, _ =>
      if x.speculative then
        match s.launches.get? x.launch with
        | none => some s
        | some l =>
          if s.specFits x.launch x.context (s.redirected f x [(loc, bs)]) then
            some (s.setLaunch x.launch { l with spec := addSpec l.spec (s.specGroup f x) f comp (addressed pa bs) })
          else none
      else some (s.coreWrite x.core pa comp bs policy)

/-- R218: an atomic at its location: the old bytes, and the state with the new ones where it writes. None where the tile breaks R355. -/
def State.atomicAt (s : State) (f : Nat) (x : Fibre) (loc : Loc) (n : Nat) (k : List Byte → Option (List Byte)) (who : Party := .fibre f) :
    Option (List Byte × State) :=
  match loc with
  | .slice off =>
    match x.group, s.groupOf x with
    | some g, some r =>
      let old := s.readSlice who r off n
      some (old.1, match k old.1 with | some new => old.2.writeSliceFor f who g off new | none => old.2)
    | _, _ => none
  | .grant _ => none
  | .mem pa comp _ _ va =>
    let s := s.flushLine x.core pa comp
    (s.home.read pa n comp).map fun bs =>
      let old := s.blurFreed x.context va bs
      (old.1, match k old.1 with | some new => old.2.writeHome comp (addressed pa new) | none => old.2)

end Sys2Proof.Machine
end

