-- ==== Sys2Proof/Machine/Functions.lean ====
section
/-! DEFINITION. The special functions of R101, each the exact mathematical value. Roots are integer roots; the transcendental values are enclosed by
fixed-point arithmetic of growing precision until the enclosure fixes 67 leading bits, which decides every rounding. -/

namespace Sys2Proof

/-- One Newton step after another down to the integer square root. -/
def isqrtLoop (n : Nat) : Nat → Nat → Nat
  | 0, x => x
  | fuel + 1, x =>
    let y := (x + n / x) / 2
    if y < x then isqrtLoop n fuel y else x

/-- The integer square root. -/
def isqrt (n : Nat) : Nat := if n = 0 then 0 else isqrtLoop n (n.log2 + 4) (2 ^ (n.log2 / 2 + 1))

/-- A magnitude with an even exponent. -/
def Mag.evened (m : Mag) : Mag := if m.exp % 2 = 0 then m else ⟨m.man * 2, m.exp - 1, m.more⟩

/-- The square root of a positive magnitude. -/
def sqrtMag (a : Mag) : Mag :=
  let m := a.evened
  let n := m.man <<< 140
  let r := isqrt n
  ⟨r, m.exp / 2 - 70, r * r != n⟩

/-- One over the square root of a positive magnitude. -/
def rsqMag (a : Mag) : Mag :=
  let m := a.evened
  let k := 70 + m.man.log2
  let r := isqrt (2 ^ (2 * k) / m.man)
  ⟨r, -(m.exp / 2) - (k : Int), r * r * m.man != 2 ^ (2 * k)⟩

/-- `floor (x * 2 ^ w)`. -/
def Mag.fixed (m : Mag) (w : Nat) : Nat :=
  let k : Int := m.exp + (w : Int)
  if k < 0 && (-k).toNat > m.man.log2 then 0 else shiftBy m.man k

/-- `ln 2`, with `w` fractional bits: the series of `1 / (k 2^k)`. -/
def lnTwoLoop (w : Nat) : Nat → Nat → Nat → Nat
  | 0, _, acc => acc
  | fuel + 1, k, acc => lnTwoLoop w fuel (k + 1) (acc + ((2 ^ w) >>> k) / k)

/-- `ln 2`, with `w` fractional bits. -/
def lnTwo (w : Nat) : Nat := lnTwoLoop w w 1 0

/-- The arctangent of `1 / q`, with `w` fractional bits: `term` is `2^w / q^(2k+1)`. -/
def atanInvLoop (q : Nat) : Nat → Nat → Nat → Int → Int
  | 0, _, _, acc => acc
  | fuel + 1, k, term, acc =>
    if term = 0 then acc
    else atanInvLoop q fuel (k + 1) (term / (q * q)) (if k % 2 = 0 then acc + (term / (2 * k + 1) : Nat) else acc - (term / (2 * k + 1) : Nat))

/-- The number pi, with `w` fractional bits (Machin). -/
def piFix (w : Nat) : Nat :=
  (16 * atanInvLoop 5 w 0 (2 ^ w / 5) 0 - 4 * atanInvLoop 239 w 0 (2 ^ w / 239) 0).toNat

/-- The exponential series of `y / 2^w`, `term` being the k-th term. -/
def expLoop (w y : Nat) : Nat → Nat → Nat → Nat → Nat
  | 0, _, _, acc => acc
  | fuel + 1, k, term, acc =>
    if term = 0 then acc else expLoop w y fuel (k + 1) (((term * y) >>> w) / (k + 1)) (acc + term)

/-- `e ^ (y / 2^w)` for `y / 2^w` below 1, with `w` fractional bits. -/
def expFix (w y : Nat) : Nat := expLoop w y w 0 (2 ^ w) 0

/-- The series of the inverse hyperbolic tangent of `u / 2^w`, `pow` being `u^(2k+1)`. -/
def atanhLoop (w u2 : Nat) : Nat → Nat → Nat → Nat → Nat
  | 0, _, _, acc => acc
  | fuel + 1, k, pow, acc =>
    if pow = 0 then acc else atanhLoop w u2 fuel (k + 1) ((pow * u2) >>> w) (acc + pow / (2 * k + 1))

/-- `ln (z / 2^w)` for `z / 2^w` from 1 to 2, with `w` fractional bits. -/
def lnFix (w z : Nat) : Nat :=
  let u := ((z - 2 ^ w) <<< w) / (z + 2 ^ w)
  2 * atanhLoop w ((u * u) >>> w) w 0 u 0

/-- The alternating series of sine (`k` odd) or cosine (`k` even) of `y / 2^w`, `term` being the term of power `k`. -/
def trigLoop (w y2 : Nat) : Nat → Nat → Nat → Bool → Int → Int
  | 0, _, _, _, acc => acc
  | fuel + 1, k, term, minus, acc =>
    if term = 0 then acc
    else trigLoop w y2 fuel (k + 2) (((term * y2) >>> w) / ((k + 1) * (k + 2))) (!minus) (if minus then acc - (term : Nat) else acc + (term : Nat))

/-- The sine of an angle of at most pi/2. -/
def sinFix (w y : Nat) : Int := trigLoop w ((y * y) >>> w) w 1 y false 0

/-- The cosine of an angle of at most pi/2. -/
def cosFix (w y : Nat) : Int := trigLoop w ((y * y) >>> w) w 0 (2 ^ w) false 0

/-- Twice the power of two that bounds the error of every approximation above, in units of the last place: each takes at most `2 w` steps of a few units,
and `w` is at most 4,096. -/
def enclosureError : Int := 2 ^ 24

/-- The 67 leading bits of a value known up to `enclosureError`, where they are settled; the value is not a dyadic number. -/
def settle (w : Nat) (x : Int) : Option (Bool × Mag) :=
  let lo := (if x < 0 then -x else x) - enclosureError
  let hi := (if x < 0 then -x else x) + enclosureError
  if lo < 2 ^ 70 then none
  else
    let s := lo.toNat.log2 - 66
    if lo.toNat >>> s = (hi.toNat - 1) >>> s then some (x < 0, ⟨lo.toNat >>> s, (s : Int) - (w : Int), true⟩) else none

/-- The leading bits at the precision of the last attempt, settled or not. -/
def unsettled (w : Nat) (x : Int) : Bool × Mag :=
  let n := if x < 0 then (-x).toNat else x.toNat
  (x < 0, ⟨n + 2 ^ 70, -(w : Int), true⟩)

/-- Enclose at growing precision. (UNVERIFIED, assumption 14) -/
def encloseWith (f : Nat → Int) : Bool × Mag :=
  match settle 192 (f 192) with
  | some r => r
  | none =>
    match settle 640 (f 640) with
    | some r => r
    | none =>
      match settle 2048 (f 2048) with
      | some r => r
      | none => (settle 4096 (f 4096)).getD (unsettled 4096 (f 4096))

/-- `2 ^ x` for a finite x that is no integer, scaled by `2 ^ -floor x`. -/
def exp2Fraction (m : Mag) (w : Nat) (neg : Bool) : Nat :=
  let n := m.fixed w % 2 ^ w
  let fr := if neg then 2 ^ w - n else n
  expFix w ((fr * lnTwo w) >>> w)

/-- R101, exp2 of a finite value. -/
def exp2X (neg : Bool) (m : Mag) : XVal :=
  if m.isZero then .fin false ⟨1, 0, false⟩
  else if m.exp + m.man.log2 > 13 then .fin false ⟨2 ^ 66, if neg then -(2 ^ 20) else 2 ^ 20, true⟩
  else
    let (n, inexact) := rint .rm neg m
    if !inexact then .fin false ⟨1, n, false⟩
    -- below 2^-80 the value is 1 and a little more, or a little less
    else if m.exp + m.man.log2 < -80 then .fin false (if neg then ⟨2 ^ 67 - 1, -67, true⟩ else ⟨2 ^ 66, -66, true⟩)
    else
      let r := (encloseWith fun w => (exp2Fraction m w neg : Nat)).2
      .fin false ⟨r.man, r.exp + n, true⟩

/-- R101, log2 of a positive value. -/
def log2X (m : Mag) : XVal :=
  let k : Int := m.exp + m.man.log2
  if m.man = 2 ^ m.man.log2 then .fin (k < 0) ⟨k.natAbs, 0, false⟩
  else
    let z (w : Nat) : Nat := shiftBy m.man ((w : Int) - m.man.log2)
    let r := encloseWith fun w => k * (2 ^ w : Nat) + ((lnFix w (z w) <<< w) / lnTwo w : Nat)
    .fin r.1 r.2

/-- The quadrant of an angle and what is left of it, with `w` fractional bits. -/
def reduceAngle (m : Mag) (w : Nat) : Nat × Nat :=
  let e : Int := m.exp + m.man.log2
  let extra := if e < 0 then 8 else e.toNat + 8
  let xs := m.fixed (w + extra)
  let hp := piFix (w + extra) / 2
  (xs / hp % 4, (xs % hp) >>> extra)

/-- The sine of a quadrant and rest. -/
def quadrantSine (w q r : Nat) : Int :=
  if q % 4 = 0 then sinFix w r
  else if q % 4 = 1 then cosFix w r
  else if q % 4 = 2 then -sinFix w r
  else -cosFix w r

/-- `x` and a little less, for a function that lies below x by less than a part in 2^70. -/
def justBelow (m : Mag) : Mag :=
  let k : Int := 66 - (m.man.log2 : Int)
  ⟨shiftBy m.man k - 1, m.exp - k, true⟩

/-- R101, sin of a non-zero value. -/
def sinX (neg : Bool) (m : Mag) : XVal :=
  if m.exp + m.man.log2 < -36 then .fin neg (justBelow m)
  else
    let r := encloseWith fun w => quadrantSine w (reduceAngle m w).1 (reduceAngle m w).2
    .fin (r.1 != neg) r.2

/-- R101, cos of a non-zero value. -/
def cosX (m : Mag) : XVal :=
  if m.exp + m.man.log2 < -36 then .fin false ⟨2 ^ 67 - 1, -67, true⟩
  else
    let r := encloseWith fun w => quadrantSine w ((reduceAngle m w).1 + 1) (reduceAngle m w).2
    .fin r.1 r.2

/-- `e ^ (-2 x)`, with `w` fractional bits, for x below 2^7. -/
def expMinusTwice (m : Mag) (w : Nat) : Nat :=
  let y := 2 * m.fixed (w + 16)
  let l := lnTwo (w + 16)
  let e := expFix w ((y % l) >>> 16)
  (2 ^ (2 * w) / e) >>> (y / l)

/-- R101, tanh of a non-zero value. -/
def tanhX (neg : Bool) (m : Mag) : XVal :=
  let e : Int := m.exp + m.man.log2
  if e < -36 then .fin neg (justBelow m)
  else if e > 6 then .fin neg ⟨2 ^ 67 - 1, -67, true⟩
  else
    let r := encloseWith fun w =>
      let t := expMinusTwice m w
      (((2 ^ w - t) <<< w) / (2 ^ w + t) : Nat)
    .fin neg r.2

/-- `e ^ (-x)`, with `w` fractional bits, for x of at most 2^8. -/
def expMinus (m : Mag) (w : Nat) : Nat :=
  let y := m.fixed (w + 16)
  let l := lnTwo (w + 16)
  let e := expFix w ((y % l) >>> 16)
  (2 ^ (2 * w) / e) >>> (y / l)

/-- R289: `v / (1 + e ^ (-v))` of a non-zero finite value. -/
def siluX (neg : Bool) (m : Mag) : XVal :=
  if m.exp + m.man.log2 ≥ 8 then if neg then .fin true ⟨2 ^ 66, -(2 ^ 20), true⟩ else .fin false (justBelow m)
  else
    let r := encloseWith fun w =>
      let t := expMinus m w
      let v := m.fixed w
      if neg then ((v * t) / (2 ^ w + t) : Nat) else ((v <<< w) / (2 ^ w + t) : Nat)
    .fin neg r.2

/-- R101: the functions of `sfn` and `vsfn`. -/
inductive Sfn where
  | rcp | rsq | sqrt | exp2 | log2 | sin | cos | tanh
deriving DecidableEq, Repr

/-- R101: the exact value and the flags of the special inputs. -/
def sfnX (f : Sfn) (x : XVal) : Flagged XVal :=
  match x with
  | .nan _ => nanOf [x]
  | .inf neg =>
    match f with
    | .rcp => (.fin neg ⟨0, 0, false⟩, 0#6)
    | .rsq => if neg then invalidNan else (.fin false ⟨0, 0, false⟩, 0#6)
    | .sqrt => if neg then invalidNan else (.inf false, 0#6)
    | .log2 => if neg then invalidNan else (.inf false, 0#6)
    | .exp2 => (if neg then .fin false ⟨0, 0, false⟩ else .inf false, 0#6)
    | .sin => invalidNan
    | .cos => invalidNan
    | .tanh => (.fin neg ⟨1, 0, false⟩, 0#6)
  | .fin neg m =>
    match f with
    | .rcp => if m.isZero then (.inf neg, Flag.divzero) else (.fin neg (divMag ⟨1, 0, false⟩ m), 0#6)
    | .rsq => if m.isZero then (.inf neg, Flag.divzero) else if neg then invalidNan else (.fin false (rsqMag m), 0#6)
    | .sqrt => if m.isZero then (x, 0#6) else if neg then invalidNan else (.fin false (sqrtMag m), 0#6)
    | .exp2 => (exp2X neg m, 0#6)
    | .log2 => if m.isZero then (.inf true, Flag.divzero) else if neg then invalidNan else (log2X m, 0#6)
    | .sin => if m.isZero then (x, 0#6) else (sinX neg m, 0#6)
    | .cos => if m.isZero then (.fin false ⟨1, 0, false⟩, 0#6) else (cosX m, 0#6)
    | .tanh => if m.isZero then (x, 0#6) else (tanhX neg m, 0#6)

/-- R101: a special function on encodings, rounded once. -/
def sfnBits (f : Sfn) (t : Ty) (mode : Rnd) (a : Word) : Flagged Word := (sfnX f (exact t a)).andThen (roundTo t mode)

end Sys2Proof
end

