-- ==== Sys2Proof/Machine/Arith.lean ====
section
/-! DEFINITION. The computations on one value or two that scalar, vector, atomic and reduction instructions share (R30, R35, R95-R98, R100, R103). -/

namespace Sys2Proof

/-- R95: an exact integer result, clamped with overflow under saturation, else wrapped. -/
def intResult (t : Ty) (sat : Bool) (x : Int) : Flagged Word :=
  if sat && (x < t.minInt || x > t.maxInt) then (placeInt t (clampInt x t.minInt t.maxInt), Flag.overflow)
  else (placeInt t x, 0#6)

/-- R95. -/
def addInt (t : Ty) (sat : Bool) (a b : Word) : Flagged Word := intResult t sat (intOf t a + intOf t b)
/-- R95. -/
def subInt (t : Ty) (sat : Bool) (a b : Word) : Flagged Word := intResult t sat (intOf t a - intOf t b)
/-- R95. -/
def mulInt (t : Ty) (sat : Bool) (a b : Word) : Flagged Word := intResult t sat (intOf t a * intOf t b)
/-- R96. -/
def madInt (t : Ty) (sat : Bool) (a b c : Word) : Flagged Word := intResult t sat (intOf t c + intOf t a * intOf t b)
/-- R95: the high half of the exact product. -/
def mulhInt (t : Ty) (a b : Word) : Word := placeInt t ((intOf t a * intOf t b) / (2 ^ t.width : Nat))
/-- R95. -/
def negInt (t : Ty) (sat : Bool) (a : Word) : Flagged Word := intResult t sat (-intOf t a)
/-- R95. -/
def absInt (t : Ty) (sat : Bool) (a : Word) : Flagged Word := intResult t sat (intOf t a).natAbs

/-- R30: the quotient, truncated toward zero, with the two exceptional divisions. -/
def divInt (t : Ty) (a b : Word) : Flagged Word :=
  let x := intOf t a
  let y := intOf t b
  if y = 0 then
    if !t.signed then (placeInt t t.maxInt, Flag.divzero)
    else if x ≥ 0 then (placeInt t t.maxInt, Flag.divzero)
    else (placeInt t t.minInt, Flag.divzero)
  else if t.signed && x = t.minInt && y = -1 then (placeInt t t.minInt, Flag.overflow)
  else (placeInt t (x.tdiv y), 0#6)

/-- R30: the remainder, with the sign of the dividend. -/
def remInt (t : Ty) (a b : Word) : Flagged Word :=
  let x := intOf t a
  let y := intOf t b
  if y = 0 then (placeInt t x, Flag.divzero)
  else if t.signed && x = t.minInt && y = -1 then (placeInt t 0, Flag.overflow)
  else (placeInt t (x.tmod y), 0#6)

/-- R95. -/
def minInt (t : Ty) (a b : Word) : Word := placeInt t (if intOf t a ≤ intOf t b then intOf t a else intOf t b)
/-- R95. -/
def maxInt (t : Ty) (a b : Word) : Word := placeInt t (if intOf t a ≤ intOf t b then intOf t b else intOf t a)

/-- R95: bits W-1..0 of a word. -/
def lowBits (t : Ty) (a : Word) : Nat := bitsOf t a

/-- R95: a raw result of a width, zero-extended. -/
def zeroExt (t : Ty) (n : Nat) : Word := BitVec.ofNat 64 (n % 2 ^ t.width)

/-- R95: the shift count. -/
def shiftCount (t : Ty) (b : Word) : Nat := bitsOf t b % t.width

/-- R95. -/
def andBits (t : Ty) (a b : Word) : Word := zeroExt t (bitsOf t a &&& bitsOf t b)
/-- R95. -/
def orBits (t : Ty) (a b : Word) : Word := zeroExt t (bitsOf t a ||| bitsOf t b)
/-- R95. -/
def xorBits (t : Ty) (a b : Word) : Word := zeroExt t (bitsOf t a ^^^ bitsOf t b)
/-- R95. -/
def notBits (t : Ty) (a : Word) : Word := zeroExt t (2 ^ t.width - 1 - bitsOf t a)
/-- R95: zero fill. -/
def shlBits (t : Ty) (a b : Word) : Word := zeroExt t (bitsOf t a <<< shiftCount t b)
/-- R95: zero fill. -/
def shrBits (t : Ty) (a b : Word) : Word := zeroExt t (bitsOf t a >>> shiftCount t b)
/-- R95: filling with bit W-1. -/
def sraBits (t : Ty) (a b : Word) : Word :=
  let s := shiftCount t b
  let fill := if (bitsOf t a).testBit (t.width - 1) then (2 ^ t.width - 1) - (2 ^ (t.width - s) - 1) else 0
  zeroExt t ((bitsOf t a >>> s) ||| fill)
/-- R95: rotated right within W bits. -/
def rorBits (t : Ty) (a b : Word) : Word :=
  let s := shiftCount t b
  zeroExt t ((bitsOf t a >>> s) ||| (bitsOf t a <<< (t.width - s)))
/-- The one bits of a number below bit n. -/
def countOnes (v : Nat) : Nat → Nat
  | 0 => 0
  | n + 1 => (if v.testBit n then 1 else 0) + countOnes v n
/-- The zero bits above the highest one of a number of n bits. -/
def countLeading (v : Nat) : Nat → Nat
  | 0 => 0
  | n + 1 => if v.testBit n then 0 else 1 + countLeading v n
/-- The zero bits below the lowest one of a number, from bit i on, n of them. -/
def countTrailing (v i : Nat) : Nat → Nat
  | 0 => 0
  | n + 1 => if v.testBit i then 0 else 1 + countTrailing v (i + 1) n
/-- Bit i of the result is bit n-1-i of a number. -/
def reverseBits (v : Nat) : Nat → Nat
  | 0 => 0
  | n + 1 => (if v.testBit n then 1 else 0) + 2 * reverseBits v n
/-- R95. -/
def pcntBits (t : Ty) (a : Word) : Word := zeroExt t (countOnes (bitsOf t a) t.width)
/-- R95: W for a zero. -/
def clzBits (t : Ty) (a : Word) : Word := zeroExt t (countLeading (bitsOf t a) t.width)
/-- R95: W for a zero. -/
def ctzBits (t : Ty) (a : Word) : Word := zeroExt t (countTrailing (bitsOf t a) 0 t.width)
/-- R95. -/
def brevBits (t : Ty) (a : Word) : Word := zeroExt t (reverseBits (bitsOf t a) t.width)

/-- R96: the field that bfx and bfi name: its position and its width. -/
def fieldSpec (t : Ty) (b : Word) : Nat × Nat :=
  let wid := (b.toNat >>> 8) % 128
  (b.toNat % 64, if wid < t.width then wid else t.width)

/-- R96: extract a bit field, sign-extended for a signed type; an s32 result keeps bits 31..0 and is sign-extended by R29. -/
def bfxBits (t : Ty) (a b : Word) : Word :=
  let (pos, wid) := fieldSpec t b
  let f := if pos ≥ t.width then 0 else (bitsOf t a >>> pos) % 2 ^ wid
  if wid = 0 then 0
  else if t.signed then placeInt t (if f ≥ 2 ^ (wid - 1) then (f : Int) - (2 ^ wid : Nat) else f)
  else zeroExt t f

/-- R96: insert a bit field into c. -/
def bfiBits (t : Ty) (a b c : Word) : Word :=
  let (pos, wid) := fieldSpec t b
  let m := ((2 ^ wid - 1) <<< pos) % 2 ^ t.width
  zeroExt t ((bitsOf t c &&& (2 ^ t.width - 1 - m)) ||| ((bitsOf t a <<< pos) &&& m))

/-- R97. -/
def leaValue (a b : Word) (s : Nat) : Word := a + (b <<< s)

/-- R98, R103: the conditions of compares. -/
inductive Cond where
  | eq | ne | lt | le | un
deriving DecidableEq, Repr

/-- R98: an integer or raw compare. -/
def cmpInt (c : Cond) (t : Ty) (a b : Word) : Bool :=
  match c with
  | .eq => bitsOf t a == bitsOf t b
  | .ne => bitsOf t a != bitsOf t b
  | .lt => decide (intOf t a < intOf t b)
  | .le => decide (intOf t a ≤ intOf t b)
  | .un => false

/-- R103: a floating compare and its flag: lt and le signal on any NaN, the others on a signalling one. `ne` is the complement of eq. -/
def cmpFloat (c : Cond) (t : Ty) (a b : Word) : Bool × FlagSet :=
  let x := exact t a
  let y := exact t b
  let nan := x.isNan || y.isNan
  let sig := x.isSignalling || y.isSignalling
  match c with
  | .eq => (!nan && cmpX x y == .eq, flagIf sig Flag.invalid)
  | .ne => (nan || cmpX x y != .eq, flagIf sig Flag.invalid)
  | .un => (nan, flagIf sig Flag.invalid)
  | .lt => (!nan && cmpX x y == .lt, flagIf nan Flag.invalid)
  | .le => (!nan && cmpX x y != .gt, flagIf nan Flag.invalid)

/-- R98, R103, R130: a compare of any type. -/
def cmpAny (c : Cond) (t : Ty) (a b : Word) : Bool × FlagSet :=
  if t.isFloat then cmpFloat c t a b else (cmpInt c t a b, 0#6)

end Sys2Proof
end

