-- ==== Sys2Proof/Machine/Vector.lean ====
section
/-! DEFINITION. The run-length vector registers: runs and boundaries (R111-R115), the segment rule (R116), and the element-wise instructions
(R128-R141). -/

namespace Sys2Proof.Machine

/-- R111: the logical length. -/
def runsLen (r : Runs) : Nat := (r.map (·.count)).sum

/-- R111: element i. -/
def runsElem (r : Runs) (i : Nat) : Word :=
  match r with
  | [] => 0
  | x :: xs => if i < x.count then x.value else runsElem xs (i - x.count)

/-- Where the runs start, from position `at_` on. -/
def runStarts (r : Runs) (at_ : Nat) : List Nat :=
  match r with
  | [] => []
  | x :: xs => at_ :: runStarts xs (at_ + x.count)

/-- R112, BND: the boundaries. -/
def runsBounds (r : Runs) : List Nat := (runStarts r 0).drop 1

/-- R115: is element i true? -/
def runsTrue (r : Runs) (i : Nat) : Bool := (runsElem r i).getLsbD 0

/-- R116, R133: merge neighbours of bit-identical value. -/
def coalesce (r : Runs) : Runs :=
  match r with
  | [] => []
  | x :: xs =>
    match coalesce xs with
    | [] => [x]
    | y :: ys => if x.value = y.value then ⟨x.value, x.count + y.count⟩ :: ys else x :: y :: ys

/-- The points of a set of boundaries that start a segment of a register of length `l`. -/
def segmentStarts (l : Nat) (cuts : List Nat) : List Nat := (List.range l).filter fun i => i = 0 || cuts.contains i

/-- Segments from their starts: each start with its count. -/
def segmentsFrom (l : Nat) (starts : List Nat) : List (Nat × Nat) :=
  match starts with
  | [] => []
  | a :: rest => (a, rest.headD l - a) :: segmentsFrom l rest

/-- R116: the segments of a set of boundaries. -/
def segments (l : Nat) (cuts : List Nat) : List (Nat × Nat) := segmentsFrom l (segmentStarts l cuts)

/-- R116: VAPPLY, up to the write: `mask` is none for m0; `f` is applied once to each active segment, at its first position. -/
def vapply (l : Nat) (srcs : List Runs) (mask : Option Runs) (old : Runs) (c : Bool) (extra : List Nat) (f : Nat → Flagged Word) :
    Except FaultCode (Flagged Runs) :=
  if srcs.any (fun x => runsLen x != l) then .error .length
  else
    match mask with
    | none =>
      let out := flaggedMap (fun seg => ((⟨(f seg.1).1, seg.2⟩ : Run), (f seg.1).2)) (segments l (srcs.flatMap runsBounds ++ extra))
      .ok (if c then coalesce out.1 else out.1, out.2)
    | some mk =>
      if runsLen mk != l || runsLen old != l then .error .length
      else
        let out := flaggedMap
          (fun seg => if runsTrue mk seg.1 then ((⟨(f seg.1).1, seg.2⟩ : Run), (f seg.1).2) else (⟨runsElem old seg.1, seg.2⟩, 0#6))
          (segments l (srcs.flatMap runsBounds ++ extra ++ runsBounds mk ++ runsBounds old))
        .ok (if c then coalesce out.1 else out.1, out.2)

/-- A vector or mask register as a destination. -/
inductive VDest where
  | v (i : VReg)
  | m (i : MReg)
deriving DecidableEq, Repr

/-- R114: a mask operand: none for m0. -/
def Fibre.mask (x : Fibre) (m : MReg) : Option Runs := if m = 0 then none else some x.masks[m]

/-- The runs of a destination as they stand; m0 has the length that is needed, all true (R114). -/
def Fibre.oldRuns (x : Fibre) (d : VDest) (l : Nat) : Runs :=
  match d with
  | .v i => x.vregs[i]
  | .m i => if i = 0 then (if l = 0 then [] else [⟨1, l⟩]) else x.masks[i]

/-- R113: run slots in use; m0 is not stored. -/
def Fibre.runsUsed (x : Fibre) : Nat :=
  (x.vregs.toList.map List.length).sum + (x.masks.toList.drop 1 |>.map List.length).sum

/-- R111: the occupancy of a destination. -/
def Fibre.occupancy (x : Fibre) (d : VDest) : Nat :=
  match d with
  | .v i => x.vregs[i].length
  | .m i => if i = 0 then 0 else x.masks[i].length

/-- Replace a vector or mask register; m0 is not stored (R114). -/
def Fibre.setRuns (x : Fibre) (d : VDest) (r : Runs) : Fibre :=
  match d with
  | .v i => { x with vregs := x.vregs.set i.val r }
  | .m i => if i = 0 then x else { x with masks := x.masks.set i.val r }

/-- R114: m0 as a destination. (DEDUCED, assumption 54) -/
def VDest.isM0 : VDest → Bool
  | .v _ => false
  | .m i => i == 0

/-- R113, R116, R117: write a register when the quota allows. -/
def Fibre.writeRuns (x : Fibre) (d : VDest) (r : Flagged Runs) : Except FaultCode Fibre :=
  if d.isM0 then .ok x
  else if r.1.length > x.quota - (x.runsUsed - x.occupancy d) then .error .runOverflow
  else .ok ((x.setRuns d r.1).orFlags r.2)

/-- R116: VAPPLY into a register. -/
def Fibre.vapplyTo (x : Fibre) (d : VDest) (l : Nat) (srcs : List Runs) (mk : MReg) (c : Bool) (extra : List Nat) (f : Nat → Flagged Word) :
    Except FaultCode Fibre :=
  match vapply l srcs (x.mask mk) (x.oldRuns d l) c extra f with
  | .error e => .error e
  | .ok r => x.writeRuns d r

/-- R142: WRITEV. -/
def Fibre.writev (x : Fibre) (d : VDest) (res : Runs) (mk : MReg) (c : Bool) : Except FaultCode Fibre :=
  x.vapplyTo d (runsLen res) [res] mk c [] fun i => (runsElem res i, 0#6)

/-- An instruction that changes only its own fibre, or raises a fault (R118). -/
def State.tryOwn (s : State) (k : (Src → Word) → Fibre → Except FaultCode Fibre) : Host.Outcome State Fault Refusal :=
  s.issueWith fun f x =>
    match k (x.read (s.bankOf x)) x with
    | .error e => .trap e 0 0
    | .ok y => .done (s.setFibre f y)

/-- R128, R129: an element-wise instruction of one source. -/
def State.vector1 (s : State) (vd va : VReg) (mk : MReg) (c : Bool) (f : Fibre → Word → Flagged Word) : Host.Outcome State Fault Refusal :=
  s.tryOwn fun _ x => x.vapplyTo (.v vd) (runsLen x.vregs[va]) [x.vregs[va]] mk c [] fun i => f x (runsElem x.vregs[va] i)

/-- R128, R129: an element-wise instruction of two sources. -/
def State.vector2 (s : State) (vd va vb : VReg) (mk : MReg) (c : Bool) (f : Fibre → Word → Word → Flagged Word) : Host.Outcome State Fault Refusal :=
  s.tryOwn fun _ x =>
    x.vapplyTo (.v vd) (runsLen x.vregs[va]) [x.vregs[va], x.vregs[vb]] mk c [] fun i => f x (runsElem x.vregs[va] i) (runsElem x.vregs[vb] i)

/-- R128, R129: an element-wise instruction of a vector and a uniform scalar. -/
def State.vectorS (s : State) (vd va : VReg) (src : Src) (mk : MReg) (f : Fibre → Word → Word → Flagged Word) : Host.Outcome State Fault Refusal :=
  s.tryOwn fun r x => x.vapplyTo (.v vd) (runsLen x.vregs[va]) [x.vregs[va]] mk false [] fun i => f x (runsElem x.vregs[va] i) (r src)

/-- R128. -/
def vaddElem (t : Ty) (x : Fibre) (a b : Word) : Flagged Word := if t.isFloat then faddBits t x.mode a b else addInt t x.hints.sat a b
/-- R128. -/
def vsubElem (t : Ty) (x : Fibre) (a b : Word) : Flagged Word := if t.isFloat then fsubBits t x.mode a b else subInt t x.hints.sat a b
/-- R128. -/
def vmulElem (t : Ty) (x : Fibre) (a b : Word) : Flagged Word := if t.isFloat then fmulBits t x.mode a b else mulInt t x.hints.sat a b
/-- R128. -/
def vdivElem (t : Ty) (x : Fibre) (a b : Word) : Flagged Word := if t.isFloat then fdivBits t x.mode a b else divInt t a b
/-- R128. -/
def vminElem (t : Ty) (_ : Fibre) (a b : Word) : Flagged Word := if t.isFloat then fminBits t a b else (minInt t a b, 0#6)
/-- R128. -/
def vmaxElem (t : Ty) (_ : Fibre) (a b : Word) : Flagged Word := if t.isFloat then fmaxBits t a b else (maxInt t a b, 0#6)
/-- R128. -/
def vabsElem (t : Ty) (x : Fibre) (a : Word) : Flagged Word := if t.isFloat then fsignBits t XVal.absolute a else absInt t x.hints.sat a
/-- R128. -/
def vnegElem (t : Ty) (x : Fibre) (a : Word) : Flagged Word := if t.isFloat then fsignBits t XVal.negated a else negInt t x.hints.sat a
/-- R129. -/
def rawElem (op : Ty → Word → Word → Word) (t : Ty) (_ : Fibre) (a b : Word) : Flagged Word := (op t a b, 0#6)

/-- R128. -/
def execVadd (vd va vb : VReg) (mk : MReg) (t : Ty) (c : Bool) (s : State) := s.vector2 vd va vb mk c (vaddElem t)
/-- R128. -/
def execVsub (vd va vb : VReg) (mk : MReg) (t : Ty) (c : Bool) (s : State) := s.vector2 vd va vb mk c (vsubElem t)
/-- R128. -/
def execVmul (vd va vb : VReg) (mk : MReg) (t : Ty) (c : Bool) (s : State) := s.vector2 vd va vb mk c (vmulElem t)
/-- R128. -/
def execVdiv (vd va vb : VReg) (mk : MReg) (t : Ty) (c : Bool) (s : State) := s.vector2 vd va vb mk c (vdivElem t)
/-- R128. -/
def execVmin (vd va vb : VReg) (mk : MReg) (t : Ty) (c : Bool) (s : State) := s.vector2 vd va vb mk c (vminElem t)
/-- R128. -/
def execVmax (vd va vb : VReg) (mk : MReg) (t : Ty) (c : Bool) (s : State) := s.vector2 vd va vb mk c (vmaxElem t)
/-- R128. -/
def execVabs (vd va : VReg) (mk : MReg) (t : Ty) (c : Bool) (s : State) := s.vector1 vd va mk c (vabsElem t)
/-- R128. -/
def execVneg (vd va : VReg) (mk : MReg) (t : Ty) (c : Bool) (s : State) := s.vector1 vd va mk c (vnegElem t)

/-- R128: the third source is the old destination, whose boundaries join. -/
def execVfma (vd va vb : VReg) (mk : MReg) (t : Ty) (c : Bool) (s : State) : Host.Outcome State Fault Refusal :=
  s.tryOwn fun _ x =>
    x.vapplyTo (.v vd) (runsLen x.vregs[va]) [x.vregs[va], x.vregs[vb], x.vregs[vd]] mk c []
      fun i => ffmaBits t x.mode (runsElem x.vregs[va] i) (runsElem x.vregs[vb] i) (runsElem x.vregs[vd] i)

/-- R129. -/
def execVand (vd va vb : VReg) (mk : MReg) (t : Ty) (c : Bool) (s : State) := s.vector2 vd va vb mk c (rawElem andBits t)
/-- R129. -/
def execVor (vd va vb : VReg) (mk : MReg) (t : Ty) (c : Bool) (s : State) := s.vector2 vd va vb mk c (rawElem orBits t)
/-- R129. -/
def execVxor (vd va vb : VReg) (mk : MReg) (t : Ty) (c : Bool) (s : State) := s.vector2 vd va vb mk c (rawElem xorBits t)
/-- R129. -/
def execVshl (vd va vb : VReg) (mk : MReg) (t : Ty) (c : Bool) (s : State) := s.vector2 vd va vb mk c (rawElem shlBits t)
/-- R129. -/
def execVshr (vd va vb : VReg) (mk : MReg) (t : Ty) (c : Bool) (s : State) := s.vector2 vd va vb mk c (rawElem shrBits t)
/-- R129. -/
def execVsra (vd va vb : VReg) (mk : MReg) (t : Ty) (c : Bool) (s : State) := s.vector2 vd va vb mk c (rawElem sraBits t)

/-- R115: a truth as it is written to a mask register. -/
def truth (b : Bool) : Word := if b then 1 else 0

/-- R130: a compare into a mask register. -/
def State.vcmp (s : State) (cond : Cond) (md : MReg) (va vb : VReg) (mk : MReg) (t : Ty) (c : Bool) : Host.Outcome State Fault Refusal :=
  s.tryOwn fun _ x =>
    x.vapplyTo (.m md) (runsLen x.vregs[va]) [x.vregs[va], x.vregs[vb]] mk c [] fun i =>
      let r := cmpAny cond t (runsElem x.vregs[va] i) (runsElem x.vregs[vb] i)
      (truth r.1, r.2)

/-- R130. -/
def execVcmpEq (md : MReg) (va vb : VReg) (mk : MReg) (t : Ty) (c : Bool) (s : State) := s.vcmp .eq md va vb mk t c
/-- R130. -/
def execVcmpNe (md : MReg) (va vb : VReg) (mk : MReg) (t : Ty) (c : Bool) (s : State) := s.vcmp .ne md va vb mk t c
/-- R130. -/
def execVcmpLt (md : MReg) (va vb : VReg) (mk : MReg) (t : Ty) (c : Bool) (s : State) := s.vcmp .lt md va vb mk t c
/-- R130. -/
def execVcmpLe (md : MReg) (va vb : VReg) (mk : MReg) (t : Ty) (c : Bool) (s : State) := s.vcmp .le md va vb mk t c
/-- R130. -/
def execVcmpUn (md : MReg) (va vb : VReg) (mk : MReg) (t : Ty) (c : Bool) (s : State) := s.vcmp .un md va vb mk t c

/-- R131: the mask field selects; m0 selects va everywhere. -/
def execVsel (vd va vb : VReg) (ms : MReg) (c : Bool) (s : State) : Host.Outcome State Fault Refusal :=
  s.tryOwn fun _ x =>
    x.vapplyTo (.v vd) (runsLen x.vregs[va]) ([x.vregs[va], x.vregs[vb]] ++ (x.mask ms).toList) 0 c [] fun i =>
      (if ms = 0 || runsTrue x.masks[ms] i then runsElem x.vregs[va] i else runsElem x.vregs[vb] i, 0#6)

/-- R132. -/
def execVmov (vd va : VReg) (mk : MReg) (c : Bool) (s : State) := s.vector1 vd va mk c fun _ v => (v, 0#6)

/-- R133. -/
def execVcoal (vd va : VReg) (s : State) : Host.Outcome State Fault Refusal :=
  s.tryOwn fun _ x => x.writeRuns (.v vd) (coalesce x.vregs[va], 0#6)

/-- R45, R134: the draw of an element. -/
def drawOf (r : Runs) (i : Nat) : Nat := (runsElem r i).toNat % 2 ^ 32

/-- R134. -/
def execVcvt (vd va vb : VReg) (mk : MReg) (sr : Bool) (dt t : Ty) (c : Bool) (s : State) : Host.Outcome State Fault Refusal :=
  s.tryOwn fun _ x =>
    if sr then
      x.vapplyTo (.v vd) (runsLen x.vregs[va]) [x.vregs[va], x.vregs[vb]] mk c [] fun i =>
        let r := sround dt.fmt (exact t (runsElem x.vregs[va] i)) (drawOf x.vregs[vb] i)
        (BitVec.ofNat 64 r.1, r.2)
    else
      x.vapplyTo (.v vd) (runsLen x.vregs[va]) [x.vregs[va]] mk c [] fun i => convert t dt x.mode false (runsElem x.vregs[va] i)

/-- R135: the eight exact values of span g, padded with +0. -/
def spanValues (t : Ty) (r : Runs) (g : Nat) : List XVal :=
  (List.range 8).map fun j => if 8 * g + j < runsLen r then exact t (runsElem r (8 * g + j)) else .fin false ⟨0, 0, false⟩

/-- R135: element i quantised with its span: the flags of the span as a whole and of the element. -/
def quantElem (fmt : SxFmt) (t : Ty) (mode : QMode) (r draws : Runs) (i : Nat) : Flagged Word :=
  let xs := spanValues t r (i / 8)
  let q := qspan fmt 0 mode xs ((List.range 8).map fun j => drawOf draws (8 * (i / 8) + j))
  let codes := q.1.2
  let v := sxValue fmt q.1.1 0 (codes.all (· == (true, 0))) (codes.getD (i % 8) (false, 0))
  let special := xs.any (fun y => y.isNan || y == .inf true || y == .inf false)
  let own := if special then q.2 else (qspanOne fmt 0 mode xs (xs.getD (i % 8) (.fin false ⟨0, 0, false⟩)) (drawOf draws i)).2
  ((roundTo t .rn v.1).1, own)

/-- R135. -/
def execVcvtSx (vd va vb : VReg) (mk : MReg) (sr : Bool) (fmt : SxFmt) (t : Ty) (c : Bool) (s : State) : Host.Outcome State Fault Refusal :=
  s.tryOwn fun _ x =>
    let src := x.vregs[va]
    let spans := (List.range 8).map (8 * ·)
    if sr then
      x.vapplyTo (.v vd) (runsLen src) [src, x.vregs[vb]] mk c spans (quantElem fmt t .sr src x.vregs[vb])
    else x.vapplyTo (.v vd) (runsLen src) [src] mk c spans (quantElem fmt t (.rnd x.mode) src [])

/-- R136. -/
def State.vsfn (s : State) (g : Sfn) (vd va : VReg) (mk : MReg) (t : Ty) : Host.Outcome State Fault Refusal :=
  s.vector1 vd va mk false fun x v => sfnBits g t x.mode v

/-- R136. -/
def execVsfnRcp (vd va : VReg) (mk : MReg) (t : Ty) (s : State) := s.vsfn .rcp vd va mk t
/-- R136. -/
def execVsfnRsq (vd va : VReg) (mk : MReg) (t : Ty) (s : State) := s.vsfn .rsq vd va mk t
/-- R136. -/
def execVsfnSqrt (vd va : VReg) (mk : MReg) (t : Ty) (s : State) := s.vsfn .sqrt vd va mk t
/-- R136. -/
def execVsfnExp2 (vd va : VReg) (mk : MReg) (t : Ty) (s : State) := s.vsfn .exp2 vd va mk t
/-- R136. -/
def execVsfnLog2 (vd va : VReg) (mk : MReg) (t : Ty) (s : State) := s.vsfn .log2 vd va mk t
/-- R136. -/
def execVsfnSin (vd va : VReg) (mk : MReg) (t : Ty) (s : State) := s.vsfn .sin vd va mk t
/-- R136. -/
def execVsfnCos (vd va : VReg) (mk : MReg) (t : Ty) (s : State) := s.vsfn .cos vd va mk t
/-- R136. -/
def execVsfnTanh (vd va : VReg) (mk : MReg) (t : Ty) (s : State) := s.vsfn .tanh vd va mk t

/-- R114, R137: the truth of an element of a mask operand. -/
def Fibre.maskTrue (x : Fibre) (m : MReg) (i : Nat) : Bool := m = 0 || runsTrue x.masks[m] i

/-- R137: a mask operation; an operand m0 has the length of the other. -/
def State.maskOp (s : State) (md ma mb mk : MReg) (c : Bool) (f : Bool → Bool → Bool) : Host.Outcome State Fault Refusal :=
  s.tryOwn fun _ x =>
    let srcs := (x.mask ma).toList ++ (x.mask mb).toList
    x.vapplyTo (.m md) (runsLen (srcs.headD [])) srcs mk c [] fun i => (truth (f (x.maskTrue ma i) (x.maskTrue mb i)), 0#6)

/-- R137. -/
def execMand (md ma mb mk : MReg) (c : Bool) (s : State) := s.maskOp md ma mb mk c fun a b => a && b
/-- R137. -/
def execMor (md ma mb mk : MReg) (c : Bool) (s : State) := s.maskOp md ma mb mk c fun a b => a || b
/-- R137. -/
def execMxor (md ma mb mk : MReg) (c : Bool) (s : State) := s.maskOp md ma mb mk c fun a b => a != b
/-- R137. -/
def execMnot (md ma mk : MReg) (c : Bool) (s : State) := s.maskOp md ma ma mk c fun a _ => !a

/-- R128. -/
def execVaddS (vd va : VReg) (b : Src) (mk : MReg) (t : Ty) (s : State) := s.vectorS vd va b mk (vaddElem t)
/-- R128. -/
def execVsubS (vd va : VReg) (b : Src) (mk : MReg) (t : Ty) (s : State) := s.vectorS vd va b mk (vsubElem t)
/-- R128. -/
def execVmulS (vd va : VReg) (b : Src) (mk : MReg) (t : Ty) (s : State) := s.vectorS vd va b mk (vmulElem t)
/-- R128. -/
def execVdivS (vd va : VReg) (b : Src) (mk : MReg) (t : Ty) (s : State) := s.vectorS vd va b mk (vdivElem t)
/-- R128. -/
def execVminS (vd va : VReg) (b : Src) (mk : MReg) (t : Ty) (s : State) := s.vectorS vd va b mk (vminElem t)
/-- R128. -/
def execVmaxS (vd va : VReg) (b : Src) (mk : MReg) (t : Ty) (s : State) := s.vectorS vd va b mk (vmaxElem t)

/-- R128: the sources are va and the old vd. -/
def execVfmaS (vd va : VReg) (b : Src) (mk : MReg) (t : Ty) (s : State) : Host.Outcome State Fault Refusal :=
  s.tryOwn fun r x =>
    x.vapplyTo (.v vd) (runsLen x.vregs[va]) [x.vregs[va], x.vregs[vd]] mk false []
      fun i => ffmaBits t x.mode (runsElem x.vregs[va] i) (r b) (runsElem x.vregs[vd] i)

/-- R129. -/
def execVandS (vd va : VReg) (b : Src) (mk : MReg) (t : Ty) (s : State) := s.vectorS vd va b mk (rawElem andBits t)
/-- R129. -/
def execVorS (vd va : VReg) (b : Src) (mk : MReg) (t : Ty) (s : State) := s.vectorS vd va b mk (rawElem orBits t)
/-- R129. -/
def execVxorS (vd va : VReg) (b : Src) (mk : MReg) (t : Ty) (s : State) := s.vectorS vd va b mk (rawElem xorBits t)
/-- R129. -/
def execVshlS (vd va : VReg) (b : Src) (mk : MReg) (t : Ty) (s : State) := s.vectorS vd va b mk (rawElem shlBits t)
/-- R129. -/
def execVshrS (vd va : VReg) (b : Src) (mk : MReg) (t : Ty) (s : State) := s.vectorS vd va b mk (rawElem shrBits t)
/-- R129. -/
def execVsraS (vd va : VReg) (b : Src) (mk : MReg) (t : Ty) (s : State) := s.vectorS vd va b mk (rawElem sraBits t)

/-- R138: a scalar read from a vector or mask register. -/
def State.vscalar (s : State) (d : Dst) (k : Fibre → Nat) : Host.Outcome State Fault Refusal :=
  s.own fun _ x => x.write d (BitVec.ofNat 64 (k x))

/-- R138. -/
def execVlen (va : VReg) (d : Dst) (s : State) := s.vscalar d fun x => runsLen x.vregs[va]
/-- R138. -/
def execVruns (va : VReg) (d : Dst) (s : State) := s.vscalar d fun x => x.vregs[va].length

/-- R138: the true elements of a mask. -/
def trueCount (r : Runs) : Nat := ((r.filter fun x => x.value.getLsbD 0).map (·.count)).sum

/-- R138: the first true element, or the length. -/
def firstTrue (r : Runs) : Nat :=
  match r with
  | [] => 0
  | x :: xs => if x.value.getLsbD 0 && x.count != 0 then 0 else x.count + firstTrue xs

/-- R138. -/
def execMpop (ma : MReg) (d : Dst) (s : State) := s.vscalar d fun x => trueCount x.masks[ma]
/-- R138. -/
def execMfirst (ma : MReg) (d : Dst) (s : State) := s.vscalar d fun x => firstTrue x.masks[ma]

/-- R139: a register of `n` runs, one an index. -/
def indexRuns (t : Ty) (n : Nat) : Runs := (List.range n).map fun i => ⟨place t i, 1⟩

/-- R139. -/
def execVidx (vd : VReg) (src : Src) (mk : MReg) (t : Ty) (s : State) : Host.Outcome State Fault Refusal :=
  s.tryOwn fun r x => if (r src).toNat > 64 then .error .length else x.writev (.v vd) (indexRuns t (r src).toNat) mk false

/-- One run, or none for a length of 0. -/
def oneRun (v : Word) (n : Nat) : Runs := if n = 0 then [] else [⟨v, n⟩]

/-- R140. -/
def execVsplat (vd va : VReg) (src : Src) (mk : MReg) (t : Ty) (s : State) : Host.Outcome State Fault Refusal :=
  s.tryOwn fun r x => x.writev (.v vd) (oneRun (place t (bitsOf t (r src))) (runsLen x.vregs[va])) mk false

/-- R141: the first l elements. -/
def takeRuns (r : Runs) (l : Nat) : Runs :=
  match r with
  | [] => []
  | x :: xs => if l = 0 then [] else if l ≤ x.count then [⟨x.value, l⟩] else x :: takeRuns xs (l - x.count)

/-- R151: what is left after the first l elements. -/
def dropRuns (r : Runs) (l : Nat) : Runs :=
  match r with
  | [] => []
  | x :: xs => if l < x.count then ⟨x.value, x.count - l⟩ :: xs else dropRuns xs (l - x.count)

/-- R141. -/
def setLen (r : Runs) (l : Nat) : Runs := if l ≤ runsLen r then takeRuns r l else r ++ [⟨0, l - runsLen r⟩]

/-- R141. -/
def execVsetl (vd : VReg) (src : Src) (s : State) : Host.Outcome State Fault Refusal :=
  s.tryOwn fun r x =>
    if (r src).toNat > 64 then .error .length else x.writeRuns (.v vd) (setLen x.vregs[vd] (r src).toNat, 0#6)

end Sys2Proof.Machine
end

