-- ==== Sys2Proof/Machine/Rearrange.lean ====
section
/-! DEFINITION. Rearranging, reducing and sorting one fibre's registers (R142-R159). -/

namespace Sys2Proof.Machine

/-- R142: WRITEV with m0, and flags of computed elements. -/
def Fibre.writeComputed (x : Fibre) (vd : VReg) (res : Flagged Runs) (c : Bool) : Except FaultCode Fibre :=
  x.writeRuns (.v vd) (if c then coalesce res.1 else res.1, res.2)

/-- R147: the elements of k sources, element by element. -/
def interleave (srcs : List Runs) (l : Nat) : Runs := (List.range l).flatMap fun j => srcs.map fun r => ⟨runsElem r j, 1⟩

/-- The runs of k registers from one on. -/
def Fibre.vblock (x : Fibre) (v : VReg) (k : Nat) : List Runs := (List.range k).map fun i => x.vregs.toList.getD (v.val + i) []

/-- R147. -/
def State.vilv (s : State) (k : Nat) (vd va : VReg) (c : Bool) : Host.Outcome State Fault Refusal :=
  s.tryOwn fun _ x =>
    let srcs := x.vblock va k
    let l := runsLen x.vregs[va]
    if srcs.any (fun r => runsLen r != l) || k * l > 64 then .error .length else x.writev (.v vd) (interleave srcs l) 0 c

/-- R147. -/
def execVilv2 (vd va : VReg) (c : Bool) (s : State) := s.vilv 2 vd va c
/-- R147. -/
def execVilv3 (vd va : VReg) (c : Bool) (s : State) := s.vilv 3 vd va c
/-- R147. -/
def execVilv4 (vd va : VReg) (c : Bool) (s : State) := s.vilv 4 vd va c

/-- R148: the elements of a register at positions t, t + k, t + 2k and so on. -/
def deinterleave (r : Runs) (k t : Nat) : Runs := (List.range (runsLen r / k)).map fun j => ⟨runsElem r (j * k + t), 1⟩

/-- Write a list of runs to registers from one on. -/
def Fibre.setBlock (x : Fibre) (vd : Nat) : List Runs → Fibre
  | [] => x
  | r :: rs => Fibre.setBlock { x with vregs := x.vregs.setIfInBounds vd r } (vd + 1) rs

/-- R148: all destinations are written or none is. -/
def Fibre.writeBlock (x : Fibre) (vd : VReg) (rs : List Runs) : Except FaultCode Fibre :=
  if (rs.map List.length).sum > x.quota - (x.runsUsed - ((x.vblock vd rs.length).map List.length).sum) then .error .runOverflow
  else .ok (x.setBlock vd.val rs)

/-- R148. -/
def State.vdilv (s : State) (k : Nat) (vd va : VReg) (c : Bool) : Host.Outcome State Fault Refusal :=
  s.tryOwn fun _ x =>
    let r := x.vregs[va]
    if runsLen r % k != 0 then .error .length
    else x.writeBlock vd ((List.range k).map fun t => if c then coalesce (deinterleave r k t) else deinterleave r k t)

/-- R148. -/
def execVdilv2 (vd va : VReg) (c : Bool) (s : State) := s.vdilv 2 vd va c
/-- R148. -/
def execVdilv3 (vd va : VReg) (c : Bool) (s : State) := s.vdilv 3 vd va c
/-- R148. -/
def execVdilv4 (vd va : VReg) (c : Bool) (s : State) := s.vdilv 4 vd va c

/-- R149: an index out of range gives 0. -/
def permuteRuns (r idx : Runs) : Runs :=
  idx.map fun e => ⟨if e.value.toNat % 2 ^ 32 < runsLen r then runsElem r (e.value.toNat % 2 ^ 32) else 0, e.count⟩

/-- R149. -/
def execVperm (vd va vb : VReg) (mk : MReg) (c : Bool) (s : State) : Host.Outcome State Fault Refusal :=
  s.tryOwn fun _ x => x.writev (.v vd) (permuteRuns x.vregs[va] x.vregs[vb]) mk c

/-- R150. -/
def execVrev (vd va : VReg) (mk : MReg) (c : Bool) (s : State) : Host.Outcome State Fault Refusal :=
  s.tryOwn fun _ x => x.writev (.v vd) x.vregs[va].reverse mk c

/-- R151: z zeros as at most one run. -/
def zeroRun (z : Nat) : Runs := oneRun 0 z

/-- R151. -/
def slideUp (r : Runs) (d : Nat) : Runs :=
  let z := Nat.min d (runsLen r)
  zeroRun z ++ takeRuns r (runsLen r - z)

/-- R151. -/
def slideDown (r : Runs) (d : Nat) : Runs :=
  let z := Nat.min d (runsLen r)
  dropRuns r z ++ zeroRun z

/-- R151. -/
def execVslideUp (vd va : VReg) (src : Src) (mk : MReg) (s : State) : Host.Outcome State Fault Refusal :=
  s.tryOwn fun r x => x.writev (.v vd) (slideUp x.vregs[va] (r src).toNat) mk false
/-- R151. -/
def execVslideDown (vd va : VReg) (src : Src) (mk : MReg) (s : State) : Host.Outcome State Fault Refusal :=
  s.tryOwn fun r x => x.writev (.v vd) (slideDown x.vregs[va] (r src).toNat) mk false

/-- R152. -/
def execVext (va : VReg) (src : Src) (s : State) : Host.Outcome State Fault Refusal :=
  s.tryOwn fun r x =>
    if (r src).toNat ≥ runsLen x.vregs[va] then .error .length else .ok (x.push (runsElem x.vregs[va] (r src).toNat))

/-- R153: position p becomes a run of its own. -/
def insertElem (r : Runs) (p : Nat) (v : Word) : Runs := takeRuns r p ++ [⟨v, 1⟩] ++ dropRuns r (p + 1)

/-- R153. -/
def execVins (vd va : VReg) (src : Src) (s : State) : Host.Outcome State Fault Refusal :=
  s.tryOwn fun r x =>
    if runsLen x.vregs[va] = 0 || (r src).toNat ≥ runsLen x.vregs[vd] then .error .length
    else x.writev (.v vd) (insertElem x.vregs[vd] (r src).toNat (runsElem x.vregs[va] 0)) 0 false

/-! ### Reductions and scans -/

/-- R154: the operations of a reduction. -/
inductive RedOp where
  | add | min | max | and | or | xor
deriving DecidableEq, Repr

/-- The bits of an infinity of a type. -/
def infinityOf (t : Ty) (neg : Bool) : Word := BitVec.ofNat 64 (t.fmt.signBit neg + t.fmt.infBits)

/-- R155: what no element gives. -/
def redIdentity (op : RedOp) (t : Ty) : Word :=
  match op with
  | .add | .or | .xor => 0
  | .min => if t.isFloat then infinityOf t false else placeInt t t.maxInt
  | .max => if t.isFloat then infinityOf t true else placeInt t t.minInt
  | .and => zeroExt t (2 ^ t.width - 1)

/-- R154: r of the terms, values with counts, in ascending position. -/
def reduce (op : RedOp) (t : Ty) (mode : Rnd) (sat : Bool) (terms : List (Word × Nat)) : Flagged Word :=
  match op with
  | .add =>
    if terms.isEmpty then (0, 0#6)
    else if t = .f64 then sumOrdered t mode (terms.flatMap fun e => List.replicate e.2 e.1)
    else if t.isFloat then (sumX mode (terms.map fun e => (exact t e.1).timesCount e.2)).andThen (roundTo t mode)
    else intResult t sat (terms.map fun e => intOf t e.1 * e.2).sum
  | .min =>
    if t.isFloat then flaggedFold (fun acc e => fminBits t acc e.1) (redIdentity .min t) terms
    else (terms.foldl (fun acc e => minInt t acc e.1) (redIdentity .min t), 0#6)
  | .max =>
    if t.isFloat then flaggedFold (fun acc e => fmaxBits t acc e.1) (redIdentity .max t) terms
    else (terms.foldl (fun acc e => maxInt t acc e.1) (redIdentity .max t), 0#6)
  | .and => (terms.foldl (fun acc e => andBits t acc e.1) (redIdentity .and t), 0#6)
  | .or => (terms.foldl (fun acc e => orBits t acc e.1) 0, 0#6)
  | .xor => (terms.foldl (fun acc e => if e.2 % 2 = 1 then xorBits t acc e.1 else acc) 0, 0#6)

/-- R154: the segments of a register split by a mask: start, count, whether active. -/
def maskedSegments (r : Runs) (mask : Option Runs) : List (Nat × Nat × Bool) :=
  (segments (runsLen r) (runsBounds r ++ runsBounds (mask.getD []))).map fun g =>
    (g.1, g.2, match mask with
      | some m => runsTrue m g.1
      | none => true)

/-- R154, R156: the contributors at positions below `upto`. -/
def contributors (r : Runs) (segs : List (Nat × Nat × Bool)) (upto : Nat) : List (Word × Nat) :=
  (segs.filter fun g => g.2.2 && g.1 < upto).map fun g => (runsElem r g.1, Nat.min g.2.1 (upto - g.1))

/-- R154: is the mask as long as the register? -/
def maskFits (r : Runs) (mask : Option Runs) : Bool :=
  match mask with
  | some m => runsLen m == runsLen r
  | none => true

/-- R154. -/
def State.vred (s : State) (op : RedOp) (vd va : VReg) (mk : MReg) (t : Ty) : Host.Outcome State Fault Refusal :=
  s.tryOwn fun _ x =>
    let r := x.vregs[va]
    if !maskFits r (x.mask mk) then .error .length
    else
      let v := reduce op t x.mode x.hints.sat (contributors r (maskedSegments r (x.mask mk)) (runsLen r))
      x.writeComputed vd ([⟨v.1, 1⟩], v.2) false

/-- R154. -/
def execVredAdd (vd va : VReg) (mk : MReg) (t : Ty) (s : State) := s.vred .add vd va mk t
/-- R154. -/
def execVredMin (vd va : VReg) (mk : MReg) (t : Ty) (s : State) := s.vred .min vd va mk t
/-- R154. -/
def execVredMax (vd va : VReg) (mk : MReg) (t : Ty) (s : State) := s.vred .max vd va mk t
/-- R154. -/
def execVredAnd (vd va : VReg) (mk : MReg) (t : Ty) (s : State) := s.vred .and vd va mk t
/-- R154. -/
def execVredOr (vd va : VReg) (mk : MReg) (t : Ty) (s : State) := s.vred .or vd va mk t
/-- R154. -/
def execVredXor (vd va : VReg) (mk : MReg) (t : Ty) (s : State) := s.vred .xor vd va mk t

/-- R156: the runs of a scan: one an element for add and xor over active segments, else one a segment. -/
def scanRuns (op : RedOp) (t : Ty) (mode : Rnd) (sat : Bool) (r : Runs) (segs : List (Nat × Nat × Bool)) : Flagged Runs :=
  let single : Bool := op == .add || op == .xor
  let cells := segs.flatMap fun g => if g.2.2 && single then (List.range g.2.1).map fun i => (g.1 + i, 1) else [(g.1, g.2.1)]
  flaggedMap (fun e => let v := reduce op t mode sat (contributors r segs (e.1 + 1)); (⟨v.1, e.2⟩, v.2)) cells

/-- R156. -/
def State.vscan (s : State) (op : RedOp) (vd va : VReg) (mk : MReg) (t : Ty) (c : Bool) : Host.Outcome State Fault Refusal :=
  s.tryOwn fun _ x =>
    let r := x.vregs[va]
    if !maskFits r (x.mask mk) then .error .length
    else x.writeComputed vd (scanRuns op t x.mode x.hints.sat r (maskedSegments r (x.mask mk))) c

/-- R156. -/
def execVscanAdd (vd va : VReg) (mk : MReg) (t : Ty) (c : Bool) (s : State) := s.vscan .add vd va mk t c
/-- R156. -/
def execVscanMin (vd va : VReg) (mk : MReg) (t : Ty) (c : Bool) (s : State) := s.vscan .min vd va mk t c
/-- R156. -/
def execVscanMax (vd va : VReg) (mk : MReg) (t : Ty) (c : Bool) (s : State) := s.vscan .max vd va mk t c
/-- R156. -/
def execVscanAnd (vd va : VReg) (mk : MReg) (t : Ty) (c : Bool) (s : State) := s.vscan .and vd va mk t c
/-- R156. -/
def execVscanOr (vd va : VReg) (mk : MReg) (t : Ty) (c : Bool) (s : State) := s.vscan .or vd va mk t c
/-- R156. -/
def execVscanXor (vd va : VReg) (mk : MReg) (t : Ty) (c : Bool) (s : State) := s.vscan .xor vd va mk t c

/-! ### Sorting -/

/-- R157: a whole number that orders values as the total order of a type does. -/
def totalKey (t : Ty) (v : Word) : Int :=
  if t.isFloat then
    let n := bitsOf t v
    if (exact t v).isNan then 2 ^ t.width
    else if n ≥ 2 ^ (t.width - 1) then -((n - 2 ^ (t.width - 1) : Nat) : Int) - 1 else n
  else intOf t v

/-- R158. -/
def execVsort (vd va : VReg) (t : Ty) (c : Bool) (s : State) : Host.Outcome State Fault Refusal :=
  s.tryOwn fun _ x => x.writev (.v vd) (sortBy (fun a b => totalKey t a.value ≤ totalKey t b.value) x.vregs[va]) 0 c

/-- R159. -/
def execVtopk (vd va : VReg) (t : Ty) (c : Bool) (s : State) : Host.Outcome State Fault Refusal :=
  s.tryOwn fun _ x => x.writev (.v vd) (sortBy (fun a b => totalKey t a.value ≥ totalKey t b.value) x.vregs[va]) 0 c

/-- R159. -/
def execVtopkI (vd va : VReg) (t : Ty) (s : State) : Host.Outcome State Fault Refusal :=
  s.tryOwn fun _ x =>
    let r := x.vregs[va]
    let order := sortBy (fun i j => totalKey t (runsElem r i) ≥ totalKey t (runsElem r j)) (List.range (runsLen r))
    x.writev (.v vd) (order.map fun p => ⟨BitVec.ofNat 64 p, 1⟩) 0 false

end Sys2Proof.Machine
end

