-- ==== Sys2Proof/Machine/Memory.lean ====
section
/-! DEFINITION. Loads and stores (R188-R198), queue registers (R170-R175), and the fences of the sampler path (R187). -/

namespace Sys2Proof.Machine

/-- R79: a counter. -/
def Counters.get (c : Counters) : CountClass → Nat
  | .ld => c.ld | .st => c.st | .cp => c.cp | .mx => c.mx | .ry => c.ry

/-- Change a counter. -/
def Counters.upd (c : Counters) (k : CountClass) (f : Nat → Nat) : Counters :=
  match k with
  | .ld => { c with ld := f c.ld }
  | .st => { c with st := f c.st }
  | .cp => { c with cp := f c.cp }
  | .mx => { c with mx := f c.mx }
  | .ry => { c with ry := f c.ry }

/-- R79. -/
def CountClass.index : CountClass → Fin 5
  | .ld => 0 | .st => 1 | .cp => 2 | .mx => 3 | .ry => 4

/-- R79: one more operation of a class. -/
def Fibre.countUp (x : Fibre) (k : CountClass) : Fibre := { x with counts := x.counts.upd k (· + 1) }

/-- R79: one operation less. -/
def Fibre.countDown (x : Fibre) (k : CountClass) : Fibre := { x with counts := x.counts.upd k (· - 1) }

/-- R79, R264: an engine operation is issued. -/
def Fibre.countIssue (x : Fibre) (k : CountClass) : Fibre := { x.countUp k with issued := x.issued.upd k (· + 1) }

/-- R79: is the counter of a class at its limit? -/
def Fibre.full (x : Fibre) (k : CountClass) : Bool := x.counts.get k ≥ Config.counterLimit

/-- Is some access to a page with comp set? A data fault may then come with the data (R190). -/
def compressed (ls : List Loc) : Bool :=
  ls.any fun l =>
    match l with
    | .mem _ comp _ _ _ => comp != 0
    | .slice _ | .grant _ => false

/-- R457: does a location hold an uncorrectable error? (DEDUCED, assumption 32) -/
def State.hasError (s : State) (f : Nat) (x : Fibre) (n : Nat) (l : Loc) : Bool :=
  match l with
  | .slice off => match s.groupOf x with
    | some g => g.badBytes.any fun o => off ≤ o && o < off + n
    | none => false
  | .grant _ => false
  | .mem pa comp ordered policy _ =>
    match ordered, s.phaseImages f x with
    | true, some im => im.faulty pa n comp
    | _, _ => s.coreFaulty x.core pa n comp policy || s.specFaulty f x pa n

/-- R186, R457: the same for a read through the sampler path. -/
def State.samplerError (s : State) (f : Nat) (x : Fibre) (n : Nat) (l : Loc) : Bool :=
  match l with
  | .slice _ | .grant _ => false
  | .mem pa comp ordered _ _ =>
    match ordered, s.phaseImages f x with
    | true, some im => im.faulty pa n comp
    | _, _ => s.samplerFaulty x.core pa n comp || s.specFaulty f x pa n

/-- R218, R457: the same for an atomic, which works at the home. -/
def State.atomicError (s : State) (f : Nat) (x : Fibre) (n : Nat) (l : Loc) : Bool :=
  match l with
  | .mem pa comp _ _ _ => (s.flushLine x.core pa comp).home.faulty pa n comp
  | .slice _ | .grant _ => s.hasError f x n l

/-- R190: may an access raise a fault with its data, by whichever path it reads? -/
def State.mayFault (s : State) (f : Nat) (x : Fibre) (n : Nat) (ls : List Loc) : Bool :=
  compressed ls || ls.any fun l => (match l with | .mem pa _ _ _ _ => (remoteNode pa).isSome | .slice _ | .grant _ => false) || s.hasError f x n l || s.samplerError f x n l || s.atomicError f x n l

/-- R191: where a load of the issuing fibre writes: the element a store queue pushes to, the slot pushed, or the named register. -/
def Fibre.loadDest (x : Fibre) (d : Dst) (hold : Bool) : Fibre × PendDest :=
  match x.pushing with
  | (_, t, loc) :: _ => (x, .element t loc)
  | [] =>
    match d with
    | .push => if hold then (x, .pushAtReturn) else (x.push 0, .age 0)
    | .n j => (x, .named j.val)

/-- R191: an operation of the issuing unit is outstanding. What it pushes to store queues counts as issued, and is stored once its value has returned. -/
def Fibre.addPend (x : Fibre) (op : PendOp) (dest : PendDest) (hold : Bool) (k : CountClass) : Fibre :=
  let y := Fibre.countUp
    { x.countPushes with
      pend := x.pend ++ [{ op := op, dest := dest, unit := x.unit, hold := hold, pushes := x.pushing, pops := x.pops, rep := x.rep, pass := x.place }] } k
  { y with counts := { y.counts with st := y.counts.st + x.pushing.length } }

/-! ### Scalar forms -/

/-- R64, R69, R195: the address of a scalar or contiguous form. -/
def Fibre.offsetFrom {w : Nat} (x : Fibre) (base : Word) (off : BitVec w) : Word := base + x.signedImm off

/-- R410, R412: a load of a target program reads as `ldt` reads, at once: the call is one unit. A writable page is refused. -/
def State.targetLoad (s : State) (f : Nat) (x : Fibre) (d : Dst) (va : Word) (t : Ty) : Issue :=
  let n := t.width / 8
  match s.locate f x { slice := false, detach := false } va n n with
  | .error e => .trap e va 0
  | .ok (loc, s) =>
    match (s.translate (.core x.core) x.context va.toNat).1 with
    | none => .trap .translation va 0
    | some l =>
      if leafWritable l.2 then .trap .access va 0
      else if s.samplerError f x n loc then .trap .ecc va 0
      else
        match s.readSampler f x loc n with
        | (none, _) => .trap .decode va 0
        | (some bs, s) => .done (s.setFibre f (x.write d (place t (natOfBytes bs))))

/-- R195: ld and ldt. -/
def State.loadScalar (s : State) (a : Access) (sampler : Bool) (d : Dst) (base : Src) (t : Ty) (off : BitVec 8) : Host.Outcome State Fault Refusal :=
  s.issueWith fun f x =>
    let va := x.offsetFrom (x.read (s.bankOf x) base) off
    if x.target.isSome then s.targetLoad f x d va t
    else if x.full .ld then .stall (.counter CountClass.ld.index)
    else
      match s.locate f x a va (t.width / 8) (t.width / 8) with
      | .error e => .trap e va 0
      | .ok (loc, s) =>
        let hold := s.mayFault f x (t.width / 8) [loc]
        let y := x.loadDest d hold
        .done (s.setFibre f (y.1.addPend (.load loc t sampler) y.2 hold .ld))

/-- R195. -/
def execLd (d : Dst) (base : Src) (t : Ty) (off : BitVec 8) (s : State) := s.loadScalar { grant := true } false d base t off
/-- R186, R195. -/
def execLdt (d : Dst) (base : Src) (t : Ty) (off : BitVec 8) (s : State) := s.loadScalar { slice := false, detach := false } true d base t off

/-- R191, R269, R304: a store is issued, once every write has been located. One that cannot be buffered faults; one that is redirected and finds no room stalls
until resolution. -/
def State.issueStore (s : State) (f : Nat) (x : Fibre) (writes : List (Loc × List Byte)) (flags : FlagSet) : Issue :=
  if !s.bufferRoom x (s.buffering f x (.store writes flags)) then .trap .access (((writes.map (·.1)).find? (s.buffers f x)).elim 0 Loc.address) 0
  else if s.specRoom f x writes then .done (s.setFibre f (x.addPend (.store writes flags) .none false .st))
  else .stall .specRoom

/-- R195. -/
def execSt (a base : Src) (t : Ty) (off : BitVec 8) (s : State) : Host.Outcome State Fault Refusal :=
  s.issueWith fun f x =>
    if x.full .st then .stall (.counter CountClass.st.index)
    else
      let va := x.offsetFrom (x.read (s.bankOf x) base) off
      match s.locate f x { write := true } va (t.width / 8) (t.width / 8) with
      | .error e => .trap e va 0
      | .ok (loc, u) => u.issueStore f x [(loc, valueBytes t (x.read (s.bankOf x) a))] 0

/-- R195: a prefetch brings a line to L1 unless the policy bypasses it; nothing else. -/
def execPref (base : Src) (off : BitVec 8) (s : State) : Host.Outcome State Fault Refusal :=
  s.issueWith fun f x =>
    match s.locate f x { slice := false } (x.offsetFrom (x.read (s.bankOf x) base) off) 1 1 with
    | .ok (.mem pa comp ordered policy va, t) =>
      let r := t.coreRead x.core pa 1 comp policy
      .done (if policy = .nol1 || t.hasError f x 1 (.mem pa comp ordered policy va) || r.1.isNone then s else r.2)
    | .ok (.slice _, _) | .ok (.grant _, _) | .error _ => .done s

/-- R187: the sampler cache of a core holds no line. -/
def State.dropSampler (s : State) (c : Nat) : State := s.setCore c { s.core c with sampler := [] }

/-- R187. -/
def execPfence (s : State) : Host.Outcome State Fault Refusal := s.issueWith fun _ x => .done (s.dropSampler x.core)

/-- R186, R187: the cores of the issuing die. What the issuing core has dirty by then, a later fill of any of them finds. -/
def execPfenceDie (s : State) : Host.Outcome State Fault Refusal :=
  s.issueWith fun _ x =>
    let t := (s.cores.keys fun c _ => dieOf c == dieOf x.core).foldl State.dropSampler s
    .done (t.setCore x.core { t.core x.core with fenced := true, sampler := [] })

/-! ### Vector forms -/

/-- R196: the active positions below a length. -/
def Fibre.activePositions (x : Fibre) (mk : MReg) (l : Nat) : List Nat := (List.range l).filter (x.maskTrue mk)

/-- R196: contiguous element addresses. -/
def elementAddr (base : Word) (t : Ty) (i : Nat) : Word := base + BitVec.ofNat 64 (i * (t.width / 8))

/-- R62, R196: indexed element addresses. -/
def indexedAddr (base : Word) (idx : Runs) (sh : Nat) (i : Nat) : Word := base + (runsElem idx i <<< sh)

/-- R196: vld and vldg, of length l and with the element addresses given. -/
def State.loadVector (s : State) (vd : VReg) (mk : MReg) (t : Ty) (len : Fibre → Nat) (addr : (Src → Word) → Fibre → Nat → Word) :
    Host.Outcome State Fault Refusal :=
  s.issueWith fun f x =>
    let l := len x
    let act := x.activePositions mk l
    if x.full .ld then .stall (.counter CountClass.ld.index)
    else if mk != 0 && (runsLen x.masks[mk] != l || runsLen x.vregs[vd] != l) then .trap .length 0 0
    else
      match s.locateAll f x {} (t.width / 8) (t.width / 8) (act.map (addr (x.read (s.bankOf x)) x)) with
      | .error e => .trap e.1 e.2 0
      | .ok (ls, u) => .done (u.setFibre f (x.addPend (.loadVec (act.zip ls) t mk.val l) (.vec vd.val) true .ld))

/-- R196. -/
def execVld (vd : VReg) (mk : MReg) (base : Src) (t : Ty) (off : BitVec 7) (s : State) : Host.Outcome State Fault Refusal :=
  s.loadVector vd mk t (fun x => runsLen x.vregs[vd]) fun r x i => elementAddr (x.offsetFrom (r base) off) t i

/-- R196. -/
def execVldg (vd : VReg) (mk : MReg) (base : Src) (t : Ty) (vx : VReg) (sh : Fin 8) (s : State) : Host.Outcome State Fault Refusal :=
  s.loadVector vd mk t (fun x => runsLen x.vregs[vx]) fun r x i => indexedAddr (r base) x.vregs[vx] sh.val i

/-- R196: vst and vstg. -/
def State.storeVector (s : State) (vd : VReg) (mk : MReg) (t : Ty) (fits : Fibre → Bool) (addr : (Src → Word) → Fibre → Nat → Word) :
    Host.Outcome State Fault Refusal :=
  s.issueWith fun f x =>
    let l := runsLen x.vregs[vd]
    let act := x.activePositions mk l
    if x.full .st then .stall (.counter CountClass.st.index)
    else if (mk != 0 && runsLen x.masks[mk] != l) || !fits x then .trap .length 0 0
    else
      match s.locateAll f x { write := true } (t.width / 8) (t.width / 8) (act.map (addr (x.read (s.bankOf x)) x)) with
      | .error e => .trap e.1 e.2 0
      | .ok (ls, u) => u.issueStore f x (ls.zip (act.map fun i => valueBytes t (runsElem x.vregs[vd] i))) 0

/-- R196. -/
def execVst (vd : VReg) (mk : MReg) (base : Src) (t : Ty) (off : BitVec 7) (s : State) : Host.Outcome State Fault Refusal :=
  s.storeVector vd mk t (fun _ => true) fun r x i => elementAddr (x.offsetFrom (r base) off) t i

/-- R196: of several active elements at one address, the last is written. -/
def execVstg (vd : VReg) (mk : MReg) (base : Src) (t : Ty) (vx : VReg) (sh : Fin 8) (s : State) : Host.Outcome State Fault Refusal :=
  s.storeVector vd mk t (fun x => runsLen x.vregs[vx] == runsLen x.vregs[vd]) fun r x i => indexedAddr (r base) x.vregs[vx] sh.val i

/-! ### Narrow blocks -/

/-- R197: the elements that vd receives. -/
def blockHead (fmt : SxFmt) : Nat := Nat.min fmt.elements 64

/-- R197. -/
def execLdq (vd : VReg) (mk : MReg) (base : Src) (t : Ty) (fmt : SxFmt) (s : State) : Host.Outcome State Fault Refusal :=
  s.issueWith fun f x =>
    let va := x.read (s.bankOf x) base
    if x.full .ld then .stall (.counter CountClass.ld.index)
    else if mk != 0 && (runsLen x.masks[mk] != blockHead fmt || runsLen x.vregs[vd] != blockHead fmt) then .trap .length 0 0
    else
      match s.locate f x { slice := false } va 64 64 with
      | .error e => .trap e va 0
      | .ok (loc, u) => .done (u.setFibre f (x.addPend (.loadBlock loc t fmt mk.val) (.vec vd.val) true .ld))

/-- R198: the exact values of one or two registers. -/
def Fibre.blockValues (x : Fibre) (vd : VReg) (fmt : SxFmt) : List Word :=
  ((x.vblock vd (if fmt = .sx4 then 2 else 1)).map fun r => (List.range (runsLen r)).map (runsElem r)).flatten

/-- R198. -/
def execStq (vd : VReg) (base : Src) (t : Ty) (fmt : SxFmt) (sr : Bool) (vb : VReg) (s : State) : Host.Outcome State Fault Refusal :=
  s.issueWith fun f x =>
    let va := x.read (s.bankOf x) base
    let xs := x.blockValues vd fmt
    let ds := if sr then x.blockValues vb fmt else []
    if x.full .st then .stall (.counter CountClass.st.index)
    else if xs.length > fmt.elements || (sr && ds.length != xs.length) then .trap .length 0 0
    else
      match s.locate f x { write := true, slice := false } va 64 64 with
      | .error e => .trap e va 0
      | .ok (loc, u) =>
        let q := sxQuantise fmt 0 (if sr then .sr else .rnd x.mode) (xs.map (exact t)) (ds.map fun d => d.toNat % 2 ^ 32)
        u.issueStore f x [(loc, q.1)] q.2

/-! ### Queue registers -/

/-- R171. -/
def execQbind (q : Fin 4) (src : Src) (s : State) : Host.Outcome State Fault Refusal :=
  s.issueWith fun f x =>
    let va := x.read (s.bankOf x) src
    if x.full .ld then .stall (.counter CountClass.ld.index)
    else
      match s.locate f x {} va 32 32 with
      | .error e => .trap e va 0
      | .ok (loc, u) => .done (u.setFibre f (x.addPend (.bind q loc) .none true .ld))

/-- R173: unbound, and the register reads 0, also where it was not bound (DESIGN CHOICE, assumption 113). -/
def Fibre.unbind (x : Fibre) (q : Fin 4) : Fibre := Fibre.setNamed { x with queues := x.queues.set q.val none } (28 + q.val) 0

/-- R173. -/
def execQfree (q : Fin 4) (s : State) : Host.Outcome State Fault Refusal := s.own fun _ x => x.unbind q

/-- R28, R31: a type by its code. -/
def tyOfCode (n : Nat) : Option Ty :=
  match n with
  | 0 => some .s32 | 1 => some .n32 | 2 => some .s64 | 3 => some .n64 | 4 => some .f32 | 5 => some .f64 | 6 => some .f16 | 7 => some .bf16
  | 8 => some .b32 | 9 => some .b64 | 10 => some .s16 | 11 => some .n16 | 12 => some .s8 | 13 => some .n8
  | _ => none

/-- R171: does a descriptor keep the limits? -/
def queueDescOk (d : List Byte) : Bool :=
  fieldOf d 0 8 < 2 ^ 52 && fieldOf d 8 4 ≥ 1 && (tyOfCode (fieldOf d 16 1)).isSome && fieldOf d 17 1 < 4 && zeroBytes d 18 14

/-- R171: the address of element i. -/
def QueueBinding.addr (b : QueueBinding) (i : Nat) : Word :=
  BitVec.ofInt 64 ((fieldOf b.desc 0 8 : Int) + i * signedFieldOf b.desc 12 4)

/-- R171: the element type. -/
def QueueBinding.ty (b : QueueBinding) : Ty := (tyOfCode (fieldOf b.desc 16 1)).getD .n64

/-- R171: the number of elements. -/
def QueueBinding.count (b : QueueBinding) : Nat := fieldOf b.desc 8 4

/-- R171: the fibre as an access of the queue makes it: with the descriptor's policy. -/
def Fibre.forQueue (x : Fibre) (b : QueueBinding) : Fibre := { x with hints := { x.hints with cache := policyOf (fieldOf b.desc 17 1) } }

/-- R172: where the next element beyond `skip` lies, or the fault of popping or pushing it. -/
def State.queueElement (s : State) (f : Nat) (x : Fibre) (b : QueueBinding) (skip : Nat) (write : Bool) : Except (FaultCode × Word) (Loc × State) :=
  let i := b.index.toNat + skip
  let va := b.addr i
  if i ≥ b.count then .error (.access, 0)
  else
    match s.locate f (x.forQueue b) { write := write } va (b.ty.width / 8) (b.ty.width / 8) with
    | .error e => .error (e, va)
    | .ok r => .ok r

/-- R172, R190: the fault with which an element of a load queue that is not read ahead meets its pop; none while its data may still arrive. -/
def State.elementFault (s : State) (f : Nat) (x : Fibre) (b : QueueBinding) (loc : Loc) : Option FaultCode :=
  let n := b.ty.width / 8
  if s.hasError f x n loc then some .ecc else if (s.readLoc f x loc n).1.isNone then some .decode else none

/-- R172: has the next element of a load queue been read ahead, or does popping it fault? -/
def State.elementHere (s : State) (f : Nat) (x : Fibre) (b : QueueBinding) : Bool :=
  !b.ahead.isEmpty || match s.queueElement f x b 0 false with
    | .error _ => true
    | .ok (loc, t) => (t.elementFault f x b loc).isSome

/-- R175: read one element ahead, at most 16; where the access would fault, nothing is read. -/
def execQueueReadAhead (f q : Nat) (s : State) : Host.Outcome State Fault Refusal :=
  match s.fibres.get? f with
  | none => .next s
  | some x =>
    match x.queues.toList.getD q none with
    | none => .next s
    | some b =>
      if q ≥ 2 || b.ahead.length ≥ 16 || x.life = .gone then .next s
      else
        match s.queueElement f x b b.ahead.length false with
        | .error _ => .next s
        | .ok (loc, u) =>
          match u.elementFault f x b loc, u.readLoc f x loc (b.ty.width / 8) with
          | some _, _ | _, (none, _) => .next s
          | none, (some bs, u) =>
            .next (u.setFibre f { x with queues := x.queues.setIfInBounds q (some { b with ahead := b.ahead ++ [place b.ty (natOfBytes bs)] }) })

end Sys2Proof.Machine
end

