-- ==== Sys2Proof/Machine/Atomics.lean ====
section
/-! DEFINITION. Atomics (R218-R229), sync words (R252-R256), and what happens when outstanding operations are performed (R191): data return, acceptance,
reconciliation (R216) and tile writes (R356). -/

namespace Sys2Proof.Machine

/-- R226: the new value and the flags of an atomic operation. -/
def atomValue (op : AtomOp) (t : Ty) (mode : Rnd) (sat : Bool) (old operand compared : Word) : Flagged Word :=
  match op with
  | .add => if t.isFloat then faddBits t mode old operand else addInt t sat old operand
  | .min => if t.isFloat then fminBits t old operand else (minInt t old operand, 0#6)
  | .max => if t.isFloat then fmaxBits t old operand else (maxInt t old operand, 0#6)
  | .and => (andBits t old operand, 0#6)
  | .or => (orBits t old operand, 0#6)
  | .xor => (xorBits t old operand, 0#6)
  | .exch => (operand, 0#6)
  | .cas => (if bitsOf t old = bitsOf t compared then operand else old, 0#6)

/-- 16 bytes of two words. -/
def pairBytes (p : Word × Word) : List Byte := bytesOfNat 8 p.1.toNat ++ bytesOfNat 8 p.2.toNat

/-- R226, R229: the bytes an atomic leaves. -/
def AtomKind.newBytes (k : AtomKind) (old : List Byte) : List Byte :=
  match k with
  | .op o t mode sat b c => valueBytes t (atomValue o t mode sat (place t (natOfBytes old)) b c).1
  | .wideLoad => old
  | .wideExch p => pairBytes p
  | .wideCas c p => if old = pairBytes c then pairBytes p else old

/-- R226, R229: the bytes that an atomic writes; none where it only reads. -/
def AtomKind.written (k : AtomKind) (old : List Byte) : Option (List Byte) :=
  match k with
  | .op _ _ _ _ _ _ | .wideExch _ => some (k.newBytes old)
  | .wideLoad => none
  | .wideCas c _ => if old = pairBytes c then some (k.newBytes old) else none

/-- R226: the flags of an atomic. -/
def AtomKind.flags (k : AtomKind) (old : List Byte) : FlagSet :=
  match k with
  | .op o t mode sat b c => (atomValue o t mode sat (place t (natOfBytes old)) b c).2
  | .wideLoad | .wideExch _ | .wideCas _ _ => 0#6

/-- R226, R229: the values an atomic returns. -/
def AtomKind.results (k : AtomKind) (old : List Byte) : List Word :=
  match k with
  | .op _ t _ _ _ _ => [place t (natOfBytes old)]
  | .wideLoad | .wideExch _ | .wideCas _ _ => [wordFieldOf old 0, wordFieldOf old 8]

/-- R435: may an atomic be the read of a waymark's seq: bytes 48-63 of a 64-byte slot by `atomw.ld`, or bytes 60-63 by `atom`? (DEDUCED, assumption 100) -/
def AtomKind.readsSeq (k : AtomKind) (loc : Loc) : Bool :=
  match loc, k with
  | .mem pa _ _ _ _, .wideLoad => pa % 64 = 48
  | .mem pa _ _ _ _, .op _ t _ _ _ _ => t.width = 32 && pa % 64 = 60
  | _, _ => false

/-- R226: an atomic that returns its old value. The fibre's later reads follow one that may read a waymark's seq (R435): later units wait for it (DEDUCED,
assumption 100). A speculative fibre stalls until resolution (R304). -/
def State.issueAtom (s : State) (f : Nat) (x : Fibre) (a : Access) (va : Word) (k : AtomKind) (dest : Bool → Fibre × PendDest) : Issue :=
  if x.speculative then .stall .resolution
  else if x.full .ld then .stall (.counter CountClass.ld.index)
  else
    match s.locate f x a va k.size k.size with
    | .error e => .trap e va 0
    | .ok (loc, u) =>
      let hold := s.mayFault f x k.size [loc] || k.readsSeq loc
      let y := dest hold
      .done (u.setFibre f (y.1.addPend (.atom loc k) y.2 hold .ld))

/-- R226. -/
def State.atomScalar (s : State) (op : AtomOp) (d : Dst) (a b : Src) (t : Ty) : Host.Outcome State Fault Refusal :=
  s.issueWith fun f x =>
    let r := x.read (s.bankOf x)
    s.issueAtom f x { write := true, orderedOk := false, atomic := true } (r a) (.op op t x.mode x.hints.sat (r b) (x.old d)) fun hold => x.loadDest d hold

/-- R226. -/
def execAtomAdd (d : Dst) (a b : Src) (t : Ty) (s : State) := s.atomScalar .add d a b t
/-- R226. -/
def execAtomMin (d : Dst) (a b : Src) (t : Ty) (s : State) := s.atomScalar .min d a b t
/-- R226. -/
def execAtomMax (d : Dst) (a b : Src) (t : Ty) (s : State) := s.atomScalar .max d a b t
/-- R226. -/
def execAtomAnd (d : Dst) (a b : Src) (t : Ty) (s : State) := s.atomScalar .and d a b t
/-- R226. -/
def execAtomOr (d : Dst) (a b : Src) (t : Ty) (s : State) := s.atomScalar .or d a b t
/-- R226. -/
def execAtomXor (d : Dst) (a b : Src) (t : Ty) (s : State) := s.atomScalar .xor d a b t
/-- R226. -/
def execAtomExch (d : Dst) (a b : Src) (t : Ty) (s : State) := s.atomScalar .exch d a b t
/-- R226. -/
def execAtomCas (d : Dst) (a b : Src) (t : Ty) (s : State) := s.atomScalar .cas d a b t

/-- R426: the package that a location lies in, when it is another. -/
def Loc.node : Loc → Option Nat
  | .mem pa _ _ _ _ => remoteNode pa
  | .slice _ | .grant _ => none

/-- R426: the location that an atomic of the st class accesses at another package: later units wait for it, as it may fault. -/
def PendOp.remoteAtomic : PendOp → Option Loc
  | .ared l _ | .syncInit l _ | .syncAdd l _ => if l.node.isSome then some l else none
  | .load _ _ _ | .loadVec _ _ _ _ | .loadBlock _ _ _ _ | .atom _ _ | .store _ _ | .bind _ _ | .query _ | .value _ _ | .rsLoad _ _ | .rsStore _ _ _ => none

/-- R227, R228: a reduction; on an ordered page of an ordered grid it is buffered, and a speculative fibre need not stall for that. -/
def State.aredScalar (s : State) (op : AtomOp) (a b : Src) (t : Ty) : Host.Outcome State Fault Refusal :=
  s.issueWith fun f x =>
    let r := x.read (s.bankOf x)
    if x.full .st then .stall (.counter CountClass.st.index)
    else
      match s.locate f x { write := true, atomic := true } (r a) (t.width / 8) (t.width / 8) with
      | .error e => .trap e (r a) 0
      | .ok (loc, u) =>
        let k : AtomKind := .op op t x.mode x.hints.sat (r b) 0
        if x.speculative && !s.buffers f x loc then .stall .resolution
        else if !s.bufferRoom x (s.buffering f x (.ared loc k)) then .trap .access (r a) 0
        else .done (u.setFibre f (x.addPend (.ared loc k) .none (PendOp.ared loc k).remoteAtomic.isSome .st))

/-- R227. -/
def execAredAdd (a b : Src) (t : Ty) (s : State) := s.aredScalar .add a b t
/-- R227. -/
def execAredMin (a b : Src) (t : Ty) (s : State) := s.aredScalar .min a b t
/-- R227. -/
def execAredMax (a b : Src) (t : Ty) (s : State) := s.aredScalar .max a b t
/-- R227. -/
def execAredAnd (a b : Src) (t : Ty) (s : State) := s.aredScalar .and a b t
/-- R227. -/
def execAredOr (a b : Src) (t : Ty) (s : State) := s.aredScalar .or a b t

/-- The number of the named register that a field names. -/
def dstNumber : Dst → Nat
  | .n i => i.val
  | .push => 0

/-- The number of the named register that a field names. -/
def srcNumber : Src → Nat
  | .n i => i.val
  | .a _ | .k _ => 0

/-- R229: a register pair from a number on. -/
def Fibre.pairAt (x : Fibre) (j : Nat) : Word × Word := (x.named.toList.getD j 0, x.named.toList.getD (j + 1) 0)

/-- R229. -/
def State.atomWide (s : State) (d : Dst) (a : Src) (write : Bool) (k : Fibre → AtomKind) : Host.Outcome State Fault Refusal :=
  s.issueWith fun f x =>
    s.issueAtom f x { write := write, orderedOk := false, atomic := true } (x.read (s.bankOf x) a) (k x) fun _ => (x, .pair (dstNumber d))

/-- R229. -/
def execAtomwLd (d : Dst) (a : Src) (s : State) := s.atomWide d a false fun _ => .wideLoad
/-- R229. -/
def execAtomwExch (d : Dst) (a b : Src) (s : State) := s.atomWide d a true fun x => .wideExch (x.pairAt (srcNumber b))
/-- R229. -/
def execAtomwCas (d : Dst) (a b : Src) (s : State) := s.atomWide d a true fun x => .wideCas (x.pairAt (dstNumber d)) (x.pairAt (srcNumber b))

/-! ### Sync words -/

/-- R253: ADDSW on the 32 bytes of a sync word. -/
def addSyncWord (n : Nat) (w : List Byte) : List Byte :=
  let count := fieldOf w 0 8
  let target := fieldOf w 8 8
  if target = 0 then bytesOfNat 8 ((count + n) % 2 ^ 64) ++ w.drop 8
  else bytesOfNat 8 ((count + n) % target) ++ bytesOfNat 8 target ++ bytesOfNat 4 ((fieldOf w 16 4 + (count + n) / target) % 2 ^ 32) ++ w.drop 20

/-- R254: what swinit leaves. -/
def initSyncWord (target : Word) (w : List Byte) : List Byte := bytesOfNat 8 0 ++ bytesOfNat 8 target.toNat ++ bytesOfNat 4 0 ++ w.drop 20

/-- R252: an access of a sync word. -/
def syncAccess (write : Bool) : Access := { write := write, slice := false, detach := false, orderedOk := false, atomic := write }

/-- R254: swinit and swadd, once issued, count in the st class. -/
def State.syncStore (s : State) (a b : Src) (least : Nat) (k : Loc → Word → PendOp) : Host.Outcome State Fault Refusal :=
  s.issueWith fun f x =>
    let r := x.read (s.bankOf x)
    if x.speculative then .stall .resolution
    else if x.full .st then .stall (.counter CountClass.st.index)
    else
      match s.locate f x (syncAccess true) (r a) 32 32 with
      | .error e => .trap e (r a) 0
      | .ok (loc, u) =>
        if (r b).toNat < least || (r b).toNat > 2 ^ 62 then .trap .access (r a) 0
        else .done (u.setFibre f (x.addPend (k loc (r b)) .none (k loc (r b)).remoteAtomic.isSome .st))

/-- R254. -/
def execSwinit (a b : Src) (s : State) := s.syncStore a b 1 .syncInit
/-- R254. -/
def execSwadd (a b : Src) (s : State) := s.syncStore a b 0 .syncAdd

/-- R256: the additions to a word carry their releases. -/
def State.releaseTo (s : State) (pa : Nat) (es : List Edge) : State :=
  { s with wordEdges := s.wordEdges.put pa (addEdges 193 ((s.wordEdges.get? pa).getD []) es) }

/-- R252: an indivisible update of bytes at their home; bytes of a tile that breaks R355 count as zero (R356). -/
def State.updateHome (s : State) (pa n comp : Nat) (k : List Byte → List Byte) : State :=
  (s.writeHome comp (addressed pa (k ((s.home.read pa n comp).getD (List.replicate n 0))))).sendHome ((List.range n).map (pa + ·))

/-- R253: ADDSW at the home slice, with the releases it carries. -/
def State.addAtHome (s : State) (pa comp n : Nat) (es : List Edge) : State := (s.updateHome pa 32 comp (addSyncWord n)).releaseTo pa es

/-! ### Outstanding operations performed -/

/-- The storage a location lies in, its first byte there, and its length. -/
def Loc.range (n : Nat) : Loc → Nat × Nat × Nat
  | .slice off => (0, off, n)
  | .grant off => (1, off, n)
  | .mem pa _ _ _ _ => (2, pa, n)

/-- The bytes that an outstanding operation reads or writes. -/
def PendOp.ranges : PendOp → List (Nat × Nat × Nat)
  | .load loc t _ => [loc.range (t.width / 8)]
  | .loadVec es t _ _ => es.map fun e => e.2.range (t.width / 8)
  | .loadBlock loc _ _ _ => [loc.range 64]
  | .atom loc k | .ared loc k => [loc.range k.size]
  | .store ws _ => ws.map fun w => w.1.range w.2.length
  | .syncInit loc _ | .syncAdd loc _ | .bind _ loc => [loc.range 32]
  | .rsLoad die index | .rsStore die index _ => [(3 + die, index, 1)]
  | .query _ | .value _ _ => []

/-- The same, with the elements of store queues that it will push to. -/
def Pend.ranges (p : Pend) : List (Nat × Nat × Nat) := p.op.ranges ++ p.pushes.map fun e => e.2.2.range (e.2.1.width / 8)

/-- Do two ranges share a byte? -/
def rangesMeet (a b : Nat × Nat × Nat) : Bool := a.1 == b.1 && a.2.1 < b.2.1 + b.2.2 && b.2.1 < a.2.1 + a.2.2

/-- R192: operation k may be performed: no earlier one of the fibre touches its bytes. -/
def Fibre.performable (x : Fibre) (k : Nat) : Bool :=
  match x.pend[k]? with
  | none => false
  | some p => (x.pend.take k).all fun q => !q.ranges.any fun a => p.op.ranges.any (rangesMeet a)

/-- R192: must a store wait for another, of a member with a lower convoy-relative index in the same pass, to a byte that it writes too? -/
def Pend.follows (p q : Pend) : Bool :=
  match p.op, q.op, p.pass, q.pass with
  | .store _ _, .store _ _, some (c, t, i), some (d, u, j) => c == d && t == u && j < i && p.op.ranges.any fun a => q.op.ranges.any (rangesMeet a)
  | _, _, _, _ => false

/-- R192: no store of another member of the pass must come before a store. -/
def State.storeTurn (s : State) (f : Nat) (p : Pend) : Bool := s.fibres.all fun e => e.1 == f || e.2.pend.all fun q => !p.follows q

/-- R191: the class of an operation. -/
def PendOp.class : PendOp → CountClass
  | .load _ _ _ | .loadVec _ _ _ _ | .loadBlock _ _ _ _ | .atom _ _ | .query _ | .value _ _ | .bind _ _ | .rsLoad _ _ => .ld
  | .ared _ _ | .store _ _ | .syncInit _ _ | .syncAdd _ _ | .rsStore _ _ _ => .st

/-- The operation is over: its count falls. -/
def Fibre.dropPend (x : Fibre) (k : Nat) (c : CountClass) : Fibre := Fibre.countDown { x with pend := x.pend.eraseIdx k } c

/-- Write values to named registers from one on. -/
def Fibre.setNamedFrom (x : Fibre) (j : Nat) : List Word → Fibre
  | [] => x
  | v :: vs => (x.setNamed j v).setNamedFrom (j + 1) vs

/-- R191: operation k returns values. -/
def Fibre.returnValues (x : Fibre) (k : Nat) (p : Pend) (vs : List Word) : Fibre :=
  match p.dest with
  | .element t loc =>
    Fibre.countDown { x with pend := x.pend.set k { p with op := .store [(loc, valueBytes t (vs.headD 0))] 0, dest := .none, hold := false, pushes := [] } } .ld
  | .age pos => let x := x.dropPend k .ld; { x with ages := x.ages.setIfInBounds pos (vs.headD 0) }
  | .pushAtReturn => (x.dropPend k .ld).push (vs.headD 0)
  | .named j | .pair j =>
    let y := (x.dropPend k .ld).setNamedFrom j vs
    { y with pend := x.pend.take k ++ p.pushes.map (y.pushStore p.unit) ++ x.pend.drop (k + 1) }
  | .vec _ | .none => x.dropPend k .ld

/-- R9, R172: the pops and the pushes of a unit that faults at its data return have not taken effect. An element popped is read again. -/
def Fibre.undoQueues (x : Fibre) (p : Pend) : Fibre :=
  let back (qs : Vector (Option QueueBinding) 4) (q : Fin 4) : Vector (Option QueueBinding) 4 :=
    qs.set q.val (qs[q].map fun b => { b with index := b.index - 1, ahead := [] })
  { x with queues := (p.pops ++ p.pushes.map (·.1)).foldl back x.queues, counts := { x.counts with st := x.counts.st - p.pushes.length } }

/-- R190: a fault at data return, precise at the unit that issued the operation. -/
def State.dataFault (s : State) (f : Nat) (x : Fibre) (k : Nat) (p : Pend) (code : FaultCode) (va : Word) : State :=
  (s.setFibre f ((x.dropPend k p.op.class).undoQueues p)).takeTrap f p.unit p.rep .unit code va 0

/-- R449: the data of an operation have arrived; a unit that waited for them is complete. -/
def State.unitReturns (s : State) (f : Nat) (x : Fibre) (p : Pend) : State := if p.hold then s.unitEnds f x p.unit p.rep else s

/-- R426: has no path reached a location's package for 10 ms? -/
def State.cutOff (s : State) (l : Loc) : Bool := match l.node with
  | some n => s.link.unreachable.contains n
  | none => false

/-- R426: does a read of a core leave the core: it does not hold the bytes? -/
def State.leavesCore (s : State) (core n : Nat) : Loc → Bool
  | .mem pa comp _ _ _ => !allDirty (s.core core).dirty pa n && (findLine (s.core core).clean pa comp).isNone
  | .slice _ | .grant _ => false

/-- R426: the other packages that an operation must reach to be performed. -/
def State.crosses (s : State) (x : Fibre) (op : PendOp) : List Nat :=
  let reads (n : Nat) (ls : List Loc) : List Nat := (ls.filter (s.leavesCore x.core n)).filterMap Loc.node
  match op with
  | .load l t _ => reads (t.width / 8) [l]
  | .loadVec es t _ _ => reads (t.width / 8) (es.map (·.2))
  | .loadBlock l _ _ _ => reads 64 [l]
  | .bind _ l => reads 32 [l]
  | .atom l _ | .ared l _ | .syncInit l _ | .syncAdd l _ => l.node.toList
  | .store _ _ | .query _ | .value _ _ | .rsLoad _ _ | .rsStore _ _ _ => []

/-- R426: can an operation reach the packages that it must, or has it waited for 10 ms? -/
def State.reaches (s : State) (x : Fibre) (op : PendOp) : Bool :=
  (s.crosses x op).all fun n => s.link.pathUp n || s.link.unreachable.contains n

/-- R186, R190: a read at data return, plain or through the sampler path: an uncorrectable error before a malformed tile. A load that later units did not wait for
met no error when it issued, and has read before one arose. (DEDUCED, assumption 32) -/
def State.readChecked (s : State) (f : Nat) (x : Fibre) (hold sampler : Bool) (loc : Loc) (n : Nat) (who : Party := .fibre f) :
    Except FaultCode (List Byte × State) :=
  if s.leavesCore x.core n loc && s.cutOff loc then .error .access
  else if hold && (if sampler then s.samplerError f x n loc else s.hasError f x n loc) then .error .ecc
  else
    match if sampler then s.readSampler f x loc n else s.readLoc f x loc n who with
    | (none, _) => .error .decode
    | (some bs, u) => .ok (bs, u)

/-- R190: read several locations in order; the first that faults is reported. -/
def State.readAll (s : State) (f : Nat) (x : Fibre) (hold : Bool) (n : Nat) (who : Party) : List Loc → Except (FaultCode × Word) (List (List Byte) × State)
  | [] => .ok ([], s)
  | l :: ls =>
    match s.readChecked f x hold false l n who with
    | .error e => .error (e, l.address)
    | .ok (bs, u) =>
      match State.readAll u f x hold n who ls with
      | .error e => .error e
      | .ok (r, v) => .ok (bs :: r, v)

/-- R196: the result of a vector load: elements read at active positions, old elements elsewhere, as maximal runs. -/
def loadedRuns (t : Ty) (old : Runs) (len : Nat) (got : List (Nat × List Byte)) : Runs :=
  coalesce ((List.range len).map fun i =>
    match got.find? fun e => e.1 == i with
    | some e => ⟨place t (natOfBytes e.2), 1⟩
    | none => ⟨runsElem old i, 1⟩)

/-- R38, R42, R197: a block's elements as registers receive them. A malformed block sets invalid for the instruction, whatever the mask; an element sets its flags
where the mask covers it. -/
def Fibre.writeSxBlock (x : Fibre) (vd mk : Nat) (t : Ty) (fmt : SxFmt) (block : List Byte) : Except FaultCode Fibre :=
  let es := (sxDecode fmt block).map fun v => v.andThen (roundTo t .rn)
  let runs (from_ n : Nat) : Runs := coalesce (((es.drop from_).take n).map fun e => ⟨e.1, 1⟩)
  let v : VReg := Fin.ofNat 16 vd
  let m : MReg := Fin.ofNat 8 mk
  let flags := (List.range es.length).foldl (fun acc i => acc ||| (if x.maskTrue m i then (es.getD i (0, 0)).2 else 0#6))
    (flagIf (!sxAllZero block && sxMalformed fmt block) Flag.invalid)
  let r := if fmt = .sx4 then x.writeBlock v [runs 0 64, runs 64 32] else x.writev (.v v) (runs 0 64) m false
  r.map fun y => y.orFlags flags

/-- R365: the home of the mode byte that a query reads; none where bits 8..0 are not read. -/
def State.queryTile (s : State) (x : Fibre) (v : Nat) : Option Nat :=
  match (s.translate (.core x.core) x.context v).1 with
  | some l =>
    if leafComp l.2 != 0 && leafResident l.2 && leafNode l.2 == s.node then some (localKey (entryTier l.2) (entryOffset l.2 + v % l.1)) else none
  | none => none

/-- R365: the word that pquery writes. -/
def State.queryWord (s : State) (x : Fibre) (va : Word) : Word × State :=
  let v := va.toNat
  if v ≥ Config.windowBase then (BitVec.ofNat 64 (3 * 2 ^ 10), s)
  else
    match s.translate (.core x.core) x.context v with
    | (none, u) => (BitVec.ofNat 64 (3 * 2 ^ 10), u)
    | (some l, u) =>
      let size := if l.1 = 2 ^ 16 then 0 else if l.1 = 2 ^ 25 then 1 else 2
      let low := match s.queryTile x v with
        | some pa => 2 ^ 9 + (if s.home.encoded.contains (pa / 65536) then 0 else 2 ^ 8) + (s.home.mode pa).toNat
        | none => 0
      (BitVec.ofNat 64 (leafNode l.2 * 2 ^ 52 + bitsField l.2 0 12 * 2 ^ 12 + size * 2 ^ 10 + low), u)

/-- R345: where a walk from an entry reads entries; `left` levels remain. -/
def walkReads (im : Images) (own va : Nat) (entry : Word) (left : Nat) : List Nat :=
  match left with
  | 0 => []
  | left + 1 =>
    let level := 3 - left
    let at_ := localKey (entryTier entry) (entryOffset entry) + 8 * (va / pageSize level % 512)
    let e := BitVec.ofNat 64 (im.mem.readNat at_ 8)
    at_ :: (if !validLeaf own level e && level < 3 && validTable e then walkReads im own va e left else [])

/-- R365: does a query meet an entry, or a mode byte, with an uncorrectable error? -/
def State.queryError (s : State) (x : Fibre) (va : Word) : Bool :=
  let v := va.toNat
  v < Config.windowBase &&
    (((findLeaf (s.cachedFor (.core x.core)) x.context v).isNone && validTable (s.rootOf x.context) &&
        (walkReads s.home s.node v (s.rootOf x.context) 4).any fun e => s.home.faulty e 8 0) ||
      match s.queryTile x v with
      | some pa => s.home.encoded.contains (pa / 65536) && s.home.badModes.contains (pa / 256)
      | none => false)

/-- R191: the data of operation k arrive. -/
def State.returnLoad (s : State) (f : Nat) (x : Fibre) (k : Nat) (p : Pend) : State :=
  let fault := s.dataFault f x k p
  let back (u : State) (y : Fibre) : State := (u.setFibre f y).unitReturns f x p
  match p.op with
  | .load loc t sampler =>
    match s.readChecked f x p.hold sampler loc (t.width / 8) (p.party f) with
    | .error e => fault e loc.address
    | .ok (bs, u) => back u (x.returnValues k p [place t (natOfBytes bs)])
  | .loadVec es t m len =>
    match s.readAll f x p.hold (t.width / 8) (p.party f) (es.map (·.2)) with
    | .error e => fault e.1 e.2
    | .ok (bss, u) =>
      match p.dest with
      | .vec vd =>
        let v : VReg := Fin.ofNat 16 vd
        match x.writev (.v v) (loadedRuns t x.vregs[v] len ((es.map (·.1)).zip bss)) (Fin.ofNat 8 m) false with
        | .error e => fault e 0
        | .ok y => back u (y.dropPend k .ld)
      | .age _ | .pushAtReturn | .named _ | .pair _ | .element _ _ | .none => back u (x.dropPend k .ld)
  | .loadBlock loc t fmt m =>
    match s.readChecked f x p.hold false loc 64 (p.party f), p.dest with
    | .error e, _ => fault e loc.address
    | .ok (bs, u), .vec vd =>
      match x.writeSxBlock vd m t fmt bs with
      | .error e => fault e 0
      | .ok y => back u (y.dropPend k .ld)
    | .ok (_, u), _ => back u (x.dropPend k .ld)
  | .atom loc a =>
    if s.cutOff loc then fault .access loc.address
    else if p.hold && s.atomicError f x a.size loc then fault .ecc loc.address
    else
    match s.atomicAt f x loc a.size a.written (p.party f) with
    | none => fault .decode loc.address
    | some (old, u) => back u ((x.returnValues k p (a.results old)).orFlags (a.flags old))
  | .bind q loc =>
    match s.readChecked f x p.hold false loc 32 (p.party f) with
    | .error e => fault e loc.address
    | .ok (bs, u) =>
      if queueDescOk bs then
        let y := x.dropPend k .ld
        back u { y.unbind q with queues := y.queues.set q.val (some ⟨bs, 0, []⟩) }
      else fault .access loc.address
  | .query va =>
    if s.queryError x va then fault .ecc va
    else
    let r := s.queryWord x va
    back r.2 (x.returnValues k p [r.1])
  | .value vs flags => back s ((x.returnValues k p vs).orFlags flags)
  | .rsLoad die index =>
    if p.hold && s.recordError x.context die index then fault .ecc 0 else back s (x.returnValues k p (s.readRecord x.context die index))
  | .ared _ _ | .store _ _ | .syncInit _ _ | .syncAdd _ _ | .rsStore _ _ _ => s

/-- R191. -/
def execLoadDataReturn (f k : Nat) (s : State) : Host.Outcome State Fault Refusal :=
  match s.fibres.get? f with
  | none => .next s
  | some x =>
    match x.pend[k]? with
    | none => .next s
    | some p => if p.op.class = .ld && x.performable k && s.reaches x p.op then .next (s.returnLoad f x k p) else .next s

/-- Writes of one store in order; none when a redirected write must stall (R304). -/
def State.writeAllLocs (s : State) (f : Nat) (x : Fibre) (who : Party) : List (Loc × List Byte) → Option State
  | [] => some s
  | w :: ws =>
    match s.writeLoc f x w.1 w.2 who with
    | none => none
    | some u => State.writeAllLocs u f x who ws

/-- R191, R227, R254: a store is performed or accepted; none while it cannot be. -/
def State.performStore (s : State) (f : Nat) (x : Fibre) (p : Pend) : Option (State × FlagSet) :=
  match p.op with
  | .store ws flags => (s.writeAllLocs f x (p.party f) ws).map fun u => (u, flags)
  | .ared loc k =>
    if s.buffers f x loc then (s.taskOf f x).map fun t => (s.bufferOp t f x (.ared loc k), 0#6)
    else
      match loc with
      | .mem pa comp _ _ _ => some ((s.flushLine x.core pa comp).updateHome pa k.size comp k.newBytes, 0#6)
      | .slice _ | .grant _ => (s.atomicAt f x loc k.size k.written (p.party f)).map fun r => (r.2, 0#6)
  | .syncInit loc target =>
    match loc with
    | .mem pa comp _ _ _ => some ((s.flushLine x.core pa comp).updateHome pa 32 comp (initSyncWord target), 0#6)
    | .slice _ | .grant _ => some (s, 0#6)
  | .syncAdd loc n =>
    match loc with
    | .mem pa comp _ _ _ =>
      let r := (s.flushLine x.core pa comp).releaseOn x.core
      some ((r.1.addAtHome pa comp n.toNat [r.2]).learnAll [.word pa] (· == .fibre f), 0#6)
    | .slice _ | .grant _ => some (s, 0#6)
  | .rsStore die index ws => some (s.writeRecord x.context die index ws, 0#6)
  | .load _ _ _ | .loadVec _ _ _ _ | .loadBlock _ _ _ _ | .atom _ _ | .query _ | .value _ _ | .bind _ _ | .rsLoad _ _ => none

/-- R191. -/
def execStoreAccept (f k : Nat) (s : State) : Host.Outcome State Fault Refusal :=
  match s.fibres.get? f with
  | none => .next s
  | some x =>
    match x.pend[k]? with
    | none => .next s
    | some p =>
      if p.op.class = .st && x.performable k && s.storeTurn f p && s.reaches x p.op then
        match p.op.remoteAtomic.bind fun l => if s.cutOff l then some l else none with
        | some l => .next (s.dataFault f x k p .access l.address)
        | none =>
          match s.performStore f x p with
          | some (u, flags) => .next ((u.updFibre f fun y => (y.dropPend k .st).orFlags flags).unitReturns f x p)
          | none => .next s
      else .next s

/-- R216, R217: the first edge owed is reconciled; one towards another package waits for its acknowledgement. -/
def execReconciliation (f : Nat) (s : State) : Host.Outcome State Fault Refusal :=
  match s.fibres.get? f with
  | none => .next s
  | some x =>
    match x.acquired with
    | [] => .next s
    | e :: es =>
      if e.1 ≥ 256 then .next (if s.unacked e then s else s.setFibre f { x with acquired := es })
      else
        let r := (s.reconcile x.core e).sendMarkers
        .next (r.1.setFibre f { x with acquired := es ++ r.2 })

/-- R356: dirty bytes of a compressible tile reach their home. -/
def execCompressedTileWrite (core tile : Nat) (s : State) : Host.Outcome State Fault Refusal :=
  .next (s.writeBack core fun a b => a / 256 == tile && b.comp != 0)

end Sys2Proof.Machine
end

