-- ==== Sys2Proof/Machine/Cross.lean ====
section
/-! DEFINITION. Crossing fibres: member words, participants and list-form sets (R160-R169), and the instructions that use them. -/

namespace Sys2Proof.Machine

/-- R160: a member word. -/
inductive Members where
  | mask (bits : Nat)
  | list (first count stride : Nat)
deriving DecidableEq, Repr

/-- R160. -/
def membersOf (w : Word) : Members :=
  if w.getLsbD 63 then .list (w.toNat % 2 ^ 10) (w.toNat / 2 ^ 10 % 2 ^ 11) (w.toNat / 2 ^ 21 % 2 ^ 10) else .mask (w.toNat % 2 ^ 32)

/-- R160: the indices that a list names, in rank order. -/
def listIndices (first count stride : Nat) : List Nat := (List.range count).map fun t => first + t * stride

/-- R230: the size F of a group. -/
def State.groupSize (s : State) (g : Group) : Nat :=
  match s.launches.get? g.launch with
  | some l => l.kernel.gx * l.kernel.gy * l.kernel.gz
  | none => 0

/-- R160: the index bound of a group. -/
def State.indexBound (s : State) (g : Nat) : Nat :=
  match s.groups.get? g with
  | some k => (s.members g).foldl (fun b e => Nat.max b (e.2.fid + 1)) (s.groupSize k)
  | none => 0

/-- R160: does a list break the limits? -/
def State.badList (s : State) (g first count stride : Nat) : Bool :=
  count = 0 || count > 1024 || stride = 0 || first + (count - 1) * stride ≥ s.indexBound g

/-- What a cross-fibre instruction sees: its fibre's rank, the participants by rank, and the length of a ballot (R166). -/
structure CrossSet where
  rank : Nat
  parts : List (Nat × Fibre)
  size : Nat

/-- What it does in its fibre: writes runs, faults, or changes something else. -/
inductive CrossResult where
  | runs (d : VDest) (r : Flagged Runs)
  | fault (code : FaultCode)
  | other (x : Fibre)

/-- R161: the participants in the mask form, from the members as the pass began. A detached fibre is alone (R164, R242; DEDUCED, assumption 92). -/
def State.maskSet (s : State) (f bits : Nat) (x : Fibre) : CrossSet :=
  match s.pass with
  | none => ⟨0, [(0, x)], 32⟩
  | some p =>
    if x.detached then ⟨0, [(0, x)], 32⟩
    else
    let ranked := (List.range p.members.length).filterMap fun i =>
      match p.members[i]? with
      | some m => (p.snapshot.get? m).map fun y => (i, m, y)
      | none => none
    let own := p.members.idxOf f
    if bits.testBit own then ⟨own, (ranked.filter fun e => bits.testBit e.1).map fun e => (e.1, e.2.2), 32⟩ else ⟨0, [(0, x)], 32⟩

/-- R80: what a fibre waits for, if it does. -/
def Fibre.waitsFor (x : Fibre) : Option Stall :=
  match x.life with
  | .stalled w => some w
  | .stopped w _ => w
  | .placed | .ready | .parked | .saved _ _ | .exiting | .gone => none

/-- R80: what a fibre waits for is over. -/
def Fibre.wake (x : Fibre) : Fibre :=
  match x.life with
  | .stalled _ => { x with life := .ready }
  | .stopped _ p => { x with life := .stopped none p }
  | .saved _ p => { x with life := .saved none p }
  | .placed | .ready | .parked | .exiting | .gone => x

/-- R168: the end of a cross-fibre instruction in a fibre: its new state, and a fault. A result that does not fit is held until the next one (DESIGN CHOICE,
assumption 108). -/
def Fibre.crossEnd (x : Fibre) (at_ : BitVec 52) (word : Word) (keep : Bool) : CrossResult → Fibre × Option FaultCode
  | .fault e => (x, some e)
  | .other y => (y, none)
  | .runs d r =>
    match x.writeRuns d r with
    | .ok y => (y, none)
    | .error e => (if keep then { x with held := some ⟨at_, word, r.1, r.2⟩ } else x, some e)

/-- R162: one waiting participant completes its list-form instruction. -/
def State.completeListed (s : State) (g : Nat) (word : Word) (k : Fibre → CrossResult) : State :=
  match s.fibres.get? g with
  | none => s
  | some y =>
    let e := y.crossEnd y.pc word true (k y)
    match e.2 with
    | none => (s.setFibre g e.1.commitQueues.advance.wake).unitOver g y
    | some c => (s.setFibre g e.1.cancelQueues).takeTrap g y.unit y.rep .unit c 0 0

/-- R162: the fibres of a group with given indices, by rank, when each is the issuing fibre or waits at this instruction with this word. -/
def State.arrived (s : State) (f g : Nat) (why : Stall) (idx : List Nat) : Option (List (Nat × Nat × Fibre)) :=
  let ms := s.members g
  (List.range idx.length).mapM fun t =>
    match ms.find? fun e => e.2.fid == idx.getD t 0 with
    | some e => if e.1 = f || e.2.waitsFor == some why then some (t, e.1, e.2) else none
    | none => none

/-- R160-R168: a cross-fibre instruction. `dest` is the register that a held result is written to. A detached fibre in list form takes FLT_DETACHED, whatever its
list (DESIGN CHOICE, assumption 114). -/
def State.cross (s : State) (src : Src) (dest : Option VDest) (k : CrossSet → Fibre → CrossResult) : Host.Outcome State Fault Refusal :=
  s.issueWith fun f x =>
    let word := x.read (s.bankOf x) src
    let finish (e : Fibre × Option FaultCode) (t : State) : Issue :=
      match e.2 with
      | none => .done (t.setFibre f e.1)
      | some c => .trapIn (t.setFibre f e.1) c 0
    match membersOf word with
    | .mask bits => finish (x.crossEnd x.pc word false (k (s.maskSet f bits x) x)) s
    | .list first count stride =>
      match x.group with
      | none => .trap .detached 0 0
      | some g =>
        let idx := listIndices first count stride
        let meet : Issue :=
          if idx.contains x.fid then rendezvous f g x word idx finish else finish (x.crossEnd x.pc word true (k ⟨0, [(0, x)], 1⟩ x)) s
        if s.badList g first count stride then .trap .maskMismatch 0 0
        else
          match x.held, dest with
          | some h, some d =>
            if h.at_ = x.pc && h.word = word then finish ({ x with held := none }.crossEnd x.pc word true (.runs d (h.runs, h.flags))) s else meet
          | _, _ => meet
where
  rendezvous (f g : Nat) (x : Fibre) (word : Word) (idx : List Nat) (finish : Fibre × Option FaultCode → State → Issue) : Issue :=
    let why := Stall.list word false x.pc
    match s.arrived f g why idx with
    | none => .arrive why
    | some ps =>
      let parts := ps.map fun e => (e.1, e.2.2)
      let others := ps.filter fun e => e.2.1 != f
      let t := others.foldl (fun t e => t.completeListed e.2.1 word (k ⟨e.1, parts, idx.length⟩)) s
      finish (x.crossEnd x.pc word true (k ⟨idx.idxOf x.fid, parts, idx.length⟩ x)) t

/-- R165. -/
def State.shfl (s : State) (vd va : VReg) (src : Src) (source : Nat → Int) : Host.Outcome State Fault Refusal :=
  s.cross src (some (.v vd)) fun c x =>
    match c.parts.find? fun e => (e.1 : Int) == source c.rank with
    | some e => .runs (.v vd) (e.2.vregs[va], 0#6)
    | none => .runs (.v vd) (x.vregs[va], 0#6)

/-- R165. -/
def execShflIdx (vd va : VReg) (src : Src) (d : Fin 32) (s : State) := s.shfl vd va src fun _ => d.val
/-- R165. -/
def execShflUp (vd va : VReg) (src : Src) (d : Fin 32) (s : State) := s.shfl vd va src fun q => (q : Int) - d.val
/-- R165. -/
def execShflDown (vd va : VReg) (src : Src) (d : Fin 32) (s : State) := s.shfl vd va src fun q => (q : Int) + d.val
/-- R165. -/
def execShflXor (vd va : VReg) (src : Src) (d : Fin 32) (s : State) := s.shfl vd va src fun q => (q ^^^ d.val : Nat)

/-- R166. -/
def execVoteAny (pd : Fin 8) (neg : Bool) (ps : Fin 8) (src : Src) (s : State) : Host.Outcome State Fault Refusal :=
  s.cross src none fun c x => .other (x.setPred pd (c.parts.any fun e => e.2.test neg ps))
/-- R166. -/
def execVoteAll (pd : Fin 8) (neg : Bool) (ps : Fin 8) (src : Src) (s : State) : Host.Outcome State Fault Refusal :=
  s.cross src none fun c x => .other (x.setPred pd (c.parts.all fun e => e.2.test neg ps))

/-- R111, R166: a ballot, with maximal runs; of the ranks of a list above 64, a mask register holds the first 64 (DESIGN CHOICE, assumption 107). -/
def ballotRuns (c : CrossSet) (neg : Bool) (ps : Fin 8) : Runs :=
  coalesce ((List.range (Nat.min c.size 64)).map fun j => ⟨truth (c.parts.any fun e => e.1 == j && e.2.test neg ps), 1⟩)

/-- R166. -/
def execVoteBallot (md : MReg) (neg : Bool) (ps : Fin 8) (src : Src) (s : State) : Host.Outcome State Fault Refusal :=
  s.cross src (some (.m md)) fun c _ => .runs (.m md) (ballotRuns c neg ps, 0#6)

/-- R167: participants' registers reduced element by element. -/
def crossReduce (op : RedOp) (t : Ty) (mode : Rnd) (sat : Bool) (rs : List Runs) : Flagged Runs :=
  flaggedMap
    (fun g => let v := reduce op t mode sat (rs.map fun r => (runsElem r g.1, 1)); (⟨v.1, g.2⟩, v.2))
    (segments (runsLen (rs.headD [])) (rs.flatMap runsBounds))

/-- R167. -/
def State.xred (s : State) (op : RedOp) (vd va : VReg) (src : Src) (t : Ty) : Host.Outcome State Fault Refusal :=
  s.cross src (some (.v vd)) fun c x =>
    let rs := c.parts.map fun e => e.2.vregs[va]
    if rs.any fun r => runsLen r != runsLen (rs.headD []) then .fault .length
    else .runs (.v vd) (crossReduce op t x.mode x.hints.sat rs)

/-- R167. -/
def execXredAdd (vd va : VReg) (src : Src) (t : Ty) (s : State) := s.xred .add vd va src t
/-- R167. -/
def execXredMin (vd va : VReg) (src : Src) (t : Ty) (s : State) := s.xred .min vd va src t
/-- R167. -/
def execXredMax (vd va : VReg) (src : Src) (t : Ty) (s : State) := s.xred .max vd va src t
/-- R167. -/
def execXredAnd (vd va : VReg) (src : Src) (t : Ty) (s : State) := s.xred .and vd va src t
/-- R167. -/
def execXredOr (vd va : VReg) (src : Src) (t : Ty) (s : State) := s.xred .or vd va src t
/-- R167. -/
def execXredXor (vd va : VReg) (src : Src) (t : Ty) (s : State) := s.xred .xor vd va src t

end Sys2Proof.Machine
end

