-- ==== Sys2Proof/Machine/Scalar.lean ====
section
/-! DEFINITION. The scalar instructions: integer and address (R95-R99), floating (R100-R103), transfers (R104-R106), predicates and special values (R92,
R93, R107). -/

namespace Sys2Proof.Machine

/-- A two-source instruction without flags. -/
def State.scalar2 (s : State) (d : Dst) (a b : Src) (op : Word → Word → Word) : Host.Outcome State Fault Refusal :=
  s.scalar d fun r _ => (op (r a) (r b), 0#6)

/-- A one-source instruction without flags. -/
def State.scalar1 (s : State) (d : Dst) (a : Src) (op : Word → Word) : Host.Outcome State Fault Refusal :=
  s.scalar d fun r _ => (op (r a), 0#6)

/-- R95. -/
def execAdd (d : Dst) (a b : Src) (t : Ty) (s : State) := s.scalar d fun r x => addInt t x.hints.sat (r a) (r b)
/-- R95. -/
def execSub (d : Dst) (a b : Src) (t : Ty) (s : State) := s.scalar d fun r x => subInt t x.hints.sat (r a) (r b)
/-- R95. -/
def execMul (d : Dst) (a b : Src) (t : Ty) (s : State) := s.scalar d fun r x => mulInt t x.hints.sat (r a) (r b)
/-- R95. -/
def execMulh (d : Dst) (a b : Src) (t : Ty) (s : State) := s.scalar2 d a b (mulhInt t)
/-- R30, R95. -/
def execDiv (d : Dst) (a b : Src) (t : Ty) (s : State) := s.scalar d fun r _ => divInt t (r a) (r b)
/-- R30, R95. -/
def execRem (d : Dst) (a b : Src) (t : Ty) (s : State) := s.scalar d fun r _ => remInt t (r a) (r b)
/-- R95. -/
def execMin (d : Dst) (a b : Src) (t : Ty) (s : State) := s.scalar2 d a b (minInt t)
/-- R95. -/
def execMax (d : Dst) (a b : Src) (t : Ty) (s : State) := s.scalar2 d a b (maxInt t)
/-- R95. -/
def execNeg (d : Dst) (a : Src) (t : Ty) (s : State) := s.scalar d fun r x => negInt t x.hints.sat (r a)
/-- R95. -/
def execAbs (d : Dst) (a : Src) (t : Ty) (s : State) := s.scalar d fun r x => absInt t x.hints.sat (r a)
/-- R95. -/
def execAnd (d : Dst) (a b : Src) (t : Ty) (s : State) := s.scalar2 d a b (andBits t)
/-- R95. -/
def execOr (d : Dst) (a b : Src) (t : Ty) (s : State) := s.scalar2 d a b (orBits t)
/-- R95. -/
def execXor (d : Dst) (a b : Src) (t : Ty) (s : State) := s.scalar2 d a b (xorBits t)
/-- R95. -/
def execNot (d : Dst) (a : Src) (t : Ty) (s : State) := s.scalar1 d a (notBits t)
/-- R95. -/
def execShl (d : Dst) (a b : Src) (t : Ty) (s : State) := s.scalar2 d a b (shlBits t)
/-- R95. -/
def execShr (d : Dst) (a b : Src) (t : Ty) (s : State) := s.scalar2 d a b (shrBits t)
/-- R95. -/
def execSra (d : Dst) (a b : Src) (t : Ty) (s : State) := s.scalar2 d a b (sraBits t)
/-- R95. -/
def execRor (d : Dst) (a b : Src) (t : Ty) (s : State) := s.scalar2 d a b (rorBits t)
/-- R95. -/
def execPcnt (d : Dst) (a : Src) (t : Ty) (s : State) := s.scalar1 d a (pcntBits t)
/-- R95. -/
def execClz (d : Dst) (a : Src) (t : Ty) (s : State) := s.scalar1 d a (clzBits t)
/-- R95. -/
def execCtz (d : Dst) (a : Src) (t : Ty) (s : State) := s.scalar1 d a (ctzBits t)
/-- R95. -/
def execBrev (d : Dst) (a : Src) (t : Ty) (s : State) := s.scalar1 d a (brevBits t)
/-- R96. -/
def execMad (d : Dst) (a b : Src) (t : Ty) (s : State) := s.scalar d fun r x => madInt t x.hints.sat (r a) (r b) (x.old d)
/-- R96. -/
def execBfx (d : Dst) (a b : Src) (t : Ty) (s : State) := s.scalar2 d a b (bfxBits t)
/-- R96. -/
def execBfi (d : Dst) (a b : Src) (t : Ty) (s : State) := s.scalar d fun r x => (bfiBits t (r a) (r b) (x.old d), 0#6)
/-- R97. -/
def execMov (d : Dst) (a : Src) (t : Ty) (s : State) := s.scalar1 d a fun v => place t (bitsOf t v)
/-- R97. -/
def execLea (d : Dst) (a b : Src) (sh : Fin 16) (s : State) := s.scalar2 d a b fun v w => leaValue v w sh.val
/-- R97. -/
def execSel (d : Dst) (a b : Src) (neg : Bool) (p : Fin 8) (t : Ty) (s : State) :=
  s.scalar d fun r x => (zeroExt t (bitsOf t (if x.test neg p then r a else r b)), 0#6)

/-- R98: an integer compare into a predicate. -/
def State.setpInt (s : State) (c : Cond) (a b : Src) (p : Fin 8) (t : Ty) : Host.Outcome State Fault Refusal :=
  s.own fun r x => x.setPred p (cmpInt c t (r a) (r b))

/-- R98. -/
def execSetpEq (a b : Src) (p : Fin 8) (t : Ty) (s : State) := s.setpInt .eq a b p t
/-- R98. -/
def execSetpLt (a b : Src) (p : Fin 8) (t : Ty) (s : State) := s.setpInt .lt a b p t
/-- R98. -/
def execSetpLe (a b : Src) (p : Fin 8) (t : Ty) (s : State) := s.setpInt .le a b p t
/-- R98. -/
def execSetpNe (a b : Src) (p : Fin 8) (t : Ty) (s : State) := s.setpInt .ne a b p t

/-- R99. -/
def execAddImm (d : Dst) (a : Src) (imm : BitVec 14) (s : State) :=
  s.scalar d fun r x => addInt .s64 x.hints.sat (r a) (x.signedImm imm)
/-- R99. -/
def execAndImm (d : Dst) (a : Src) (imm : BitVec 14) (s : State) := s.scalar d fun r x => (andBits .b64 (r a) (x.signedImm imm), 0#6)
/-- R99. -/
def execOrImm (d : Dst) (a : Src) (imm : BitVec 14) (s : State) := s.scalar d fun r x => (orBits .b64 (r a) (x.unsignedImm imm), 0#6)
/-- R99. -/
def execXorImm (d : Dst) (a : Src) (imm : BitVec 14) (s : State) := s.scalar d fun r x => (xorBits .b64 (r a) (x.unsignedImm imm), 0#6)
/-- R99. -/
def execShlImm (d : Dst) (a : Src) (imm : BitVec 14) (s : State) := s.scalar d fun r x => (shlBits .b64 (r a) (x.unsignedImm imm), 0#6)
/-- R99. -/
def execShrImm (d : Dst) (a : Src) (imm : BitVec 14) (s : State) := s.scalar d fun r x => (shrBits .b64 (r a) (x.unsignedImm imm), 0#6)
/-- R99. -/
def execSraImm (d : Dst) (a : Src) (imm : BitVec 14) (s : State) := s.scalar d fun r x => (sraBits .b64 (r a) (x.unsignedImm imm), 0#6)
/-- R99. -/
def execMovImm (d : Dst) (imm : BitVec 14) (s : State) := s.scalar d fun _ x => (x.signedImm imm, 0#6)

/-- R100. -/
def execFadd (d : Dst) (a b : Src) (t : Ty) (s : State) := s.scalar d fun r x => faddBits t x.mode (r a) (r b)
/-- R100. -/
def execFsub (d : Dst) (a b : Src) (t : Ty) (s : State) := s.scalar d fun r x => fsubBits t x.mode (r a) (r b)
/-- R100. -/
def execFmul (d : Dst) (a b : Src) (t : Ty) (s : State) := s.scalar d fun r x => fmulBits t x.mode (r a) (r b)
/-- R35. -/
def execFmin (d : Dst) (a b : Src) (t : Ty) (s : State) := s.scalar d fun r _ => fminBits t (r a) (r b)
/-- R35. -/
def execFmax (d : Dst) (a b : Src) (t : Ty) (s : State) := s.scalar d fun r _ => fmaxBits t (r a) (r b)

/-- R101: a special function. -/
def State.sfn (s : State) (g : Sfn) (d : Dst) (a : Src) (t : Ty) : Host.Outcome State Fault Refusal :=
  s.scalar d fun r x => sfnBits g t x.mode (r a)

/-- R101. -/
def execSfnRcp (d : Dst) (a : Src) (t : Ty) (s : State) := s.sfn .rcp d a t
/-- R101. -/
def execSfnRsq (d : Dst) (a : Src) (t : Ty) (s : State) := s.sfn .rsq d a t
/-- R101. -/
def execSfnSqrt (d : Dst) (a : Src) (t : Ty) (s : State) := s.sfn .sqrt d a t
/-- R101. -/
def execSfnExp2 (d : Dst) (a : Src) (t : Ty) (s : State) := s.sfn .exp2 d a t
/-- R101. -/
def execSfnLog2 (d : Dst) (a : Src) (t : Ty) (s : State) := s.sfn .log2 d a t
/-- R101. -/
def execSfnSin (d : Dst) (a : Src) (t : Ty) (s : State) := s.sfn .sin d a t
/-- R101. -/
def execSfnCos (d : Dst) (a : Src) (t : Ty) (s : State) := s.sfn .cos d a t
/-- R101. -/
def execSfnTanh (d : Dst) (a : Src) (t : Ty) (s : State) := s.sfn .tanh d a t
/-- R102. -/
def execFcvt (d : Dst) (a : Src) (dt t : Ty) (s : State) := s.scalar d fun r x => convert t dt x.mode false (r a)

/-- R103: a floating compare into a predicate. -/
def State.setpFloat (s : State) (c : Cond) (a b : Src) (p : Fin 8) (t : Ty) : Host.Outcome State Fault Refusal :=
  s.own fun r x => (x.setPred p (cmpFloat c t (r a) (r b)).1).orFlags (cmpFloat c t (r a) (r b)).2

/-- R103. -/
def execFsetpEq (a b : Src) (p : Fin 8) (t : Ty) (s : State) := s.setpFloat .eq a b p t
/-- R103. -/
def execFsetpLt (a b : Src) (p : Fin 8) (t : Ty) (s : State) := s.setpFloat .lt a b p t
/-- R103. -/
def execFsetpLe (a b : Src) (p : Fin 8) (t : Ty) (s : State) := s.setpFloat .le a b p t
/-- R103. -/
def execFsetpUn (a b : Src) (p : Fin 8) (t : Ty) (s : State) := s.setpFloat .un a b p t
/-- R100. -/
def execFfma (d : Dst) (a b c : Src) (t : FTy) (s : State) := s.scalar d fun r x => ffmaBits t.ty x.mode (r a) (r b) (r c)

/-- R59: the target of a branch; pc arithmetic is modulo 2^52 (DEDUCED, assumption 9). -/
def Fibre.branchTarget (x : Fibre) (off : BitVec 22) : BitVec 52 := x.pc + (off.signExtend 52) * 4

/-- R104. -/
def execBra (off : BitVec 22) (s : State) : Host.Outcome State Fault Refusal :=
  s.issueWith fun _ x => .jump s (x.branchTarget off)
/-- R104. -/
def execBrp (neg : Bool) (p : Fin 8) (off : BitVec 22) (s : State) : Host.Outcome State Fault Refusal :=
  s.issueWith fun _ x => .jump s (if x.test neg p then x.branchTarget off else x.pc + 4)
/-- R104. -/
def execCall (off : BitVec 22) (s : State) : Host.Outcome State Fault Refusal :=
  s.issueWith fun f x => .jump (s.setFibre f (x.push ((x.pc + 4).zeroExtend 64))) (x.branchTarget off)

/-- R105: an indirect transfer; `link` pushes the return address. (DEDUCED, assumption 23) Alignment is tested first (DESIGN CHOICE,
DESIGN CHOICE, assumption 105). -/
def State.indirect (s : State) (a : Src) (link : Bool) : Host.Outcome State Fault Refusal :=
  s.issueWith fun f x =>
    let v := x.read (s.bankOf x) a
    if v.toNat % 4 != 0 then .trap .align v 0
    else if v.toNat ≥ 2 ^ 52 then .trap .translation v 0
    else .jump (if link then s.setFibre f (x.push ((x.pc + 4).zeroExtend 64)) else s) (v.setWidth 52)

/-- R105. -/
def execJmpi (a : Src) (s : State) := s.indirect a false
/-- R105. -/
def execCalli (a : Src) (s : State) := s.indirect a true
/-- R105: as `jmpi`. -/
def execRet (a : Src) (s : State) := s.indirect a false

/-- R106. -/
def execNop (s : State) : Host.Outcome State Fault Refusal := s.own fun _ x => x

/-- R107. -/
def psetBits (preds : BitVec 8) (a b : Word) : BitVec 8 :=
  (preds &&& ~~~(b.setWidth 8)) ||| (a.setWidth 8 &&& b.setWidth 8)

/-- R107. -/
def execPset (a b : Src) (s : State) := s.own fun r x => { x with preds := psetBits x.preds (r a) (r b) }

/-- R199: the address of a frame record. -/
def State.frameAddress (s : State) (f : Nat) : Nat :=
  match s.frames.get? f with
  | none => 0
  | some r =>
    match s.contexts.get? r.context with
    | none => 0
    | some c => c.desc.frameBase + 64 * r.slot

/-- R230: the coordinates of the group whose linear index a fibre's record names. -/
def State.coordsOf (s : State) (f : Nat) (x : Fibre) : Nat × Nat × Nat :=
  match s.launches.get? x.launch with
  | none => (0, 0, 0)
  | some l =>
    let t := s.linearOf f
    (t % l.record.x, t / l.record.x % l.record.y, t / (l.record.x * l.record.y))

/-- R92: the coordinates of a fibre in its group. -/
def State.fxyz (s : State) (x : Fibre) : Nat :=
  match s.launches.get? x.launch with
  | none => 0
  | some l => x.fid % l.kernel.gx + 2 ^ 10 * (x.fid / l.kernel.gx % l.kernel.gy) + 2 ^ 20 * (x.fid / (l.kernel.gx * l.kernel.gy))

/-- R92: launch identity and depth. -/
def State.launchValue (s : State) (x : Fibre) : Nat :=
  match s.launches.get? x.launch with
  | none => 0
  | some l => l.slot + 2 ^ 32 * l.depth

/-- R92: convoy-relative index, member count less 1, core. -/
def State.cvi (s : State) (f : Nat) (x : Fibre) : Nat :=
  match s.pass with
  | none => 2 ^ 16 * x.core
  | some p => p.members.idxOf f % 32 + 2 ^ 8 * ((p.members.length - 1) % 32) + 2 ^ 16 * x.core

/-- R92: a special value. -/
def State.special (s : State) (f : Nat) (x : Fibre) : SpecialValue → Word
  | .sp => x.sp.zeroExtend 64
  | .fp => BitVec.ofNat 64 (s.frameAddress f)
  | .fid => BitVec.ofNat 64 x.fid
  | .fxyz => BitVec.ofNat 64 (s.fxyz x)
  | .gx => BitVec.ofNat 64 (s.coordsOf f x).1
  | .gy => BitVec.ofNat 64 (s.coordsOf f x).2.1
  | .gz => BitVec.ofNat 64 (s.coordsOf f x).2.2
  | .launch => BitVec.ofNat 64 (s.launchValue x)
  | .ms => x.milestone.zeroExtend 64
  | .rkey => x.rkey
  | .rctr => x.rctr
  | .rep => BitVec.ofNat 64 x.rep
  | .flags => x.flags.zeroExtend 64
  | .preds => x.preds.zeroExtend 64
  | .cvi => BitVec.ofNat 64 (s.cvi f x)
  | .clock => BitVec.ofNat 64 (s.core x.core).clock

/-- R93. -/
def execGetsv (d : Dst) (sv : SpecialValue) (s : State) : Host.Outcome State Fault Refusal :=
  s.issueWith fun f x => .done (s.setFibre f (x.write d (s.special f x sv)))

/-- R108: the ends of a fibre's stack. -/
def stackBase : Nat := Config.windowBase + Config.stackOffset

/-- R108. -/
def Fibre.stackTop (x : Fibre) : Nat := stackBase + x.stackSize

/-- R92, R93: read-only values ignore a write; sp is checked, as a number of 64 bits (DESIGN CHOICE, assumption 104). -/
def execSetsv (a : Src) (sv : SpecialValue) (s : State) : Host.Outcome State Fault Refusal :=
  s.issueWith fun f x =>
    let v := x.read (s.bankOf x) a
    match sv with
    | .sp =>
      if v.toNat % 8 != 0 then .trap .align 0 0
      else if v.toNat < stackBase || v.toNat > x.stackTop then .trap .stack 0 0
      else .done (s.setFibre f { x with sp := v.setWidth 52 })
    | .rkey => .done (s.setFibre f { x with rkey := v })
    | .rctr => .done (s.setFibre f { x with rctr := v })
    | .flags => .done (s.setFibre f { x with flags := v.setWidth 6 })
    | .preds => .done (s.setFibre f { x with preds := v.setWidth 8 })
    | .fp | .fid | .fxyz | .gx | .gy | .gz | .launch | .ms | .rep | .cvi | .clock => .done s

end Sys2Proof.Machine
end

