-- ==== Sys2Proof/Machine/Frames.lean ====
section
/-! DEFINITION. Frame records and the frame area (R199-R202), the spill stack (R108-R110), spawn and await (R203-R209, R223-R225), and exit (R106). -/

namespace Sys2Proof.Machine

/-! ### The frame area -/

/-- The lowest base from which n slots are free (DESIGN CHOICE, assumption 7). -/
def firstFree (used : List (Nat × Nat)) (total n : Nat) : Option Nat :=
  (sortBy (fun a b => a ≤ b) (0 :: used.map fun u => u.1 + u.2)).find? fun b =>
    b + n ≤ total && !used.any fun u => u.1 < b + n && b < u.1 + u.2

/-- R199: the state of a record as byte 36 holds it. -/
def FrameState.code : FrameState → Nat
  | .task => 0 | .running => 1 | .parked => 2 | .saved => 3 | .resumable => 4 | .exiting => 5

/-- A bit as a number. -/
def bit (b : Bool) : Nat := if b then 1 else 0

/-- R199: the address of a slot of the frame area. -/
def State.slotAddress (s : State) (c slot : Nat) : Nat :=
  match s.contexts.get? c with
  | some k => k.desc.frameBase + 64 * slot
  | none => 0

/-- R296: the launch identity of a launch. -/
def State.identity (s : State) (l : Nat) : Nat :=
  match s.launches.get? l with
  | some k => k.slot
  | none => 0

/-- R199: the 64 bytes of a record. -/
def State.frameImage (s : State) (r : Frame) : List Byte :=
  let parent := match r.parent with
    | some p => (match s.frames.get? p with | some q => s.slotAddress q.context q.slot | none => 0)
    | none => 0
  let save := match r.saveSlot with
    | some b => s.slotAddress r.context b.1
    | none => r.save
  padTo 64 0
    (bytesOfNat 8 r.pc.toNat ++ bytesOfNat 8 parent ++ bytesOfNat 8 save ++ bytesOfNat 4 (s.identity r.launch) ++ bytesOfNat 4 r.pending ++
      bytesOfNat 2 r.ordinal ++ bytesOfNat 2 (if r.state = .task || r.detached then 0xFFFF else r.fid) ++
      [BitVec.ofNat 8 r.state.code, BitVec.ofNat 8 (bit r.detached + 2 * bit r.speculative + 4 * bit r.stay + 8 * bit r.exitWait),
        BitVec.ofNat 8 r.cls, BitVec.ofNat 8 r.depth] ++ bytesOfNat 2 r.core ++ [0, 0] ++ bytesOfNat 4 r.linear)

/-- R200: the device writes bytes of the frame area; no core keeps an older copy. -/
def State.frameWrite (s : State) (die c va : Nat) (bs : List Byte) : State :=
  match s.deviceLocate die c va with
  | none => s
  | some (pa, _, t) => (t.dropCopies pa (pa + bs.length)).deviceWriteRange die c va bs

/-- R200: set a record; its image is written to its slot. -/
def State.putFrame (s : State) (f : Nat) (r : Frame) : State :=
  { s with frames := s.frames.put f r }.frameWrite (dieOf r.core) r.context (s.slotAddress r.context r.slot) (s.frameImage r)

/-- Change a record that exists. -/
def State.updFrame (s : State) (f : Nat) (k : Frame → Frame) : State :=
  match s.frames.get? f with
  | some r => s.putFrame f (k r)
  | none => s

/-- R208: the fibre of a key, resident or saved out of Parked. -/
def State.anyFibre (s : State) (f : Nat) : Option Fibre :=
  match s.fibres.get? f with
  | some x => some x
  | none => (s.frames.get? f).bind (·.savedFibre)

/-- R208: change a fibre, resident or saved out of Parked. -/
def State.updAnyFibre (s : State) (f : Nat) (k : Fibre → Fibre) : State :=
  match s.fibres.get? f with
  | some x => s.setFibre f (k x)
  | none =>
    match s.frames.get? f with
    | some r => { s with frames := s.frames.put f { r with savedFibre := r.savedFibre.map k } }
    | none => s

/-- R208, R336: an engine operation of a fibre is over: a count falls, in the save area too when the fibre is saved out of Parked. -/
def State.operationOver (s : State) (f : Nat) (k : Fibre → Fibre) : State :=
  let s := s.updAnyFibre f k
  match s.fibres.get? f, s.frames.get? f with
  | none, some r =>
    match r.savedFibre, r.saveSlot with
    | some x, some b =>
      s.frameWrite (dieOf r.core) r.context (s.slotAddress r.context b.1 + 48) (bytesOfNat 2 x.counts.cp ++ bytesOfNat 2 x.counts.mx ++ bytesOfNat 2 x.counts.ry)
    | _, _ => s
  | _, _ => s

/-! ### Resources of a core -/

/-- R232: does a fibre hold resources of its core? -/
def Fibre.resident (x : Fibre) : Bool :=
  match x.life with
  | .saved _ _ | .gone => false
  | .placed | .ready | .stalled _ | .parked | .stopped _ _ | .exiting => true

/-- R233: does a group hold resources of its core? -/
def Group.resident (g : Group) : Bool :=
  match g.state with
  | .prologue | .running | .stopped => true
  | .waiting | .saved _ _ | .retired | .dropped => false

/-- The fibres resident on a core. -/
def State.fibresOn (s : State) (c : Nat) : List (Nat × Fibre) := s.fibres.filter fun e => e.2.core == c && e.2.resident

/-- The groups resident on a core. -/
def State.groupsOn (s : State) (c : Nat) : List (Nat × Group) := s.groups.filter fun e => e.2.core == c && e.2.resident

/-- R113: free run slots of a core. -/
def State.freeRuns (s : State) (c : Nat) : Nat := Config.runSlotsPerCore - ((s.fibresOn c).map fun e => e.2.quota).sum

/-- R179: bytes of scratchpad of a core at a boundary that leaves L1 so many steps. -/
def scratchBytes (l1 : Nat) : Nat := (16 - l1) * 65536

/-- R19, R78: the lowest slot of a core's register store that no resident fibre holds. (DESIGN CHOICE, assumption 7) -/
def State.fibreSlot (s : State) (c : Nat) : Nat :=
  let used := (s.fibresOn c).map fun e => e.2.windowBase
  ((List.range (used.length + 1)).find? fun i => !used.contains i).getD 0

/-- R178, R232: bytes of grants and stacks on a core. -/
def State.scratchUsed (s : State) (c : Nat) : Nat := ((s.groupsOn c).map fun e => e.2.grant).sum + ((s.fibresOn c).map fun e => e.2.stackSize).sum

/-- R204: can a core take one more fibre of a quota and stack? -/
def State.roomForFibre (s : State) (c quota stack : Nat) : Bool :=
  (s.fibresOn c).length < Config.fibresPerCore && quota ≤ s.freeRuns c && s.scratchUsed c + stack ≤ scratchBytes (s.core c).boundary

/-- R204: has a group room for one more member? -/
def State.roomInGroup (s : State) (g : Nat) : Bool := (s.members g).length < Config.fibresPerGroup

/-- R204: the lowest free group-relative index. -/
def State.freeIndex (s : State) (g : Nat) : Nat :=
  let used := (s.members g).map fun e => e.2.fid
  ((List.range (used.length + 1)).find? fun i => !used.contains i).getD 0

/-- R301: change the counter of a grid. -/
def State.gridCount (s : State) (l : Nat) (k : Nat → Nat) : State := s.updLaunch l fun x => { x with counter := k x.counter }

/-! ### Children -/

/-- R203: the state of a child that starts: from its record, on a core, in a group or detached. -/
def startedFibre (r : Frame) (quota window stack : Nat) (core : Nat) (group : Option Nat) (fid : Nat) : Fibre :=
  { context := r.context, launch := r.launch, group := group, core := core, fid := fid, life := .ready, pc := r.pc,
    ages := (Vector.replicate 16 0).set 0 (BitVec.ofNat 64 r.ordinal), window := window,
    named := Vector.ofFn fun i : Fin 32 => r.passed.getD i.val 0,
    vregs := Vector.replicate 16 [], masks := Vector.replicate 8 [], quota := quota, rkey := r.rkey, sp := BitVec.ofNat 52 (stackBase + stack),
    stackSize := stack, queues := Vector.replicate 4 none, bank := r.bank, lineage := r.lineage, milestone := r.milestone, cls := r.cls,
    speculative := r.speculative, acquired := addEdges core [] r.acquired }

/-- R203: what a kernel declares: quota, window and stack. -/
def State.declared (s : State) (l : Nat) : Nat × Nat × Nat :=
  match s.launches.get? l with
  | some k => (k.kernel.quota, k.kernel.window, k.kernel.stack)
  | none => (16, 1, 0)

/-- R447: is a group Stopped? -/
def State.groupStopped (s : State) (g : Option Nat) : Bool :=
  match g.bind s.groups.get? with
  | some k => k.state == .stopped
  | none => false

/-- R204, R206: start a Task record on a core, in a group or detached. -/
def State.startTask (s : State) (f : Nat) (r : Frame) (core : Nat) (group : Option Nat) : State :=
  let d := s.declared r.launch
  let fid := match group with
    | some g => s.freeIndex g
    | none => 0
  let x := startedFibre r d.1 d.2.1 d.2.2 core group fid
  let s := (s.holdOn core r.context).setFibre f
    { x with windowBase := s.fibreSlot core, life := if s.groupStopped group then x.life.halt else x.life }
  s.putFrame f { r with state := .running, fid := fid, core := core, detached := group.isNone, group := group, passed := [], acquired := [], bankSlot := none }

/-- R207: the copy of the bank that a spawn keeps in the frame area for its Task records. -/
def State.keepBank (s : State) (x : Fibre) (slot : Option Nat) : State :=
  match slot with
  | some b => s.frameWrite (dieOf x.core) x.context (s.slotAddress x.context b) ((s.bankOf x).toList.flatMap fun w => bytesOfNat 8 w.toNat)
  | none => s

/-- R203, R204: one child of the issuing fibre: it joins the group or becomes a Task record. -/
def State.spawnOne (s : State) (f : Nat) (x : Fibre) (p : Frame) (entry : BitVec 52) (pass t : Nat) (bankSlot : Option Nat) (e : Edge) : State :=
  let slot := (firstFree (s.usedSlots x.context ++ bankSlot.toList.map fun b => (b, 2)) (s.frameSlots x.context) 1).getD 0
  let r : Frame :=
    { context := x.context, slot := slot, pc := entry, parent := some f, launch := x.launch, ordinal := t, fid := 0, state := .task, cls := p.cls,
      depth := p.depth, core := x.core, linear := p.linear, order := s.fresh, speculative := x.speculative,
      passed := (List.range pass).map fun i => x.named.toList.getD i 0, rkey := x.rkey, bank := s.bankOf x, lineage := x.lineage ++ [t],
      milestone := x.milestone, group := x.group, acquired := [e] }
  let k := s.fresh
  let s := { s with fresh := s.fresh + 1 }
  match x.group with
  | some g =>
    let s := s.learn g [.fibre k] (· == .fibre f)
    if s.roomInGroup g && s.roomForFibre x.core x.quota x.stackSize then s.startTask k r x.core (some g)
    else ((s.keepBank x bankSlot).putFrame k { r with bankSlot := bankSlot }).gridCount x.launch (· + 1)
  | none => ((s.keepBank x bankSlot).putFrame k { r with bankSlot := bankSlot }).gridCount x.launch (· + 1)

/-- R223: the limits of a spawn word. -/
def spawnWordOk (w : Word) (window : Nat) : Bool :=
  bitsField w 16 48 = 0 && bitsField w 0 11 ≥ 1 && bitsField w 0 11 ≤ 1024 && bitsField w 11 5 ≤ 16 && bitsField w 11 5 ≤ window

/-- R224: has the frame area room for n records and one bank copy? -/
def State.frameRoom (s : State) (c n : Nat) : Bool :=
  s.takenSlots c + n + 2 ≤ s.frameSlots c && (firstFree (s.usedSlots c) (s.frameSlots c) 2).isSome

/-- R223, R224. -/
def execSpawn (a b : Src) (s : State) : Host.Outcome State Fault Refusal :=
  s.issueWith fun f x =>
    let entry := x.read (s.bankOf x) a
    let w := x.read (s.bankOf x) b
    let count := bitsField w 0 11
    match s.frames.get? f with
    | none => .done s
    | some p =>
      if entry.toNat % 4 != 0 then .trap .align entry 0
      else if entry.toNat ≥ 2 ^ 52 then .trap .translation entry 0
      else if !spawnWordOk w x.window || !s.frameRoom x.context count || p.pending + count > 2 ^ 32 - 1 then .trap .access 0 0
      else
        let bankSlot := firstFree (s.usedSlots x.context) (s.frameSlots x.context) 2
        let r := s.releaseOn x.core
        let t := (List.range count).foldl (fun t i => t.spawnOne f x p (entry.setWidth 52) (bitsField w 11 5) i bankSlot r.2) r.1
        .done (t.updFrame f fun q => { q with pending := q.pending + count })

/-- R225: the fibre goes on past an await: it acquires what its children released. -/
def State.passAwait (s : State) (f : Nat) : State :=
  match s.frames.get? f with
  | none => s
  | some r =>
    let s := match r.group with
      | some g => s.learn g [.fibre f] fun p => r.learned.any fun c => p == Party.fibre c
      | none => s
    (s.updAnyFibre f fun x => x.acquire r.acquired).putFrame f { r with acquired := [], learned := [] }

/-- R225. -/
def State.park (s : State) (stay : Bool) : Host.Outcome State Fault Refusal :=
  s.issueWith fun f x =>
    match s.frames.get? f with
    | none => .done s
    | some r =>
      if r.pending = 0 then .done (s.passAwait f)
      else
        let y := { x.commitQueues.advance with life := .parked, parkOrder := s.fresh }
        .leave ({ s.setFibre f y with fresh := s.fresh + 1 }.putFrame f { r with state := .parked, stay := stay, pc := y.pc })

/-- R225. -/
def execAwait (s : State) := s.park false
/-- R225. -/
def execAwaitStay (s : State) := s.park true

/-! ### Exit -/

/-- R106, R174, R209: the fibre ends. -/
def execExit (s : State) : Host.Outcome State Fault Refusal :=
  s.issueWith fun f x =>
    .leave ((s.setFibre f x.commitQueues).endFibre f)

/-! ### The stack -/

/-- Offsets on the stack, and the fibre's reads and writes there. -/
def Fibre.stackOffset (x : Fibre) : Nat := x.sp.toNat - stackBase

/-- R109: the registers that a mask selects, ascending. -/
def selected (a : Word) (n : Nat) : List Nat := (List.range n).filter a.getLsbD

/-- R109, R172: a mask bit outside the window, or for a bound queue register. -/
def Fibre.badSpillMask (x : Fibre) (a : Word) : Bool :=
  (selected a 32).any fun j => j ≥ x.window || (j ≥ 28 && (x.queues.toList.getD (j - 28) none).isSome)

/-- Lower sp by the length of bytes, and write them there; none below the base. An error found in them is gone. (DEDUCED, assumption 32) -/
def Fibre.pushBytes (x : Fibre) (bs : List Byte) : Option Fibre :=
  if bs.length > x.stackOffset then none
  else
    some
      { x with
        sp := x.sp - BitVec.ofNat 52 bs.length, stack := x.stack.writeBytes (x.stackOffset - bs.length) bs
        badStack := x.badStack.filter fun a => a + bs.length < x.stackOffset || x.stackOffset ≤ a }

/-- Raise sp by n: FLT_STACK above the top, FLT_ECC where a byte read holds an uncorrectable error (R27, R457). -/
def Fibre.popBytes (x : Fibre) (n : Nat) : Except FaultCode (List Byte × Fibre) :=
  if x.stackOffset + n > x.stackSize then .error .stack
  else if x.badStack.any fun a => x.stackOffset ≤ a && a < x.stackOffset + n then .error .ecc
  else .ok (x.stack.readBytes x.stackOffset n, { x with sp := x.sp + BitVec.ofNat 52 n })

/-- A change of the fibre, or a fault. -/
def spillResult (s : State) (f : Nat) (r : Except FaultCode Fibre) : Issue :=
  match r with
  | .ok y => .done (s.setFibre f y)
  | .error e => .trap e 0 0

/-- R109. -/
def execPushmN (a : Src) (s : State) : Host.Outcome State Fault Refusal :=
  s.issueWith fun f x =>
    let m := x.read (s.bankOf x) a
    if x.badSpillMask m then .trap .illegal 0 0
    else spillResult s f ((x.pushBytes ((selected m 32).flatMap fun j => bytesOfNat 8 (x.named.toList.getD j 0).toNat)).elim (.error .stack) .ok)

/-- R109. -/
def execPopmN (a : Src) (s : State) : Host.Outcome State Fault Refusal :=
  s.issueWith fun f x =>
    let m := x.read (s.bankOf x) a
    let rs := selected m 32
    if x.badSpillMask m then .trap .illegal 0 0
    else
      spillResult s f ((x.popBytes (8 * rs.length)).map fun r =>
        (List.range rs.length).foldl (fun y i => y.setNamed (rs.getD i 0) (wordFieldOf r.1 (8 * i))) r.2)

/-- R110: the record of a register. -/
def runRecord (r : Runs) : List Byte :=
  bytesOfNat 8 r.length ++ r.flatMap (fun x => bytesOfNat 8 x.value.toNat) ++
    padTo ((r.length + 7) / 8 * 8) 0 (r.map fun x => BitVec.ofNat 8 x.count)

/-- R110: the length of a record of k runs. -/
def recordLength (k : Nat) : Nat := 8 + 8 * k + (k + 7) / 8 * 8

/-- R109: the registers of a spill of vector or mask registers. -/
def spillTargets (mask : Bool) (m : Word) : List VDest :=
  if mask then (selected m 8).map fun i => VDest.m (Fin.ofNat 8 i) else (selected m 16).map fun i => VDest.v (Fin.ofNat 16 i)

/-- The runs of a register. -/
def Fibre.runsOf (x : Fibre) : VDest → Runs
  | .v i => x.vregs[i]
  | .m i => x.masks[i]

/-- R109: bit 0 for `.m` is illegal; bits that the form does not list are no mask bits. -/
def badRunMask (mask : Bool) (m : Word) : Bool := mask && m.getLsbD 0

/-- R109, R110: push run records. -/
def State.pushRuns (s : State) (mask : Bool) (a : Src) : Host.Outcome State Fault Refusal :=
  s.issueWith fun f x =>
    let m := x.read (s.bankOf x) a
    let ts := spillTargets mask m
    if badRunMask mask m then .trap .illegal 0 0
    else
      spillResult s f ((x.pushBytes (ts.flatMap fun d => runRecord (x.runsOf d))).elim (.error .stack) fun y =>
        .ok (ts.foldl (fun y d => y.setRuns d []) y))

/-- R110: read one record at sp: the runs; FLT_STACK where it is malformed or runs over the top. (DEDUCED, assumption 80) -/
def Fibre.popRecord (x : Fibre) : Except FaultCode (Runs × Fibre) :=
  match x.popBytes 8 with
  | .error e => .error e
  | .ok (h, _) =>
    let k := natOfBytes h
    if k > 64 then .error .stack
    else
      match x.popBytes (recordLength k) with
      | .error e => .error e
      | .ok (bs, y) =>
        let runs : Runs := (List.range k).map fun i => ⟨wordFieldOf bs (8 + 8 * i), fieldOf bs (8 + 8 * k + i) 1⟩
        if runs.any (fun r => r.count = 0 || r.count > 64) || runsLen runs > 64 ||
            !zeroBytes bs (8 + 9 * k) (recordLength k - (8 + 9 * k)) then .error .stack
        else .ok (runs, y)

/-- R109: pop a record for each register, lowest first. -/
def Fibre.popRecords (x : Fibre) : List VDest → Except FaultCode (List (VDest × Runs) × Fibre)
  | [] => .ok ([], x)
  | d :: ds =>
    match x.popRecord with
    | .error e => .error e
    | .ok (r, y) =>
      match Fibre.popRecords y ds with
      | .error e => .error e
      | .ok (rs, z) => .ok ((d, r) :: rs, z)

/-- R110: restore registers, when the restored occupancy fits the free quota, in which the runs that they held before count as free. (DESIGN CHOICE, assumption 106) -/
def Fibre.restoreRuns (x : Fibre) (rs : List (VDest × Runs)) : Except FaultCode Fibre :=
  let old := (rs.map fun e => x.occupancy e.1).sum
  if (rs.map fun e => e.2.length).sum > x.quota - (x.runsUsed - old) then .error .runOverflow
  else .ok (rs.foldl (fun y e => y.setRuns e.1 e.2) x)

/-- R109, R110: pop run records. -/
def State.popRuns (s : State) (mask : Bool) (a : Src) : Host.Outcome State Fault Refusal :=
  s.issueWith fun f x =>
    let m := x.read (s.bankOf x) a
    if badRunMask mask m then .trap .illegal 0 0
    else
      spillResult s f (match x.popRecords (spillTargets mask m) with
        | .error e => .error e
        | .ok r => r.2.restoreRuns r.1)

/-- R109. -/
def execPushmV (a : Src) (s : State) := s.pushRuns false a
/-- R109. -/
def execPushmM (a : Src) (s : State) := s.pushRuns true a
/-- R109, R110. -/
def execPopmV (a : Src) (s : State) := s.popRuns false a
/-- R109, R110. -/
def execPopmM (a : Src) (s : State) := s.popRuns true a

end Sys2Proof.Machine
end

