-- ==== Sys2Proof/Machine/Retire.lean ====
section
/-! DEFINITION. What ends: barriers released by a departure (R248), groups (R233, R267), phases of ordered grids (R268-R270, R306), grids (R301) and packets
(R318, R319, R323). -/

namespace Sys2Proof.Machine

/-! ### Sync additions of the device -/

/-- R484, R426: the checks of a sync word to which an engine or the device adds. -/
def State.locateWord (s : State) (die c : Nat) (ordered : Bool) (a : Word) (write : Bool) : Except FaultCode (Nat × Nat × State) :=
  let v := a.toNat
  if v % 32 != 0 then .error .align
  else if v ≥ 2 ^ 52 then .error .translation
  else if v ≥ Config.windowBase then .error .access
  else
    match s.deviceLocate die c v with
    | none => .error .translation
    | some (pa, leaf, t) =>
      if leafNode leaf != s.node && s.link.unreachable.contains (leafNode leaf) then .error .access
      else if write && (!leafWritable leaf || s.inDeviceArea c v 32) then .error .access
      else if ordered && leafOrdered leaf then .error .access
      else .ok (pa, leafComp leaf, t)

/-- R253, R256, R484: a checked addition; who observes the word knows what the engine operation that adds knew of its slice. -/
def State.engineAdd (s : State) (die c : Nat) (ordered : Bool) (a : Word) (n : Nat) (es : List Edge) (p : Option Party := none) : Except FaultCode State :=
  match s.locateWord die c ordered a true with
  | .error e => .error e
  | .ok (pa, comp, t) =>
    let t := t.addAtHome pa comp n (homeEdge :: es)
    .ok (match p with
      | some p => t.learnAll [.word pa] (· == p)
      | none => t)

/-- R332, R484: a kind-13 event about a launch. -/
def State.reportAddition (s : State) (launch linear : Nat) (code : FaultCode) : State := s.workEvent 13 code launch linear

/-! ### Packets -/

/-- R319, R323: the status with which a packet retires. -/
def lowestStatus (ss : List Nat) : Nat :=
  (ss.filter (· != 0)).foldl (fun m x => if m = 0 || x < m then x else m) 0

/-- R317: a packet's event flag. -/
def Packet.wantsEvent (p : Packet) : Bool := (fieldOf p.bytes 1 1).testBit 1

/-- R317: a packet's tag. -/
def Packet.tag (p : Packet) : BitVec 32 := BitVec.ofNat 32 (fieldOf p.bytes 4 4)

/-- R317: a packet's type. -/
def Packet.type (p : Packet) : Nat := fieldOf p.bytes 0 1

/-- R317: a packet's barrier flag. -/
def Packet.barrier (p : Packet) : Bool := (fieldOf p.bytes 1 1).testBit 0

/-- R317: reserved bytes of the packet types, and the rules that their descriptions call legal. (DEDUCED, assumption 55) (DEDUCED, assumption 81) -/
def packetLegal (bs : List Byte) : Bool :=
  let addr := fieldOf bs 8 8
  let sync := fieldOf bs 24 8
  fieldOf bs 1 1 < 4 && zeroBytes bs 2 2 &&
    match fieldOf bs 0 1 with
    | 1 => zeroBytes bs 9 3
    | 2 => zeroBytes bs 40 24 && addr % 8 = 0 && (sync = 0 || (sync % 32 = 0 && 1 ≤ fieldOf bs 32 8 && fieldOf bs 32 8 ≤ 2 ^ 62))
    | 3 => zeroBytes bs 20 44 && addr % 32 = 0
    | 4 => zeroBytes bs 16 48 && addr % 8 = 0
    | 5 => fieldOf bs 8 1 ≤ 2 && zeroBytes bs 9 7 && zeroBytes bs 24 40
    | 6 | 7 => zeroBytes bs 8 56
    | _ => false

/-- R318: must a packet wait for every earlier one to have retired? An illegal one retires at once (R317). -/
def Packet.waitsEarlier (p : Packet) : Bool := packetLegal p.bytes && (p.barrier || p.type = 2 || p.type = 4)

/-- R318, R325: may the next packet of a queue start, as its earlier ones go? -/
def Queue.next (q : Queue) : Option Packet :=
  match q.packets.find? fun p => !p.started with
  | none => none
  | some p =>
    let earlier := q.packets.filter (·.started)
    if earlier.any (fun o => o.type = 3) || (p.waitsEarlier && !earlier.isEmpty) then none else some p

/-- R327: with every packet copied and retired, an Active or Blocked queue is Idle; it is Blocked while its next packet waits. -/
def Queue.settled (q : Queue) : Queue :=
  match q.state with
  | .active | .blocked =>
    if q.packets.isEmpty && q.bellRead = q.consumed then { q with state := .idle }
    else { q with state := if q.packets.any (fun p => !p.started || p.type = 3) && q.next.isNone then .blocked else .active }
  | .idle | .descheduled _ | .halted => q

/-- R316: a plain write of the device, refused where an ordinary store would be; nothing is written then. (DEDUCED, assumption 125) -/
def State.plainWrite (s : State) (c va : Nat) (bs : List Byte) : State :=
  if va ≥ Config.windowBase then s
  else
    match s.deviceLocate 0 c va with
    | none => s
    | some (_, leaf, _) => if leafWritable leaf && !s.inDeviceArea c va bs.length then s.deviceWrite 0 c va bs else s

/-- R316: the device writes the allowance word. -/
def State.writeAllowance (s : State) (q : Nat) : State :=
  match s.queues.get? q with
  | none => s
  | some k =>
    let v := k.consumed + BitVec.ofNat 64 (2 ^ k.lsize)
    let s := s.setQueue q { k with allowed := k.consumed }
    if k.device then s.plainWrite k.context k.allow.toNat (bytesOfNat 8 v.toNat)
    else { s with host := s.host.writeNat k.allow.toNat 8 v.toNat }

/-- R333: a Running context without an Active or Blocked queue, and without anything resident, is Loaded. -/
def State.restContext (s : State) (c : Nat) : State :=
  match s.contexts.get? c with
  | none => s
  | some k =>
    let busy := (s.queues.any fun e => e.2.context == c && (e.2.state == .active || e.2.state == .blocked)) || (s.launches.any fun e => e.2.context == c) ||
      s.jobs.any fun e => e.2.context == c
    if k.state = .running && !busy then s.setContext c { k with state := .loaded, lastRun := s.time } else s

/-- R316, R327, R333: a queue whose packets have changed: one that becomes Idle has its allowance written, and its context may be Loaded. -/
def State.settleQueue (s : State) (q : Nat) : State :=
  match s.queues.get? q with
  | none => s
  | some k =>
    let s := s.setQueue q k.settled
    let s := if k.settled.state = .idle && k.state != .idle then s.writeAllowance q else s
    s.restContext k.context

/-- R319, R323: a packet retires with a status; its releases are kept for the packets behind it (R318). -/
def State.retirePacket (s : State) (q n : Nat) : State :=
  match s.queues.get? q with
  | none => s
  | some k =>
    match k.packets.find? fun p => p.number == n with
    | none => s
    | some p =>
      let s := s.setQueue q { k with packets := k.packets.filter fun o => o.number != n, acquired := addEdges 193 k.acquired p.acquired }
      let s :=
        if p.wantsEvent then
          s.queueEvent q { kind := 4, status := lowestStatus p.statuses, tag := p.tag, low := BitVec.ofNat 32 p.identity, acquired := p.acquired }
        else s
      s.settleQueue q

/-- R323: has a packet's work all ended? -/
def PacketParts.over (p : PacketParts) : Bool := p.launch.isNone && p.stream.isNone && p.copies.isNone && p.reuse.isNone

/-- R323: a part of a packet has changed; a started packet without parts left retires. -/
def State.packetPart (s : State) (q n : Nat) (k : Packet → Packet) : State :=
  let s := s.updQueue q fun u => { u with packets := u.packets.map fun p => if p.number = n then k p else p }
  match (s.queues.get? q).bind fun u => u.packets.find? fun p => p.number == n with
  | some p => if p.started && p.parts.over then s.retirePacket q n else s
  | none => s

/-! ### Grids -/

/-- R297, R346: the die on which the device works for a launch: a child grid's, or that of the first group of a root grid. -/
def State.launchDie (s : State) (l : Nat) : Nat := ((s.launches.get? l).bind (·.child)).getD (s.diesUp.headD 0)

/-- R301, R330: the event of a grid or launch. -/
def State.gridEvent (s : State) (kind : Nat) (l : Launch) : State :=
  s.queueEvent l.queue { kind := kind, tag := l.tag, low := BitVec.ofNat 32 l.slot, acquired := l.acquired }

/-- R301: a grid whose counter is 0, and that is resolved, retires: done word, events, its launcher's counter, its packet; what follows knows what its fibres knew
(R212). `fuel` bounds the depth. -/
def State.gridRetire (s : State) (l fuel : Nat) : State :=
  match fuel with
  | 0 => s
  | fuel + 1 =>
    match s.launches.get? l with
    | none => s
    | some k =>
      if k.counter != 0 || !k.resolved || !k.buffered.isEmpty then s
      else
        let die := s.launchDie l
        let added := if k.record.done = 0 then .ok s else s.engineAdd die k.context (k.kernel.ordered || k.task.isSome) k.record.done 1 k.acquired (some (.grid l))
        let status := match added with
          | .ok _ => 0
          | .error _ => 7
        let s := match added with
          | .ok t => t
          | .error e => if k.parent.isSome then s.reportAddition l 0 e else s
        let s := if k.record.events.testBit 1 then s.gridEvent 2 k else s
        let s := if k.record.events.testBit 2 then s.gridEvent 3 k else s
        let s := { s with launches := s.launches.del l }
        match k.parent with
        | some p =>
          let s := s.learnAll [.grid p.2] (· == .grid l)
          (s.updLaunch p.2 fun u => { u with counter := u.counter - 1, acquired := addEdges 193 u.acquired (homeEdge :: k.acquired) }).gridRetire p.2 fuel
        | none =>
          s.packetPart k.queue k.packet fun p =>
            { p with
              statuses := p.statuses ++ [status], parts := { p.parts with launch := none },
              acquired := addEdges 193 p.acquired (homeEdge :: k.acquired) }

/-! ### Phases -/

/-- R268: the groups of an ordered grid of one phase, by linear index. -/
def Launch.inPhase (l : Launch) (t : Nat) : Bool := t / l.record.width == l.phase

/-- R268: the tasks of a launch. -/
def Launch.tasks (l : Launch) : Nat := l.record.x * l.record.y * l.z

/-- R269, R270: does some fibre, record, group or child grid of the current phase remain? -/
def State.phaseBusy (s : State) (lk : Nat) (l : Launch) : Bool :=
  (s.groups.any fun e => e.2.launch == lk && l.inPhase e.2.linear && e.2.state != .retired && e.2.state != .dropped) ||
    (s.frames.any fun e =>
      (e.2.launch == lk && l.inPhase e.2.linear) ||
        (match s.launches.get? e.2.launch with
        | some c => (match c.task with | some t => t.1 == lk && l.inPhase t.2 | none => false)
        | none => false)) ||
    s.launches.any fun e => match e.2.task with
      | some t => t.1 == lk && l.inPhase t.2
      | none => false

/-- R306: may the current phase of a predicted launch commit before resolution? -/
def Launch.phaseCommitted (l : Launch) : Bool :=
  l.resolved || (l.phase + 1) * l.record.width ≤ l.record.zmin * l.record.x * l.record.y

/-- R269: lineage order: lexicographic, a key before every key it prefixes. -/
def keyBefore : List Nat → List Nat → Bool
  | [], _ => true
  | _ :: _, [] => false
  | a :: as, b :: bs => if a = b then keyBefore as bs else a < b

/-- R270: buffered operations in ascending task, lineage and program order. -/
def bufferOrder (bs : List Buffered) : List Buffered :=
  sortBy (fun a b => if a.task = b.task then keyBefore a.lineage b.lineage else a.task < b.task) bs

/-- R270: apply one buffered operation at its home. -/
def State.applyBuffered (s : State) (op : PendOp) : State :=
  match op with
  | .store ws _ =>
    ws.foldl (fun s w => match w.1 with
      | .mem pa comp _ _ _ => (s.writeHome comp (addressed pa w.2)).sendHome ((List.range w.2.length).map (pa + ·))
      | .slice _ | .grant _ => s) s
  | .ared (.mem pa comp _ _ _) k => s.updateHome pa k.size comp k.newBytes
  | .ared _ _ | .load _ _ _ | .loadVec _ _ _ _ | .loadBlock _ _ _ _ | .atom _ _ | .syncInit _ _ | .syncAdd _ _ | .query _ | .value _ _ | .bind _ _ | .rsLoad _ _ | .rsStore _ _ _ => s

/-- Write every dirty byte back: what the next phase finds in memory. -/
def State.writeBackAll (s : State) : State := (s.cores.keys fun _ _ => true).foldl (fun s c => s.writeBack c fun _ _ => true) s

/-- R270: the current phase of an ordered grid commits once nothing of it remains: its operations are applied, and the next phase begins. `fuel` bounds the
phases that are empty. -/
def State.commitPhase (s : State) (lk fuel : Nat) : State :=
  match fuel with
  | 0 => s
  | fuel + 1 =>
    match s.launches.get? lk with
    | none => s
    | some l =>
      if !l.kernel.ordered || l.task.isSome || s.phaseBusy lk l || !l.phaseCommitted || l.phase * l.record.width ≥ l.tasks then s
      else
        let now := l.buffered.filter fun b => l.inPhase b.task
        let s := (bufferOrder now).foldl (fun s b => s.applyBuffered b.op) s.writeBackAll
        let l := { l with phase := l.phase + 1, buffered := l.buffered.filter fun b => !l.inPhase b.task, phaseMem := s.home,
                          acquired := addEdges 193 l.acquired [homeEdge] }
        let s := s.setLaunch lk l
        let s := { s with groups := s.groups.mapAll fun _ g =>
          if g.launch = lk && l.inPhase g.linear then { g with since := s.time, acquired := addEdges 193 g.acquired (homeEdge :: l.acquired) } else g }
        (s.commitPhase lk fuel)

/-- R268, R301: after something of a launch has ended: phases, then the grid. -/
def State.launchProgress (s : State) (lk : Nat) : State :=
  let owner := match s.launches.get? lk with
    | some l => (match l.task with | some t => t.1 | none => lk)
    | none => lk
  let s := s.gridRetire lk 16
  let s := s.commitPhase owner 4096
  s.gridRetire owner 16

/-! ### Guards of a dying group (R265, R267) -/

/-- R437: a stamped copy command is over. -/
def State.markCopyDone (s : State) (c : CopyCommand) (discarded faulted : Bool) : State :=
  match c.stamped with
  | none => s
  | some (k, cin) =>
    s.updMark k fun m =>
      { m with
        cinDone := if cin then some s.time else m.cinDone, coutDone := if cin then m.coutDone else some s.time, pending := m.pending - 1,
        discarded := m.discarded || discarded, faulted := m.faulted || faulted }

/-- R437: a stamped matrix command is Done or discarded. -/
def State.markMatrixDone (s : State) (c : MatrixCommand) (discarded : Bool) : State :=
  match c.stamped with
  | none => s
  | some k => s.updMark k fun m => { m with mxDone := some s.time, pending := m.pending - 1, discarded := m.discarded || discarded }

/-- R265: the fibre whose count an engine command holds. -/
def State.commandOver (s : State) (f : Option Nat) (k : CountClass) : State :=
  match f with
  | some f => s.operationOver f fun x => x.countDown k
  | none => s

/-- R265: a copy command is discarded. -/
def State.dropCopy (s : State) (c : CopyCommand) : State := (s.commandOver c.fibre .cp).markCopyDone c true false

/-- R276: a matrix command is discarded. -/
def State.dropMatrix (s : State) (c : MatrixCommand) : State := (s.commandOver c.fibre .mx).markMatrixDone c true

/-- R265: does a command, that may have found its slot True, wait on an Open slot? -/
def Group.waitsOpen (g : Group) (gd : Guard) (passed : Bool) : Bool :=
  match gd with
  | some i => !passed && g.guards[i] == .open_
  | none => false

/-- R267: do all of a group's outstanding commands wait on Open slots? -/
def Group.onlyWaits (g : Group) : Bool :=
  g.copies.all (fun c => c.started.isNone && g.waitsOpen c.guard c.passed) && g.matrix.all fun c => c.started.isNone && g.waitsOpen c.guard c.passed

/-- R267: with every member Exiting, no `gset` on its way, and only commands on Open slots outstanding, those commands are discarded. -/
def State.discardGuarded (s : State) (g : Nat) : State :=
  match s.groups.get? g with
  | none => s
  | some k =>
    let ms := s.members g
    let idle := k.guardWrites.isEmpty && ms.all fun e => e.2.life == .exiting && e.2.pend.isEmpty && e.2.rays.isEmpty
    if idle && k.onlyWaits then
      let s := k.copies.foldl State.dropCopy s
      let s := k.matrix.foldl State.dropMatrix s
      s.setGroup g { k with copies := [], matrix := [] }
    else s

/-! ### Barriers (R248) -/

/-- R212, R280: fibres of a group meet: each one's past precedes every one's next unit. -/
def State.meet (s : State) (g : Nat) (fs : List Nat) : State :=
  s.learn g (fs.map .fibre) fun p => fs.any fun f => p == Party.fibre f

/-- R248: the fibre goes on past the instruction at which it waited. -/
def State.passWait (s : State) (f : Nat) : State :=
  match s.fibres.get? f with
  | some x => (s.setFibre f x.commitQueues.advance.wake).unitOver f x
  | none => s

/-- R463: at a barrier the stores that a core holds to compressible pages reach their tiles. (DEDUCED, assumption 124) -/
def State.tilesHome (s : State) (core : Nat) : State := s.writeBackIf core fun _ b => b.comp != 0

/-- R248: barrier `id` of a group releases if every member has arrived. -/
def State.releaseBarrier (s : State) (g : Nat) (id : Fin 16) : State :=
  match s.groups.get? g with
  | none => s
  | some k =>
    let b := k.barriers[id]
    let ms := s.members g
    if !b.arrivals.isEmpty && ms.all fun e => b.arrivals.contains e.1 then
      let s := s.setGroup g { k with barriers := k.barriers.set id.val { phase := b.phase + 1, arrivals := [] } }
      (b.arrivals.foldl State.passWait (s.tilesHome k.core)).meet g b.arrivals
    else s

/-- R248: a member has left: barriers may release. -/
def State.releaseBarriers (s : State) (g : Nat) : State := (List.finRange 16).foldl (fun s id => s.releaseBarrier g id) s

/-! ### Groups -/

/-- R291: the error record is written at retire, to the next slot of the error area. (DEDUCED, assumption 28) -/
def State.writeErrorRecord (s : State) (g : Group) : State :=
  match s.contexts.get? g.context with
  | none => s
  | some c =>
    if c.desc.errorSize = 0 then s
    else
      let slot := c.errorSlots % (c.desc.errorSize / 64)
      (s.setContext g.context { c with errorSlots := c.errorSlots + 1 }).deviceWrite g.die g.context (c.desc.errorBase + 64 * slot) (padTo 64 0 g.errorRecord)

/-- R301, R304: an event of a group; of a speculative group it is held until resolution. -/
def State.groupEvent (s : State) (g : Group) : State :=
  match s.launches.get? g.launch with
  | none => s
  | some l =>
    if !l.record.events.testBit 0 then s
    else
      let e : Event := { kind := 1, tag := l.tag, low := BitVec.ofNat 32 l.slot, high := BitVec.ofNat 32 g.linear, acquired := l.acquired }
      if g.speculative then s.setLaunch g.launch { l with deferred := l.deferred ++ [(g.linear, true, e)] } else s.queueEvent l.queue e

/-- R233: a Running group without members, and without commands that can still run, retires (DEDUCED, assumption 85). A speculative one is counted at resolution
(R304), but its error record is written now (DESIGN CHOICE, assumption 121). -/
def State.retireGroup (s : State) (g : Nat) : State :=
  match s.groups.get? g with
  | none => s
  | some k =>
    let live := (s.members g).isEmpty && k.state == .running
    let ended := (k.guardWrites.isEmpty || (k.copies.isEmpty && k.matrix.isEmpty)) && k.onlyWaits
    if !live || !ended then s
    else
      let s := k.copies.foldl State.dropCopy s
      let s := k.matrix.foldl State.dropMatrix s
      let s := ((s.writeErrorRecord k).groupEvent k).traceGroup g 7
      if k.speculative then
        s.setGroup g { k with state := .retired, copies := [], matrix := [], slice := [], accumulators := [], uncovered := [], produced := [], doneMatrix := [] }
      else ({ s with groups := s.groups.del g }.gridCount k.launch (· - 1)).launchProgress k.launch

/-- R231: a fibre has left its group. -/
def State.memberLeft (s : State) (g : Nat) : State := (s.releaseBarriers g).retireGroup g

end Sys2Proof.Machine
end

