-- ==== Sys2Proof/Machine/Life.lean ====
section
/-! DEFINITION. The life of a fibre outside its own units: Gone, parked and resumed, records started and stolen, fibres saved out of Parked (R80,
R199-R210), and stalls that clear (R79, R80). -/

namespace Sys2Proof.Machine

/-- R80, R261: after an await, a parked fibre whose children are all Gone resumes, or exits if it was exiting; a saved one becomes Resumable (R201). -/
def State.resumeParked (s : State) (f : Nat) : State :=
  match s.frames.get? f with
  | none => s
  | some r =>
    if r.pending != 0 then s
    else
      match r.state with
      | .saved => s.putFrame f { r with state := .resumable, order := s.fresh }
      | .parked =>
        let next : Life := if r.exitWait then .exiting else .ready
        let s := s.passAwait f
        let s := s.updFibre f fun x =>
          { x with life := match x.life with
            | .parked => if s.groupStopped x.group then next.halt else next
            | .saved w _ => .saved w false
            | .stopped w _ => .stopped w false
            | .placed | .ready | .stalled _ | .exiting | .gone => x.life }
        ((s.updFrame f fun q => { q with state := if q.exitWait then .exiting else .running, stay := false }).closeExiting f).takeStep f
      | .task | .running | .resumable | .exiting => s

/-- R201, R212: a child has reached Gone: its parent's pending count falls, and the parent will acquire what the child released. -/
def State.childGone (s : State) (child : Nat) (parent : Option Nat) (es : List Edge) : State :=
  match parent with
  | none => s
  | some p => (s.updFrame p fun r => { r with pending := r.pending - 1, acquired := addEdges 193 r.acquired es, learned := r.learned ++ [child] }).resumeParked p

/-- R80: are the outstanding counters of a fibre zero? -/
def Fibre.countsZero (x : Fibre) : Bool := x.counts == ({} : Counters) && x.pend.isEmpty

/-- R80: an Exiting fibre whose counters are zero is Gone: its slots are freed, its parent, its group and what follows its grid learn of it. -/
def State.goneFibre (s : State) (f : Nat) (x : Fibre) : State :=
  let r := s.releaseOn x.core
  let s := r.1
  let frame := s.frames.get? f
  let s := s.learnAll [.grid x.launch] (· == .fibre f)
  let s := { s with fibres := s.fibres.del f, frames := s.frames.del f }
  let s := s.updLaunch x.launch fun l => { l with acquired := addEdges 193 l.acquired [r.2] }
  let s := s.childGone f (frame.bind (·.parent)) [r.2]
  match x.group with
  | some g => (s.memberLeft g).launchProgress x.launch
  | none => (s.gridCount x.launch (· - 1)).launchProgress x.launch

/-- R80, R267. What an exit under R209 acquired is reconciled first (R216). -/
def execFibreGone (f : Nat) (s : State) : Host.Outcome State Fault Refusal :=
  match s.fibres.get? f with
  | none => .next s
  | some x =>
    if x.life != .exiting then .next s
    else
      let s := match x.group with
        | some g => s.discardGuarded g
        | none => s
      match s.fibres.get? f with
      | none => .next s
      | some x => if x.countsZero && x.acquired.isEmpty then .next ((s.reportCopyFault f x).goneFibre f x) else .next s

/-! ### Records that start -/

/-- R333: does a context run? -/
def State.contextRuns (s : State) (c : Nat) : Bool :=
  match s.contexts.get? c with
  | some k => k.state == .running
  | none => false

/-- R206: the records of a core that can be started or stolen, in creation order. -/
def State.startable (s : State) (c : Nat) : List (Nat × Frame) :=
  sortBy (fun a b => a.2.order ≤ b.2.order)
    (s.frames.filter fun e => e.2.core == c && (e.2.state == .task || e.2.state == .resumable) && s.contextRuns e.2.context)

/-- R204, R206: the quota and stack that a record needs. -/
def State.recordNeeds (s : State) (r : Frame) : Nat × Nat :=
  match r.savedFibre with
  | some x => (x.quota, x.stackSize)
  | none => let d := s.declared r.launch; (d.1, d.2.2)

/-- R206: the group that a Task record joins: its parent's, when the parent is resident on the core and attached, and the group has room. -/
def State.joins (s : State) (core : Nat) (r : Frame) : Option Nat :=
  match r.parent.bind fun p => s.fibres.get? p with
  | some p =>
    match p.group with
    | some g => if p.core = core && p.resident && s.roomInGroup g then some g else none
    | none => none
  | none => none

/-- R201, R206, R207: start a record on a core; `steal` starts it detached. A fibre that waited to exit goes on to Exiting. -/
def State.startRecord (s : State) (core f : Nat) (r : Frame) (steal : Bool) : State :=
  let need := s.recordNeeds r
  if !s.roomForFibre core need.1 need.2 then s
  else
    match r.savedFibre with
    | some x =>
      let y := { x with life := if r.exitWait then .exiting else .ready, core := core, windowBase := s.fibreSlot core, acquired := addEdges core x.acquired r.acquired }
      (((s.holdOn core r.context).setFibre f y).putFrame f
        { r with
          state := if r.exitWait then .exiting else .running, core := core, detached := true, group := none, savedFibre := none, saveSlot := none,
          acquired := [] }).closeExiting f
    | none =>
      match if steal then none else s.joins core r with
      | some g => (s.startTask f r core (some g)).gridCount r.launch (· - 1)
      | none => s.startTask f r core none

/-- R25, R455: is a core in service? -/
def State.coreLive (s : State) (c : Nat) : Bool := c < 192 && !s.fences.contains (.core c) && s.diesUp.contains (dieOf c)

/-- R457: may work be placed on a core: in service, and not under a targeted self-test? -/
def State.coreOpen (s : State) (c : Nat) : Bool := s.coreLive c && !s.platform.testing.contains (.core c)

/-- R206, R25: the Task and Resumable records of a core start in one order. (DESIGN CHOICE, assumption 115) -/
def execTaskStart (core : Nat) (s : State) : Host.Outcome State Fault Refusal :=
  match s.startable core with
  | [] => .next s
  | e :: _ => .next (if s.coreOpen core then s.startRecord core e.1 e.2 false else s)

/-- R206: the records of a core and context that can be started or stolen, in creation order. -/
def State.startableOf (s : State) (c context : Nat) : List (Nat × Frame) := (s.startable c).filter fun e => e.2.context == context

/-- R14: the cores of a die. -/
def coresOf (die : Nat) : List Nat := (List.range Config.coresPerDie).map fun i => die * Config.coresPerDie + i

/-- R206: the records of a context that a core may steal: those of the other cores of its die, in creation order. (DEDUCED, assumption 91) -/
def State.stealable (s : State) (thief context : Nat) : List (Nat × Frame) :=
  sortBy (fun a b => a.2.order ≤ b.2.order) ((coresOf (dieOf thief)).flatMap fun c => if c = thief then [] else s.startableOf c context)

/-- R206, R216: a core without records of a context steals the oldest of the other cores of its die: a release there, an acquire here. (DEDUCED, assumption 91) -/
def execRecordSteal (thief context : Nat) (s : State) : Host.Outcome State Fault Refusal :=
  match s.stealable thief context with
  | [] => .next s
  | e :: _ =>
    if !s.coreOpen thief || !(s.startableOf thief context).isEmpty then .next s
    else
      let r := s.releaseOn e.2.core
      .next (r.1.startRecord thief e.1 { e.2 with acquired := addEdges thief e.2.acquired [r.2] } true)

/-! ### Saves out of Parked -/

/-- R208: the parked fibres of a core that may be saved, the earliest first. -/
def State.savable (s : State) (c : Nat) : List (Nat × Fibre) :=
  sortBy (fun a b => a.2.parkOrder ≤ b.2.parkOrder) ((s.fibresOn c).filter fun e =>
    e.2.life == .parked && (match s.frames.get? e.1 with | some r => r.state == .parked && !r.stay && r.pending > 0 | none => false))

/-- R336: the slots of a save area. -/
def saveSlots (x : Fibre) : Nat := (1136 + 9 * x.quota + 63) / 64 + (x.stackSize + 63) / 64

/-- R235: does a group of a launch fit a core, not counting some of its fibres? -/
def State.fitsCore (s : State) (l : Launch) (c : Nat) (grantSteps : Nat) (without : List Nat) : Bool :=
  let n := l.kernel.gx * l.kernel.gy * l.kernel.gz
  let fs := (s.fibresOn c).filter fun e => !without.contains e.1
  let gs := s.groupsOn c
  let used := (gs.map fun e => e.2.grant).sum + (fs.map fun e => e.2.stackSize).sum
  s.coreOpen c && gs.length < Config.groupsPerCore && fs.length + n ≤ Config.fibresPerCore &&
    (fs.map fun e => e.2.quota).sum + n * l.kernel.quota ≤ Config.runSlotsPerCore &&
    used + grantSteps * 65536 + n * l.kernel.stack ≤ scratchBytes (s.core c).boundary && (gs.map fun e => e.2.units).sum + l.record.units ≤ 192

/-- R270, R268: may a Waiting group be placed now, as its phase goes? -/
def State.phaseOpen (s : State) (g : Group) : Bool :=
  match s.launches.get? g.launch with
  | some l => !l.kernel.ordered || l.task.isSome || l.inPhase g.linear
  | none => false

/-- R234: the Waiting groups of a die, in placement order. -/
def State.waiting (s : State) (die : Nat) : List (Nat × Group) :=
  let order (e : Nat × Group) : Nat := match s.launches.get? e.2.launch with
    | some l => l.order
    | none => 0
  sortBy (fun a b => a.2.cls > b.2.cls || (a.2.cls = b.2.cls && (order a < order b || (order a = order b && a.2.linear ≤ b.2.linear))))
    (s.groups.filter fun e => e.2.die == die && e.2.state == .waiting && s.contextRuns e.2.context && s.phaseOpen e.2)

/-- The core of least count, ties to the first. -/
def leastBy (count : Nat → Nat) : List Nat → Option Nat
  | [] => none
  | c :: cs =>
    match leastBy count cs with
    | none => some c
    | some d => if count d < count c then some d else some c

/-- R234: the core on which a group of a launch is placed: the fitting one with the fewest resident fibres. -/
def State.placeOn (s : State) (l : Launch) (die grantSteps : Nat) : Option Nat :=
  leastBy (fun c => (s.fibresOn c).length) ((coresOf die).filter fun c => s.fitsCore l c grantSteps [])

/-- R208: does a core save parked fibres: for a record of its own, or for the first Waiting group of the die? -/
def State.mustSave (s : State) (c : Nat) : Bool :=
  let forRecord := match s.startable c with
    | [] => false
    | e :: _ => let n := s.recordNeeds e.2; !s.roomForFibre c n.1 n.2
  let forGroup := match s.waiting (dieOf c) with
    | [] => false
    | e :: _ =>
      match s.launches.get? e.2.launch with
      | none => false
      | some l =>
        let parked (d : Nat) : List Nat := (s.savable d).map (·.1)
        (s.placeOn l (dieOf c) l.kernel.smin).isNone &&
          leastBy (fun d => (s.fibresOn d).length - (parked d).length)
            ((coresOf (dieOf c)).filter fun d => s.fitsCore l d l.kernel.smin (parked d)) == some c
  forRecord || forGroup

/-- R200, R208: the place of a fibre's save area in the frame area, beside the records, the areas and the spilled buffers there. -/
def State.saveRoom (s : State) (x : Fibre) : Option Nat :=
  if s.takenSlots x.context + saveSlots x ≤ s.frameSlots x.context then firstFree (s.usedSlots x.context) (s.frameSlots x.context) (saveSlots x) else none

/-- R201, R207, R208: the earliest parked fibre of a core is saved to the frame area: it leaves its group and frees its slot. -/
def State.saveParked (s : State) (f : Nat) (x : Fibre) (image : List Byte) : State :=
  match s.frames.get? f, s.saveRoom x with
  | some r, some base =>
    let e := s.releaseOn x.core
    let saved := { x with group := none, bank := s.bankOf x, life := .ready, hints := {} }
    let s := { e.1 with fibres := e.1.fibres.del f }
    let s := s.putFrame f
      { r with state := .saved, savedFibre := some saved, saveSlot := some (base, saveSlots x), detached := true, group := none,
               acquired := addEdges 193 r.acquired [e.2], pc := x.pc }
    let s := s.frameWrite (dieOf x.core) x.context (s.slotAddress x.context base) image
    match x.group with
    | some g => (s.gridCount x.launch (· + 1)).memberLeft g
    | none => s
  | _, _ => s

/-- R336: the bytes of a save area, up to the stack: registers, counts, trap state, bindings and run records. -/
def Fibre.saveHead (x : Fibre) (bank : Vector Word 16) : List Byte :=
  let w (v : Word) := bytesOfNat 8 v.toNat
  let h := x.trap.inHandler
  let queue (q : Option QueueBinding) : List Byte := match q with
    | some b => padTo 32 0 b.desc ++ w b.index
    | none => List.replicate 40 0
  w (x.unit.zeroExtend 64) ++ [x.preds, BitVec.ofNat 8 x.rep, BitVec.ofNat 8 x.window, BitVec.ofNat 8 (x.quota / 16)] ++ bytesOfNat 4 x.stackSize ++
    w (x.sp.zeroExtend 64) ++ w (x.flags.zeroExtend 64) ++ w x.rkey ++ w x.rctr ++ bytesOfNat 2 x.counts.cp ++ bytesOfNat 2 x.counts.mx ++
    bytesOfNat 2 x.counts.ry ++ [BitVec.ofNat 8 (bit h), 0] ++ bytesOfNat 8 (x.trap.unit.toNat + 2 ^ 52 * x.trap.rep.toNat) ++
    x.ages.toList.flatMap w ++ bank.toList.flatMap w ++ ((List.range 32).flatMap fun j => if j < x.window then w (x.named.toList.getD j 0) else w 0) ++
    x.queues.toList.flatMap queue ++
    (if h then w (x.trap.code.zeroExtend 64) ++ w x.trap.addr ++ w x.trap.info ++ List.replicate 8 0 else List.replicate 32 0) ++
    x.vregs.toList.flatMap runRecord ++ (x.masks.toList.drop 1).flatMap runRecord

/-- R336: the whole save area. -/
def Fibre.saveArea (x : Fibre) (bank : Vector Word 16) : List Byte :=
  let h := x.saveHead bank
  padTo ((h.length + 63) / 64 * 64) 0 h ++ x.stack.readBytes 0 x.stackSize

/-! ### Stalls that clear -/

/-- R263, R283: is a limit kept? One of 4,095 or more bounds nothing. -/
def within (limit : Option Nat) (n : Nat) : Bool :=
  match limit with
  | some l => n ≤ l || l ≥ 4095
  | none => true

/-- R264, R282, R381: does a wait with limits cover an engine operation of a fibre? Of copy and matrix commands, all but the last so many that it issued; of
rays, all that have completed. -/
def Fibre.covers (x : Fibre) (f : Nat) (cp mx ry : Option Nat) (p : Party) : Bool :=
  let early (limit : Option Nat) (issued n : Nat) : Bool := match limit with
    | some l => n + l < issued
    | none => false
  match p with
  | .operation o .cp n => o == f && early cp x.issued.cp n
  | .operation o .mx n => o == f && early mx x.issued.mx n
  | .operation o .ry _ => o == f && ry.isSome
  | .operation _ .ld _ | .operation _ .st _ | .stream _ _ | .grid _ | .fibre _ | .release _ _ | .word _ => false

/-- R264: a wait on classes that engines complete acquires the operations that it covers. (DEDUCED, assumption 44) -/
def State.acquireEngines (s : State) (f : Nat) (x : Fibre) (cp mx ry : Option Nat) : State :=
  if cp.isNone && mx.isNone && ry.isNone then s
  else
    let s := s.setFibre f (x.acquire [homeEdge])
    match x.group with
    | some g => s.learn g [.fibre f] (x.covers f cp mx ry)
    | none => s

/-- R263: what a satisfied wait does: it acquires, and raises a pending copy fault. -/
def State.endWait (s : State) (f : Nat) (x : Fibre) (cp mx ry : Option Nat) : State :=
  let s := s.acquireEngines f x cp mx ry
  match x.copyFaults, s.fibres.get? f with
  | _ :: _, some y => s.takeCopyFault f y
  | _, _ => s.passWait f

/-- R381: the rays that the unit of a core holds. -/
def State.raysHeld (s : State) (c : Nat) : Nat :=
  (s.fibres.map fun e => (e.2.rays.filter fun r => r.core == c).length).sum +
    (s.frames.map fun e => match e.2.savedFibre with
      | some x => (x.rays.filter fun r => r.core == c).length
      | none => 0).sum

/-- R21: does one request stand before another: by class, then promoted, then by age? -/
def requestBefore (cls₁ : Nat) (p₁ : Bool) (t₁ : Nat) (cls₂ : Nat) (p₂ : Bool) (t₂ : Nat) : Bool :=
  cls₁ > cls₂ || (cls₁ = cls₂ && ((p₁ && !p₂) || (p₁ == p₂ && t₁ < t₂)))

/-- R21: the request of a fibre that waits at its ray unit, or is about to ask again. -/
def Fibre.rayWait (x : Fibre) : Option (Nat × Bool) :=
  match x.life with
  | .stalled (.rayUnit t p) => some (t, p)
  | .ready => x.rayRequest
  | .stalled _ | .placed | .parked | .stopped _ _ | .saved _ _ | .exiting | .gone => none

/-- The first live core of a die: its sampler and ray unit serve an engine (DESIGN CHOICE, assumption 7). -/
def State.serving (s : State) (die : Nat) : Nat := ((coresOf die).find? s.coreLive).getD (die * Config.coresPerDie)

/-- R408: the die that owns a tile of a job. -/
def State.tileDie (s : State) (d : JobDesc) (tile : Nat) : Nat := (d.home s.diesUp (tile % d.tilesX) (tile / d.tilesX)).1

/-- R21: the requests at the ray unit of a core: those of its fibres, and the tiles that wait there for it: class, promotion and cycle. -/
def State.rayRequests (s : State) (core : Nat) : List (Nat × Bool × Nat) :=
  ((s.fibresOn core).filterMap fun e => e.2.rayWait.map fun r => (e.2.cls, r.2, r.1)) ++
    s.jobs.flatMap fun e => (e.2.waits.filter fun w => s.serving (s.tileDie (jobOf e.2.desc) w.1) == core && s.contextRuns e.2.context).map fun w =>
      (e.2.cls, decide ((s.core core).clock ≥ w.2 + 1024), w.2)

/-- R21, R381: has the ray unit of a core room for a request, with none that stands before it waiting? -/
def State.rayTurn (s : State) (core cls : Nat) (promoted : Bool) (since : Nat) : Bool :=
  s.raysHeld core < 512 && !(s.rayRequests core).any fun r => requestBefore r.1 r.2.1 r.2.2 cls promoted since

/-- R342: the result of a service has come: it is written, and the fibre acquires what the host did before. -/
def State.finishService (s : State) (f : Nat) (x : Fibre) (ticket : Nat) (d : Dst) : Option State :=
  match s.contexts.get? x.context with
  | none => none
  | some c =>
    match c.results.get? ticket with
    | none => none
    | some v =>
      let s := s.setContext x.context { c with results := c.results.del ticket }
      some ((s.setFibre f ((x.write d v).acquire [homeEdge])).passWait f)

/-- R79, R80, R86: may the fibre issue again? For waits that have taken effect, the state in which they have ended. -/
def State.clearStall (s : State) (f : Nat) (x : Fibre) (why : Stall) : Option State :=
  let ready := some (s.setFibre f x.wake)
  let inst (c : Bool) : Option State := if c then ready else none
  match why with
  | .result => inst (x.pend.all fun p => p.op.class != .ld && !p.hold)
  | .counter cls => inst ([x.counts.ld, x.counts.st, x.counts.cp, x.counts.mx, x.counts.ry].getD cls.val 0 < Config.counterLimit)
  | .counts ld st cp mx ry =>
    if within ld x.counts.ld && within st x.counts.st && within cp x.counts.cp && within mx x.counts.mx && within ry x.counts.ry then
      some (s.endWait f x cp mx ry)
    else none
  | .matrix mx => if within (some mx) x.counts.mx then some ((s.acquireEngines f x none (some mx) none).passWait f) else none
  | .queue q =>
    inst (match x.queues[q] with
      | some b => q.val ≥ 2 || s.elementHere f x b
      | none => true)
  | .resolution | .specRoom => inst (!x.speculative)
  | .acquire => inst x.acquired.isEmpty
  | .stores => inst (x.pend.all fun p => p.op.class != .st)
  | .rays record => inst (!x.rays.any fun r => r.hit == record)
  | .translations => if s.fibres.all fun e => e.2.context != x.context || e.2.pend.isEmpty then some (s.passWait f) else none
  | .migration | .saving => ready
  | .matrixQueue => inst (match s.groupOf x with | some g => g.matrix.length < 64 | none => true)
  | .rayUnit since promoted =>
    if s.rayTurn x.core x.cls promoted since then some (s.setFibre f { x.wake with rayRequest := some (since, promoted) }) else none
  | .collectives => inst (s.collectives.length < 64)
  | .service ticket d => s.finishService f x ticket d
  | .barrier _ | .list _ _ _ | .syncWord _ _ _ => none

/-- R80. -/
def execStallClear (f : Nat) (s : State) : Host.Outcome State Fault Refusal :=
  match s.fibres.get? f with
  | none => .next s
  | some x =>
    match x.waitsFor with
    | none => .next s
    | some why => .next ((s.clearStall f x why).getD s)

end Sys2Proof.Machine
end

