-- ==== Sys2Proof/Machine/EngineAccess.lean ====
section
/-! DEFINITION. Accesses that engines make for a group, a stolen continuation or a packet: their checks and what they find (R176, R177, R190, R257, R261,
R269, R304). -/

namespace Sys2Proof.Machine

/-- For whom an engine works. -/
structure Agent where
  die : Nat
  context : Nat
  /-- the group whose slice the work reaches -/
  group : Option Nat := none
  /-- the launch and the group index of its task -/
  launch : Option (Nat × Nat) := none
  speculative : Bool := false
  /-- R268: it is part of a task of an ordered grid -/
  ordered : Bool := false
  fibre : Option Nat := none
  /-- R212: the operation, where its group's slice records what it knows -/
  party : Option Party := none
deriving DecidableEq, Repr

/-- R268: does a launch belong to an ordered grid? -/
def State.inOrdered (s : State) (l : Nat) : Bool :=
  match s.launches.get? l with
  | some k => k.kernel.ordered || k.task.isSome
  | none => false

/-- The agent of a group. -/
def State.groupAgent (s : State) (g : Nat) (k : Group) (f : Option Nat) : Agent :=
  { die := k.die, context := k.context, group := some g, launch := some (k.launch, k.linear), speculative := k.speculative, ordered := s.inOrdered k.launch,
    fibre := f }

/-- The agent of a fibre. -/
def State.fibreAgent (s : State) (f : Nat) (x : Fibre) : Agent :=
  { die := dieOf x.core, context := x.context, group := x.group, launch := some (x.launch, s.linearOf f), speculative := x.speculative,
    ordered := s.inOrdered x.launch, fibre := some f }

/-- R304: memory with speculative bytes over it. -/
def overSpecImages (sp : List SpecByte) (im : Images) : Images := sp.foldl (fun im b => im.write b.comp [(b.pa, b.value)]) im

/-- R269: the launch whose phases govern a launch. -/
def State.phaseOwner (s : State) (l : Nat) : Nat :=
  match (s.launches.get? l).bind (·.task) with
  | some t => t.1
  | none => l

/-- R269, R304: the memory that an agent finds at a page. -/
def State.agentImages (s : State) (ag : Agent) (ordered : Bool) : Images :=
  match ag.launch with
  | none => s.home
  | some (l, g) =>
    if ordered && ag.ordered then
      match s.launches.get? (s.phaseOwner l) with
      | some k => k.phaseMem
      | none => s.home
    else if ag.speculative then overSpecImages (s.specBytes l g) s.home
    else s.home

/-- R190, R261: check and translate one access of an engine, within one line. -/
def State.engineLocate (s : State) (ag : Agent) (va n : Nat) (write : Bool) : Except FaultCode (Loc × State) :=
  if va ≥ 2 ^ 52 then .error .translation
  else if va ≥ Config.windowBase then
    match ag.group.bind s.groups.get?, ag.fibre with
    | some g, _ => if va - Config.windowBase + n ≤ g.grant then .ok (.slice (va - Config.windowBase), s) else .error .access
    | none, some _ => .error .detached
    | none, none => .error .access
  else
    match s.deviceLocate ag.die ag.context va with
    | none => .error .translation
    | some (pa, leaf, t) =>
      if leafNode leaf != s.node && s.link.unreachable.contains (leafNode leaf) && !write then .error .access
      else if write && (!leafWritable leaf || s.inDeviceArea ag.context va n) then .error .access
      else if write && ag.ordered && leafOrdered leaf then .error .access
      else .ok (.mem pa (leafComp leaf) (leafOrdered leaf) .default va, t.freshen ag.context va pa (leafComp leaf))

/-- R457: does memory or a slice hold an uncorrectable error at a location of an engine? -/
def State.engineError (s : State) (ag : Agent) (l : Loc) (n : Nat) : Bool :=
  match l with
  | .slice off => match ag.group.bind s.groups.get? with
    | some g => g.badBytes.any fun o => off ≤ o && o < off + n
    | none => false
  | .grant _ => false
  | .mem pa comp ordered _ _ =>
    (s.agentImages ag ordered).faulty pa n comp || match ag.launch with
      | some (l, g) => !(ordered && ag.ordered) && ag.speculative && (s.specBytes l g).any fun b => b.bad && pa ≤ b.pa && b.pa < pa + n
      | none => false

/-- What an engine reads at a location. -/
def State.engineFetch (s : State) (ag : Agent) (l : Loc) (n : Nat) : Except FaultCode (List Byte × State) :=
  if s.engineError ag l n then .error .ecc
  else
    match l with
    | .slice off =>
      match ag.group.bind s.groups.get? with
      | some g => .ok (match ag.party with | some p => s.readSlice p g off n | none => (g.slice.readBytes off n, s))
      | none => .error .access
    | .grant _ => .error .access
    | .mem pa comp ordered _ va =>
      match (s.agentImages ag ordered).read pa n comp with
      | some bs => .ok (s.blurFreed ag.context va bs)
      | none => .error .decode

/-- A read of an engine within one line: the bytes, or the fault and its address. -/
def State.engineBytes (s : State) (ag : Agent) (va n : Nat) : Except (FaultCode × Word) (List Byte × State) :=
  match s.engineLocate ag va n false with
  | .error e => .error (e, BitVec.ofNat 64 va)
  | .ok (l, t) => (t.engineFetch ag l n).mapError fun e => (e, BitVec.ofNat 64 va)

/-- Bytes that lie in one 64-byte line each: the pieces of a range. -/
def linePieces (fuel va n : Nat) : List (Nat × Nat) :=
  match fuel with
  | 0 => []
  | fuel + 1 =>
    let room := 64 - va % 64
    if n = 0 then [] else if n ≤ room then [(va, n)] else (va, room) :: linePieces fuel (va + room) (n - room)

/-- A read of an engine of any length, line by line. -/
def State.enginePieces (s : State) (ag : Agent) : List (Nat × Nat) → Except (FaultCode × Word) (List Byte × State)
  | [] => .ok ([], s)
  | p :: ps =>
    match s.engineBytes ag p.1 p.2 with
    | .error e => .error e
    | .ok (bs, t) =>
      match State.enginePieces t ag ps with
      | .error e => .error e
      | .ok (rest, u) => .ok (bs ++ rest, u)

/-- A read of an engine of n bytes. -/
def State.engineRange (s : State) (ag : Agent) (va n : Nat) : Except (FaultCode × Word) (List Byte × State) :=
  s.enginePieces ag (linePieces (n / 64 + 2) va n)

end Sys2Proof.Machine
end

