-- ==== Sys2Proof/Machine/Saving.lean ====
section
/-! DEFINITION. Groups and fibres of a pre-empted context: what their saves need, how they are saved, and how they are restored (R233, R262, R335, R336). -/

namespace Sys2Proof.Machine

/-! ### What a save needs -/

/-- R335: a multiple of 64 KiB. -/
def roundUp64K (n : Nat) : Nat := (n + 65535) / 65536 * 65536

/-- R335: bytes of a fibre's save area with its stack. -/
def saveAreaBytes (x : Fibre) : Nat := (1136 + 9 * x.quota + 63) / 64 * 64 + x.stackSize

/-- R335: bytes of a group's own state. -/
def Group.stateBytes (g : Group) : Nat := 4096 + 16 * g.copies.length + 32 * g.matrix.length + g.grant + 4096 * g.units

/-- R335: bytes counted for a group with its members. -/
def State.groupSaveBytes (s : State) (g : Nat) (k : Group) : Nat :=
  roundUp64K (k.stateBytes + ((s.members g).map fun e => saveAreaBytes e.2).sum)

/-- R335: the resident groups of a context. -/
def State.residentGroups (s : State) (c : Nat) : List (Nat × Group) := s.groups.filter fun e => e.2.context == c && e.2.resident

/-- R335, R336, R457: the first address of a context's save region after what is saved there. -/
def State.saveEnd (s : State) (c : Nat) (k : Context) : Nat :=
  let gs := s.groups.filterMap fun e => if e.2.context = c then e.2.savedAt.map fun a => a.1 + a.2 else none
  let fs := s.fibres.filterMap fun e => match s.frames.get? e.1 with
    | some r => if e.2.context = c && r.save != 0 && e.2.group.isNone then some (r.save + saveAreaBytes e.2) else none
    | none => none
  (gs ++ fs).foldl Nat.max k.desc.saveBase

/-- R335: bytes that a save of a context needs. -/
def State.contextSaveBytes (s : State) (c : Nat) : Nat := ((s.residentGroups c).map fun e => s.groupSaveBytes e.1 e.2).sum

/-- R335: can the save region hold the resident groups of a context, after what a targeted self-test has saved there (R457)? -/
def State.saveFits (s : State) (c : Nat) (k : Context) : Bool := s.saveEnd c k + s.contextSaveBytes c ≤ k.desc.saveBase + k.desc.saveSize

/-! ### Saving -/

/-- R80, R81: a fibre that is saved; an exiting one is not. -/
def Life.toSaved : Life → Life
  | .placed | .ready => .saved none false
  | .stalled w => .saved (some w) false
  | .parked => .saved none true
  | .stopped w p => .saved w p
  | .saved w p => .saved w p
  | .exiting => .exiting
  | .gone => .gone

/-- R336: a fibre's state is written to its save area, and its record names the area; elements read ahead are discarded (R175). Its program order goes on from a
release (R211). -/
def State.saveFibre (s : State) (f : Nat) (x : Fibre) (va : Nat) : State :=
  let r := s.releaseOn x.core
  let s := (r.1.deviceWriteRange (dieOf x.core) x.context va (x.saveArea (s.bankOf x))).leaveConvoy f
  let s := s.setFibre f
    { x with
      life := x.life.toSaved, acquired := addEdges 193 x.acquired [r.2],
      queues := x.queues.map fun q => q.map fun (b : QueueBinding) => { b with ahead := [] } }
  let s := s.updFrame f fun q => { q with save := va }
  match x.mark with
  | some m => s.updMark m fun w => { w with preempted := true }
  | none => s

/-- R335: fibres are saved one after another from an address on. -/
def State.saveFibres (s : State) (va : Nat) : List (Nat × Fibre) → State
  | [] => s
  | e :: es => if e.2.life = .exiting then s.saveFibres va es else (s.saveFibre e.1 e.2 va).saveFibres (va + saveAreaBytes e.2) es

/-- R335: a group is saved from an address of the save region on. The manual gives its state no layout: those bytes are free. (DESIGN CHOICE, assumption 64) -/
def State.saveGroup (s : State) (va : Nat) (g : Nat) (k : Group) : State :=
  let r := s.freeBytes k.stateBytes
  let s := r.2.deviceWriteRange k.die k.context va r.1
  let s := s.saveFibres (va + (k.stateBytes + 63) / 64 * 64) (s.members g)
  (s.updGroup g fun q => { q with
      state := .saved (k.state == .prologue) (k.state == .stopped), savedAt := some (va, s.groupSaveBytes g k), since := s.time, acquired := addEdges 193 [] q.acquired }).traceGroup g 3

/-- R335: the groups of a list are saved one after another: the state, and the first free address. -/
def State.saveGroups (s : State) (va : Nat) : List (Nat × Group) → State × Nat
  | [] => (s, va)
  | e :: es => (s.saveGroup va e.1 e.2).saveGroups (va + s.groupSaveBytes e.1 e.2) es

/-- R335, R81: has the work in flight of a context ended: loads, stores, bank and guard writes, started engine commands, rays and tiles? -/
def State.drained (s : State) (c : Nat) : Bool :=
  let copying (cs : List CopyCommand) : Bool := cs.any fun q => q.started.isSome
  (s.fibres.all fun e => e.2.context != c || (e.2.pend.isEmpty && e.2.rays.isEmpty && !copying e.2.copies)) &&
    (s.groups.all fun e => e.2.context != c ||
      (e.2.bankWrites.isEmpty && e.2.guardWrites.isEmpty && !copying e.2.copies && e.2.matrix.all fun q => q.started.isNone)) &&
    (s.queues.all fun e => e.2.context != c || e.2.packets.all fun p => match p.parts.copies with
      | some q => q.started.isNone
      | none => true) &&
    s.jobs.all fun e => e.2.context != c || (e.2.state == .resampling && e.2.written.all e.2.retired.contains)

/-- R457: can the state of a group and of its members be read back? -/
def State.readable (s : State) (g : Nat) (k : Group) : Bool :=
  k.badBytes.isEmpty && k.badAccumulators.isEmpty && (s.members g).all fun e => e.2.badStack.isEmpty

/-- R207: the resident fibres of a context that have no group. -/
def State.looseFibres (s : State) (c : Nat) : List (Nat × Fibre) := s.fibres.filter fun e => e.2.context == c && e.2.group.isNone && e.2.resident

/-- R335: every group and every other resident fibre of a context is saved. (DEDUCED, assumption 65) -/
def State.saveContext (s : State) (c : Nat) : State :=
  match s.contexts.get? c with
  | none => s
  | some k =>
    let r := s.saveGroups (s.saveEnd c k) (s.residentGroups c)
    let s := r.1.saveFibres r.2 (r.1.looseFibres c)
    s.updContext c fun k => { k with state := .saved, lastRun := s.time }

/-! ### Restoring -/

/-- R80, R81, R202: the life to which a saved fibre returns, in a group that was Stopped or in Prologue or not. A record that has become Exiting meanwhile makes
the fibre exit (R201). -/
def restoredLife (exiting prologue stopped : Bool) : Life → Life
  | .saved w p =>
    if exiting then .exiting
    else if prologue then .placed
    else if p then .parked
    else if stopped then .stopped w false
    else match w with
      | some why => .stalled why
      | none => .ready
  | .placed => .placed
  | .ready => .ready
  | .stalled w => .stalled w
  | .parked => .parked
  | .stopped w p => .stopped w p
  | .exiting => .exiting
  | .gone => .gone

/-- R255: a pre-empted `swwait` is restarted in full. A request at a ray unit is made anew on the new core (R21). -/
def Fibre.restartWait (x : Fibre) (now : Nat) : Fibre :=
  match x.life with
  | .saved (some (.syncWord _ _ _)) p => { x.cancelQueues with life := .saved none p, pc := x.unit, hints := {} }
  | .saved (some (.rayUnit _ _)) p => { x with life := .saved (some (.rayUnit now false)) p }
  | _ => { x with rayRequest := none }

/-- R233, R335: a saved fibre resumes on a core. -/
def State.restoreFibre (s : State) (f : Nat) (x : Fibre) (core : Nat) (prologue stopped : Bool) : State :=
  let exiting := match s.frames.get? f with
    | some r => r.state == .exiting
    | none => false
  let y := x.restartWait (s.core core).clock
  let s := (s.holdOn core x.context).setFibre f
    { y with
      life := restoredLife exiting prologue stopped y.life, core := core, windowBase := s.fibreSlot core, acquired := addEdges core [] x.acquired }
  (s.updFrame f fun r => { r with core := core, save := 0 }).closeExiting f

/-- R233: is a group Saved? -/
def Group.isSaved (g : Group) : Bool :=
  match g.state with
  | .saved _ _ => true
  | .waiting | .prologue | .running | .stopped | .retired | .dropped => false

/-- R233, R235: does a saved group fit a core: its members, at least as many as the group was placed with, and its saved grant? (DEDUCED, assumption 66) -/
def State.fitsSaved (s : State) (l : Launch) (g : Nat) (k : Group) (c : Nat) : Bool :=
  let n := Nat.max (l.kernel.gx * l.kernel.gy * l.kernel.gz) (s.members g).length
  let fs := s.fibresOn c
  let gs := s.groupsOn c
  s.coreOpen c && gs.length < Config.groupsPerCore && fs.length + n ≤ Config.fibresPerCore && n * l.kernel.quota ≤ s.freeRuns c &&
    s.scratchUsed c + k.grant + n * l.kernel.stack ≤ scratchBytes (s.core c).boundary && (gs.map fun e => e.2.units).sum + k.units ≤ 192

/-- R233: a saved group is restored on the core that placement would choose, if there is one; one whose members have all left retires. -/
def State.restoreGroup (s : State) (g : Nat) (k : Group) : Option State :=
  match k.state, s.launches.get? k.launch with
  | .saved prologue stopped, some l =>
    match leastBy (fun c => (s.fibresOn c).length) ((coresOf k.die).filter (s.fitsSaved l g k)) with
    | none => none
    | some core =>
      let now := (s.core core).clock
      let r : Group :=
        { k with
          core := core, state := if prologue then .prologue else if stopped then .stopped else .running, placed := s.fresh,
          savedAt := none, acquired := addEdges 193 [] k.acquired, copies := k.copies.map fun (q : CopyCommand) => { q with since := now },
          matrix := k.matrix.map fun (q : MatrixCommand) => { q with since := now } }
      let s := { s.setGroup g r with fresh := s.fresh + 1 }
      let s := ((s.members g).foldl (fun s e => s.restoreFibre e.1 e.2 core prologue stopped) s).traceGroup g 4
      some ((if !prologue && k.dbg.stopping.isSome then s.haltGroup g else s).retireGroup g)
  | _, _ => none

/-- R240: the saved groups of a coresident grid are restored whole, or not at all. -/
def State.restoreWhole (s : State) : List (Nat × Group) → Option State
  | [] => some s
  | e :: es => (s.restoreGroup e.1 e.2).bind fun t => t.restoreWhole es

/-- R233, R240: a saved group is restored, with the other saved groups of its grid where that is coresident. -/
def State.restoreOne (s : State) (g : Nat) (k : Group) : State :=
  if (s.launches.get? k.launch).any (·.kernel.coresident) then
    (s.restoreWhole (sortBy (fun a b => a.2.linear ≤ b.2.linear) (s.groups.filter fun e => e.2.launch == k.launch && e.2.isSaved))).getD s
  else (s.restoreGroup g k).getD s

/-- R335: a saved detached fibre is restored: on its own core if it has room, else where placement would put it on the die. -/
def State.restoreDetached (s : State) (f : Nat) (x : Fibre) : State :=
  let fits (c : Nat) : Bool := s.coreOpen c && s.roomForFibre c x.quota x.stackSize
  match if fits x.core then some x.core else leastBy (fun c => (s.fibresOn c).length) ((coresOf (dieOf x.core)).filter fits) with
  | none => s
  | some core => s.restoreFibre f x core false false

/-- R233, R234: the saved groups and detached fibres of Running contexts that a condition names are restored, groups in the order of placement. -/
def State.restoreSaved (s : State) (which : Group → Bool) : State :=
  let order (e : Nat × Group) : Nat := match s.launches.get? e.2.launch with
    | some l => l.order
    | none => 0
  let gs := sortBy (fun a b => a.2.cls > b.2.cls || (a.2.cls = b.2.cls && (order a < order b || (order a = order b && a.2.linear ≤ b.2.linear))))
    (s.groups.filter fun e => which e.2 && s.contextRuns e.2.context)
  let s := gs.foldl (fun s e => match s.groups.get? e.1 with | some k => if k.isSaved then s.restoreOne e.1 k else s | none => s) s
  (s.fibres.filter fun e => e.2.group.isNone && !e.2.resident && s.contextRuns e.2.context).foldl (fun s e => s.restoreDetached e.1 e.2) s

end Sys2Proof.Machine
end

