-- ==== Sys2Proof/Machine/Groups.lean ====
section
/-! DEFINITION. Groups: election and bank writes (R241-R245), barriers (R248-R251), placement (R234, R235, R240), the prologue engine (R298-R300), the
boundary of the local array (R179) and the fault of a stuck group (R251). -/

namespace Sys2Proof.Machine

/-! ### elect and kst -/

/-- R172: an operand of the issuing unit as its word names it: one that was popped names its queue register. -/
def Fibre.asNamed (x : Fibre) (b : Src) : Src :=
  match b with
  | .k j =>
    match (x.popped.zip x.pops).find? fun e => e.1.1 == j with
    | some e => .n (Fin.ofNat 32 (28 + e.2.val))
    | none => b
  | .a _ | .n _ => b

/-- R172, R242: what the last operand of a unit is for a participant: the element that it popped, where it has the queue register bound. -/
def Fibre.lastOperand (y : Fibre) (bank : Vector Word 16) (b : Src) : Word :=
  match b, y.popped.getLast? with
  | .n i, some e => if i.val = 28 && y.queues[0].isSome || i.val = 29 && y.queues[1].isSome then e.2 else y.read bank b
  | _, _ => y.read bank b

/-- R242. -/
def execElect (d : Dst) (a b : Src) (p : Fin 8) (s : State) : Host.Outcome State Fault Refusal :=
  s.cross a none fun c x =>
    match c.parts.find? fun e => e.2.lastOperand (s.bankOf e.2) (((s.issuing.bind s.fibres.get?).getD x).asNamed b) != 0 with
    | none => .other ((x.write d 0xFFFFFFFFFFFFFFFF).setPred p false)
    | some e => .other ((x.write d (BitVec.ofNat 64 e.2.fid)).setPred p (e.1 == c.rank))

/-- R243: the write joins the bank's order. -/
def execKst (a : Src) (k : Fin 16) (s : State) : Host.Outcome State Fault Refusal :=
  s.issueWith fun _ x =>
    match x.group with
    | none => .trap .detached 0 0
    | some g => .done (s.updGroup g fun r => { r with bankWrites := r.bankWrites ++ [((s.core x.core).clock, x.fid, k, x.read (s.bankOf x) a)] })

/-- R243. -/
def execKstTakeEffect (g : Nat) (s : State) : Host.Outcome State Fault Refusal :=
  .next (s.settleBank g)

/-! ### Barriers -/

/-- R248. -/
def execBar (id : Fin 64) (s : State) : Host.Outcome State Fault Refusal :=
  s.issueWith fun f x =>
    match x.group with
    | none => .trap .detached 0 0
    | some g =>
      let i : Fin 16 := Fin.ofNat 16 id.val
      let t := s.updGroup g fun k => { k with barriers := k.barriers.set i.val { k.barriers[i] with arrivals := distinct (k.barriers[i].arrivals ++ [f]) } }
      match t.groups.get? g with
      | none => .done t
      | some k =>
        if (t.members g).all fun e => k.barriers[i].arrivals.contains e.1 then
          let others := k.barriers[i].arrivals.filter (· != f)
          let u := t.setGroup g { k with barriers := k.barriers.set i.val { phase := k.barriers[i].phase + 1, arrivals := [] } }
          .done ((others.foldl State.passWait (u.tilesHome x.core)).meet g k.barriers[i].arrivals)
        else .wait t (.barrier i.val)

/-- R250: fibres waiting at some `barm` with a word. -/
def atBarm (word : Word) (x : Fibre) : Bool :=
  match x.waitsFor with
  | some (.list w true _) => w == word
  | some _ | none => false

/-- R250: the mask form completes in the pass; the list form waits for every listed fibre. -/
def execBarm (a : Src) (s : State) : Host.Outcome State Fault Refusal :=
  s.issueWith fun f x =>
    let word := x.read (s.bankOf x) a
    match membersOf word with
    | .mask bits =>
      match s.pass, x.group with
      | some p, some g =>
        let ms := (List.range p.members.length).filter fun i => bits.testBit i
        if bits.testBit (p.members.idxOf f) then .done (s.meet g (ms.map fun i => p.members.getD i f)) else .done s
      | _, _ => .done s
    | .list first count stride =>
      match x.group with
      | none => .trap .detached 0 0
      | some g =>
        let idx := listIndices first count stride
        if s.badList g first count stride then .trap .maskMismatch 0 0
        else if !idx.contains x.fid then .done s
        else
          let ms := s.members g
          let here (i : Nat) : Bool := i == x.fid || ms.any fun e => e.2.fid == i && atBarm word e.2
          if idx.all here then
            let others := (ms.filter fun e => idx.contains e.2.fid && e.1 != f).map (·.1)
            .done ((others.foldl State.passWait s).meet g (f :: others))
          else .arrive (.list word true x.pc)

/-- R251: does a fibre wait at a barrier or a list form? -/
def Fibre.atRendezvous (x : Fibre) : Bool :=
  match x.life with
  | .stalled (.barrier _) | .stalled (.list _ _ _) => true
  | .placed | .ready | .stalled _ | .parked | .saved _ _ | .stopped _ _ | .exiting | .gone => false

/-- R251: a Running group all of whose members wait at rendezvous, with no Task record to come. -/
def State.stuck (s : State) (g : Nat) : Bool :=
  match s.groups.get? g with
  | none => false
  | some k =>
    let ms := s.members g
    k.state == .running && !ms.isEmpty && ms.all (fun e => e.2.atRendezvous) &&
      !s.frames.any fun r => r.2.state == .task && r.2.core == k.core && ms.any fun e => r.2.parent == some e.1

/-- R251: every member's arrival is withdrawn and it takes FLT_MASK_MISMATCH. -/
def execStuckGroupFault (g : Nat) (s : State) : Host.Outcome State Fault Refusal :=
  if !s.stuck g then .next s
  else
    let ms := s.members g
    let s := s.updGroup g fun k => { k with barriers := k.barriers.map fun b => { b with arrivals := [] } }
    .next (ms.foldl (fun s e => (s.setFibre e.1 e.2.cancelQueues).takeTrap e.1 e.2.unit e.2.rep .unit .maskMismatch 0 0) s)

/-! ### Placement -/

/-- R178: the grant: the largest multiple of 64 KiB within the maximum and the free scratchpad. -/
def State.grantFor (s : State) (l : Launch) (c : Nat) : Nat :=
  let n := l.kernel.gx * l.kernel.gy * l.kernel.gz
  let free := scratchBytes (s.core c).boundary - s.scratchUsed c - n * l.kernel.stack
  Nat.min l.kernel.smax (free / 65536) * 65536

/-- R78, R233: a fibre of a group as placement leaves it. -/
def placedFibre (context launch g core i : Nat) (l : Launch) (linear : Nat) (spec : Bool) (edges : List Edge) (bank : Vector Word 16) : Fibre :=
  { context := context, launch := launch, group := some g, core := core, fid := i, life := .placed, pc := l.kernel.entry,
    ages := Vector.replicate 16 0, window := l.kernel.window, named := Vector.replicate 32 0, vregs := Vector.replicate 16 [],
    masks := Vector.replicate 8 [], quota := l.kernel.quota, sp := BitVec.ofNat 52 (stackBase + l.kernel.stack), stackSize := l.kernel.stack,
    queues := Vector.replicate 4 none, bank := bank, lineage := l.lineage ++ (if l.task.isSome then [linear, i] else [i]),
    milestone := if l.kernel.ordered then BitVec.ofNat 32 (l.record.m0 + linear / l.record.width) else l.milestone, cls := l.cls,
    speculative := spec, acquired := addEdges core [] edges }

/-- R199, R230: the record of a dispatched fibre. -/
def State.dispatchFibre (s : State) (lk : Nat) (l : Launch) (g : Nat) (k : Group) (i : Nat) : State :=
  let f := s.fresh
  let s := { s with fresh := s.fresh + 1 }
  let slot := (firstFree (s.usedSlots l.context) (s.frameSlots l.context) 1).getD 0
  let s := s.setFibre f
    { placedFibre l.context lk g k.core i l k.linear k.speculative k.acquired k.bank with windowBase := s.fibreSlot k.core }
  let s := s.learnAll [.fibre f] fun p => (k.acquired ++ l.launchEdges).any fun e => p == .release e.1 e.2
  s.putFrame f
    { context := l.context, slot := slot, pc := l.kernel.entry, parent := none, launch := lk, fid := i, state := .running,
      speculative := k.speculative, cls := l.cls, depth := l.depth, core := k.core, linear := k.linear, order := f, bank := k.bank, group := some g }

/-- R233: a Waiting group is placed on a core with a grant: its resources are reserved and its fibres Placed. -/
def State.placeWith (s : State) (g : Nat) (k : Group) (l : Launch) (core grant : Nat) : State :=
  let r : Group :=
    { k with core := core, state := .prologue, bank := l.record.k, grant := grant, units := l.record.units,
             acquired := addEdges 193 [] (k.acquired ++ l.launchEdges), placed := s.fresh }
  let s := { (s.holdOn core k.context).setGroup g r with fresh := s.fresh + 1 }.traceGroup g 1
  (List.range (l.kernel.gx * l.kernel.gy * l.kernel.gz)).foldl (fun s i => s.dispatchFibre k.launch l g r i) s

/-- R178, R233: a Waiting group is placed on a core with the grant that the core can give it. -/
def State.placeGroup (s : State) (g : Nat) (k : Group) (l : Launch) (core : Nat) : State := s.placeWith g k l core (s.grantFor l core)

/-- R200: room in the frame area for the records of a group; one without waits, and those behind it (DESIGN CHOICE, assumption 116). -/
def State.recordsFit (s : State) (l : Launch) : Bool :=
  s.takenSlots l.context + l.kernel.gx * l.kernel.gy * l.kernel.gz ≤ s.frameSlots l.context

/-- R235, R240: place every Waiting group of a coresident grid, or none: each is counted with the `.scratch` minimum. (DEDUCED, assumption 93) -/
def State.placeMinimum (s : State) (lk : Nat) : List (Nat × Group) → Option State
  | [] => some s
  | e :: es =>
    match s.launches.get? lk with
    | none => none
    | some l =>
      match s.placeOn l e.2.die l.kernel.smin with
      | none => none
      | some c => if s.recordsFit l then (s.placeWith e.1 e.2 l c (l.kernel.smin * 65536)).placeMinimum lk es else none

/-- R178, R240: the grants of a grid that has been placed whole, raised in order to what their cores have left. (DEDUCED, assumption 93) -/
def State.raiseGrants (s : State) (l : Launch) : List (Nat × Group) → State
  | [] => s
  | e :: es =>
    let t := match s.groups.get? e.1 with
      | some k =>
        let free := scratchBytes (s.core k.core).boundary - s.scratchUsed k.core
        s.setGroup e.1 { k with grant := k.grant + Nat.min (l.kernel.smax - l.kernel.smin) (free / 65536) * 65536 }
      | none => s
    t.raiseGrants l es

/-- R240: the Waiting groups of a launch, in order. -/
def State.waitingOf (s : State) (lk : Nat) : List (Nat × Group) :=
  sortBy (fun a b => a.2.linear ≤ b.2.linear) (s.groups.filter fun e => e.2.launch == lk && e.2.state == .waiting)

/-- R240: a coresident grid is placed in one step. -/
def State.placeAll (s : State) (lk : Nat) (l : Launch) : Option State :=
  (s.placeMinimum lk (s.waitingOf lk)).map fun t => t.raiseGrants l (s.waitingOf lk)

/-- R240: is a launch behind a coresident grid of its context that waits, of its class or a higher one and launched before it? -/
def State.heldBack (s : State) (lk : Nat) (l : Launch) : Bool :=
  s.launches.any fun e =>
    e.1 != lk && e.2.kernel.coresident && e.2.context == l.context && l.cls ≤ e.2.cls && e.2.order ≤ l.order && !(s.waitingOf e.1).isEmpty

/-- R234, R240: the Waiting groups of a die that a coresident grid of their context does not hold back, in order. -/
def State.placeable (s : State) (die : Nat) : List (Nat × Group) :=
  (s.waiting die).filter fun e =>
    match s.launches.get? e.2.launch with
    | some l => !s.heldBack e.2.launch l
    | none => false

/-- R234, R240: does no other group come before those of a grid, on either die? -/
def State.firstOnDies (s : State) (lk : Nat) : Bool :=
  [0, 1].all fun d => !(s.placeable d).any (fun e => e.2.launch == lk) || (s.placeable d).head?.all fun e => e.2.launch == lk

/-- R234, R240: the first group of the placeable ones, or the whole of its coresident grid, is placed; where it does not fit, nothing behind it is. -/
def State.placeFirst (s : State) : List (Nat × Group) → State
  | [] => s
  | e :: _ =>
    match s.launches.get? e.2.launch with
    | none => s
    | some l =>
      if l.kernel.coresident then (if s.firstOnDies e.2.launch then (s.placeAll e.2.launch l).getD s else s)
      else
        match s.placeOn l e.2.die l.kernel.smin with
        | some c => if s.recordsFit l then s.placeGroup e.1 e.2 l c else s
        | none => s

/-- R234, R233: saved groups of Running contexts are restored first. -/
def execGroupPlacement (die : Nat) (s : State) : Host.Outcome State Fault Refusal :=
  let s := s.restoreSaved fun g => g.die == die
  .next (s.placeFirst (s.placeable die))

/-- R179: the core has come to the end of the interval in which it may make its next step. -/
def CoreState.nextInterval (k : CoreState) : CoreState :=
  let t := Nat.max k.clock (65536 * (k.interval + 1))
  { k with clock := t, interval := t / 65536 }

/-- R179: at most one step of the boundary in 65,536 cycles. -/
def execLocalBoundaryStep (core : Nat) (lowHits : Bool) (s : State) : Host.Outcome State Fault Refusal :=
  let s := s.setCore core (s.core core).nextInterval
  let k := s.core core
  let free := scratchBytes k.boundary - s.scratchUsed core
  let starved := (s.waiting (dieOf core)).any fun e =>
    match s.launches.get? e.2.launch with
    | some l => free < l.kernel.smin * 65536 + l.kernel.gx * l.kernel.gy * l.kernel.gz * l.kernel.stack
    | none => false
  if starved && k.boundary > 1 then
    let s := s.writeBack core fun _ _ => true
    .next (s.setCore core { s.core core with boundary := k.boundary - 1 })
  else if lowHits && free ≥ 65536 then .next (s.setCore core { k with boundary := k.boundary + 1 })
  else .next s

/-! ### The prologue engine -/

/-- R298: the bytes of an element of a type code. -/
def typeBytes (code : Nat) : Nat :=
  match tyOfCode code with
  | some t => t.width / 8
  | none => 1

/-- R39: the format of a decode binding. -/
def fmtOfCode (code : Nat) : SxFmt := if code = 4 then .sx4 else if code = 6 then .sx6 else .sx8

/-- R299: an address modulo 2^64. -/
def addrWrap (x : Int) : Nat := (x % (2 ^ 64 : Nat)).toNat

/-- R299: the slice offset of element (r, c). -/
def Binding.destination (b : Binding) (ds r c : Nat) : Int :=
  if b.kind = 3 then (b.doff : Int) + c * b.dstride + r * ds else (b.doff : Int) + r * b.dstride + c * ds

/-- R299: the bytes that element c of a row gives, with the flags of its conversion. -/
def State.bindingElement (s : State) (b : Binding) (row c : Nat) (ag : Agent) :
    Except (FaultCode × Word) (Flagged (List Byte) × State) :=
  let dt := (tyOfCode b.dtype).getD .n8
  if b.kind = 2 then
    let fmt := fmtOfCode b.stype
    let va := addrWrap (row + 64 * (c / fmt.elements) : Nat)
    if va % 64 != 0 then .error (.align, BitVec.ofNat 64 va)
    else
      match s.engineBytes ag va 64 with
      | .error e => .error e
      | .ok (bs, t) =>
        let r := ((sxDecode fmt bs).getD (c % fmt.elements) (.nan false, 0#6)).andThen (roundTo dt .rn)
        .ok ((valueBytes dt r.1, r.2), t)
  else
    let st := (tyOfCode b.stype).getD .n8
    let ss := st.width / 8
    let va := addrWrap (row + c * ss : Nat)
    if va % ss != 0 then .error (.align, BitVec.ofNat 64 va)
    else
      match s.engineBytes ag va ss with
      | .error e => .error e
      | .ok (bs, t) =>
        if b.kind = 0 then .ok ((bs, 0#6), t)
        else
          let r := convert st dt .rn false (place st (natOfBytes bs))
          .ok ((valueBytes dt r.1, r.2), t)

/-- R299: the source row of row r. -/
def State.bindingRow (s : State) (b : Binding) (t : Nat) (base : Int) (r : Nat) (ag : Agent) : Except (FaultCode × Word) (Nat × State) :=
  if b.kind = 4 then
    match s.engineBytes ag (addrWrap (b.idx.toNat + 4 * (t * b.rows + r) : Nat)) 4 with
    | .error e => .error e
    | .ok (bs, u) => .ok (addrWrap (base + (natOfBytes bs : Int) * b.sstride), u)
  else .ok (addrWrap (base + (r : Int) * b.sstride), s)

/-- R299: the elements of a row, from element c on. -/
def State.bindingCells (s : State) (b : Binding) (row r c : Nat) (ag : Agent) (left : Nat) (acc : List (Int × List Byte) × FlagSet) :
    Except (FaultCode × Word) ((List (Int × List Byte) × FlagSet) × State) :=
  match left with
  | 0 => .ok (acc, s)
  | left + 1 =>
    match s.bindingElement b row c ag with
    | .error e => .error e
    | .ok (v, t) => t.bindingCells b row r (c + 1) ag left (acc.1 ++ [(b.destination (typeBytes b.dtype) r c, v.1)], acc.2 ||| v.2)

/-- R299: the rows of a binding, from row r on: slice writes in order, and flags. -/
def State.bindingRows (s : State) (b : Binding) (t : Nat) (base : Int) (r : Nat) (ag : Agent) (left : Nat)
    (acc : List (Int × List Byte) × FlagSet) : Except (FaultCode × Word) ((List (Int × List Byte) × FlagSet) × State) :=
  match left with
  | 0 => .ok (acc, s)
  | left + 1 =>
    match s.bindingRow b t base r ag with
    | .error e => .error e
    | .ok (row, u) =>
      match u.bindingCells b row r 0 ag b.cols acc with
      | .error e => .error e
      | .ok (acc, v) => v.bindingRows b t base (r + 1) ag left acc

/-- R299, R280: write bytes to a slice for the prologue engine: covered. -/
def writeSliceCovered (g : Group) (ws : List (Int × List Byte)) : Group :=
  { g with slice := ws.foldl (fun m w => m.writeBytes w.1.toNat w.2) g.slice }

/-- R299: the destinations of a binding, in order. -/
def Binding.destinations (b : Binding) : List Int :=
  (List.range b.rows).flatMap fun r => (List.range b.cols).map fun c => b.destination (typeBytes b.dtype) r c

/-- R300: binding j faults: its destination bytes are undefined, and the members fault at their first units. -/
def State.bindingFaults (s : State) (g : Nat) (k : Group) (b : Binding) (n : Nat) (code : FaultCode) (addr : Word) (undefined : Bool) : State :=
  let ds := typeBytes b.dtype
  let s := if undefined then
      b.destinations.foldl (fun s at_ => let r := s.freeBytes ds; r.2.updGroup g fun q => writeSliceCovered q [(at_, r.1)]) s
    else s
  s.updGroup g fun q => { q with binding := n, prologueFault := some (code, addr, BitVec.ofNat 64 k.binding) }

/-- R299: one binding. -/
def execPrologueBinding (g : Nat) (s : State) : Host.Outcome State Fault Refusal :=
  match s.groups.get? g with
  | none => .next s
  | some k =>
    match s.launches.get? k.launch with
    | none => .next s
    | some l =>
      match s.contextRuns k.context && k.state == .prologue && k.prologueFault.isNone, l.bindings[k.binding]? with
      | true, some b =>
        let a := s.engineAcquires k.acquired
        if !a.2 then .next a.1
        else
        let s := a.1
        let base := (b.src.toNat : Int) + k.gx * b.gsx + k.gy * b.gsy + k.gz * b.gsz
        match s.bindingRows b k.linear base 0 { s.groupAgent g k none with group := none } b.rows ([], 0#6) with
        | .error e => .next (s.bindingFaults g k b l.bindings.length e.1 e.2 true)
        | .ok (acc, t) =>
          let t := t.updGroup g fun q => { writeSliceCovered q acc.1 with binding := q.binding + 1, prologueFlags := q.prologueFlags ||| acc.2 }
          let n := b.cols * b.rows * typeBytes b.dtype
          if b.sync = 0 then .next t
          else if k.speculative then .next (t.updGroup g fun q => { q with heldAdds := q.heldAdds ++ [⟨b.sync, BitVec.ofNat 64 n, none⟩] })
          else
            match t.engineAdd k.die k.context (l.kernel.ordered || l.task.isSome) b.sync n [] with
            | .ok u => .next u
            | .error e => .next (t.bindingFaults g k b l.bindings.length e b.sync false)
      | _, _ => .next s

/-- R233, R299, R300: bindings done: the group runs, with every fibre Ready. A fault of a binding waits for each member's first unit. -/
def State.completePrologue (s : State) (g : Nat) (k : Group) : State :=
  let s := s.setGroup g { k with state := .running }
  (s.members g).foldl (fun s e =>
    s.setFibre e.1
      { e.2 with
        life := match e.2.life with
          | .placed => .ready
          | .ready | .stalled _ | .parked | .saved _ _ | .stopped _ _ | .exiting | .gone => e.2.life,
        flags := e.2.flags ||| k.prologueFlags, bindingFault := k.prologueFault }) s

end Sys2Proof.Machine
end

