-- ==== Sys2Proof/Machine/Kernel.lean ====
section
/-! DEFINITION. Launches: what their records say and when one is refused (R293-R298), acceptance, `launch` (R308), predicted shapes, `shape` and resolution
(R302-R306, R309), and the heap (R310, R311). -/

namespace Sys2Proof.Machine

/-- How the records of a launch are read: by the loads of a fibre, or of the command processor. -/
abbrev Reader := State → Nat → Nat → Except (FaultCode × Word) (List Byte × State)

/-- R190: a read by a fibre's loads, within one line. -/
def State.fibrePiece (s : State) (f : Nat) (x : Fibre) (va n : Nat) : Except (FaultCode × Word) (List Byte × State) :=
  match s.locate f x {} (BitVec.ofNat 64 va) n 1 with
  | .error e => .error (e, BitVec.ofNat 64 va)
  | .ok (loc, t) =>
    if t.hasError f x n loc then .error (.ecc, BitVec.ofNat 64 va)
    else
      match t.readLoc f x loc n with
      | (none, _) => .error (.decode, BitVec.ofNat 64 va)
      | (some bs, t) => .ok (bs, t)

/-- R190: a read by a fibre's loads, line by line. -/
def State.fibrePieces (s : State) (f : Nat) (x : Fibre) : List (Nat × Nat) → Except (FaultCode × Word) (List Byte × State)
  | [] => .ok ([], s)
  | p :: ps =>
    match s.fibrePiece f x p.1 p.2 with
    | .error e => .error e
    | .ok (bs, t) =>
      match State.fibrePieces t f x ps with
      | .error e => .error e
      | .ok (rest, u) => .ok (bs ++ rest, u)

/-- R303, R302: an atomic read by a fibre, within one line, at the home. -/
def State.fibreAtomic (s : State) (f : Nat) (x : Fibre) (va n : Nat) : Except (FaultCode × Word) (List Byte × State) :=
  match s.locate f x {} (BitVec.ofNat 64 va) n 1 with
  | .ok (.mem pa comp ordered p v, t) =>
    if t.atomicError f x n (.mem pa comp ordered p v) then .error (.ecc, BitVec.ofNat 64 va)
    else
      match t.atomicAt f x (.mem pa comp ordered p v) n (fun _ => none) with
      | none => .error (.decode, BitVec.ofNat 64 va)
      | some r => .ok r
  | .ok (.slice _, _) | .ok (.grant _, _) | .error _ => s.fibrePiece f x va n

/-- The atomic reader of a fibre. -/
def fibreAtomicReader (f : Nat) (x : Fibre) : Reader := fun s va n => s.fibreAtomic f x va n

/-- The reader of a fibre. -/
def fibreReader (f : Nat) (x : Fibre) : Reader := fun s va n => s.fibrePieces f x (linePieces (n / 64 + 2) va n)

/-- The reader of an engine or of the command processor. -/
def engineReader (ag : Agent) : Reader := fun s va n => s.engineRange ag va n

/-! ### Records -/

/-- R293: the limits of a kernel descriptor. -/
def descriptorOk (d : List Byte) : Bool :=
  let f (n : Nat) : Bool := 1 ≤ n && n ≤ 1024
  let gx := fieldOf d 8 2
  let gy := fieldOf d 10 2
  let gz := fieldOf d 12 2
  let tcount := fieldOf d 19 1
  fieldOf d 0 8 % 4 = 0 && fieldOf d 0 8 < 2 ^ 52 && f gx && f gy && f gz && gx * gy * gz ≤ 1024 && 1 ≤ fieldOf d 14 1 && fieldOf d 14 1 ≤ 16 &&
    1 ≤ fieldOf d 15 1 && fieldOf d 15 1 ≤ 32 && fieldOf d 16 1 ≤ fieldOf d 17 1 && fieldOf d 17 1 ≤ 15 && fieldOf d 18 1 < 4 && tcount ≤ 8 &&
    fieldOf d 20 4 % 64 = 0 && fieldOf d 20 4 ≤ 1048512 && fieldOf d 24 8 % 64 = 0 && (tcount != 0 || fieldOf d 24 8 = 0) && fieldOf d 32 1 ≤ 3 &&
    zeroBytes d 33 7 && fieldOf d 40 8 % 32 = 0 && zeroBytes d 48 16

/-- R293: the fields of a kernel descriptor. -/
def kernelOf (d : List Byte) : Kernel :=
  { entry := BitVec.ofNat 52 (fieldOf d 0 8), gx := fieldOf d 8 2, gy := fieldOf d 10 2, gz := fieldOf d 12 2, quota := 16 * fieldOf d 14 1,
    window := fieldOf d 15 1, smin := fieldOf d 16 1, smax := fieldOf d 17 1, coresident := (fieldOf d 18 1).testBit 0, ordered := (fieldOf d 18 1).testBit 1,
    stack := fieldOf d 20 4, tbl := wordFieldOf d 24, pmode := fieldOf d 32 1, pstate := wordFieldOf d 40 }

/-- R294: the limits of a launch record that stand in the record alone. The budget of a fixed launch is not looked at (DESIGN CHOICE, assumption 120). -/
def recordOk (r : List Byte) : Bool :=
  let predicted := fieldOf r 22 1 = 1
  fieldOf r 0 8 % 64 = 0 && 1 ≤ fieldOf r 8 4 && 1 ≤ fieldOf r 12 4 && (if predicted then fieldOf r 16 4 = 0 else 1 ≤ fieldOf r 16 4) && fieldOf r 20 2 ≤ 192 &&
    fieldOf r 22 1 ≤ 1 && (if predicted then fieldOf r 24 4 ≤ fieldOf r 28 4 && 1 ≤ fieldOf r 28 4 else fieldOf r 24 8 = 0) && fieldOf r 44 1 < 8 &&
    zeroBytes r 45 3 && (if predicted then fieldOf r 48 8 % 16 = 0 else fieldOf r 48 8 = 0) && fieldOf r 56 8 % 32 = 0

/-- R294: the fields of a launch record. -/
def launchRecordOf (r : List Byte) : LaunchRecord :=
  { desc := wordFieldOf r 0, x := fieldOf r 8 4, y := fieldOf r 12 4, z := fieldOf r 16 4, units := fieldOf r 20 2, predicted := fieldOf r 22 1 = 1,
    key := fieldOf r 23 1, zmin := fieldOf r 24 4, zmax := fieldOf r 28 4, budget := fieldOf r 32 4, m0 := fieldOf r 36 4, width := fieldOf r 40 4,
    events := fieldOf r 44 1, cell := wordFieldOf r 48, done := wordFieldOf r 56, k := Vector.ofFn fun i : Fin 16 => wordFieldOf r (64 + 8 * i.val) }

/-- R298: the limits of a binding. -/
def bindingOk (b : List Byte) (smin : Nat) : Bool :=
  let kind := fieldOf b 0 1
  let stype := fieldOf b 1 1
  let dtype := fieldOf b 2 1
  let ds := typeBytes dtype
  let cols := fieldOf b 28 4
  let rows := fieldOf b 32 4
  let span : Int := ((rows : Int) - 1) * signedFieldOf b 40 4
  let doff : Int := fieldOf b 4 4
  let low := doff + min 0 ((if kind = 3 then (cols : Int) - 1 else rows - 1) * signedFieldOf b 40 4)
  let high := doff + max 0 (if kind = 3 then ((cols : Int) - 1) * signedFieldOf b 40 4 else span) + (if kind = 3 then rows else cols) * ds
  kind ≤ 4 && zeroBytes b 3 1 && zeroBytes b 44 4 && (tyOfCode dtype).isSome &&
    (if kind = 0 then stype = dtype
     else if kind = 2 then (stype = 4 || stype = 6 || stype = 8) && 4 ≤ dtype && dtype ≤ 7 && cols % (fmtOfCode stype).elements = 0
     else (tyOfCode stype).isSome) &&
    fieldOf b 4 4 % ds = 0 && fieldOf b 8 8 < Config.windowBase && 1 ≤ cols && cols ≤ 65536 && 1 ≤ rows && rows ≤ 65535 &&
    (if kind = 4 then fieldOf b 48 8 % 4 = 0 else fieldOf b 48 8 = 0) && fieldOf b 56 8 % 32 = 0 && 0 ≤ low && high ≤ smin * 65536

/-- R298: the fields of a binding. -/
def bindingOf (b : List Byte) : Binding :=
  { kind := fieldOf b 0 1, stype := fieldOf b 1 1, dtype := fieldOf b 2 1, doff := fieldOf b 4 4, src := wordFieldOf b 8, gsx := signedFieldOf b 16 4,
    gsy := signedFieldOf b 20 4, gsz := signedFieldOf b 24 4, cols := fieldOf b 28 4, rows := fieldOf b 32 4, sstride := signedFieldOf b 36 4,
    dstride := signedFieldOf b 40 4, idx := wordFieldOf b 48, sync := wordFieldOf b 56 }

/-- Cut a list into pieces of n. -/
def chunks (n : Nat) (bs : List Byte) (count : Nat) : List (List Byte) := (List.range count).map fun i => (bs.drop (n * i)).take n

/-- What a launch asks for, as read. -/
structure Plan where
  kernel : Kernel
  bindings : List Binding
  record : LaunchRecord
  /-- R303: the prediction, and the cell as found; none for a fixed launch -/
  predicted : Option (Nat × List Byte) := none
deriving DecidableEq, Repr

/-- R297: the die of a group of a launch: of a root grid in both dies by turns, of a child grid the launcher's. -/
def State.dieFor (s : State) (child : Option Nat) (t : Nat) : Nat :=
  match child with
  | some d => d
  | none => if s.diesUp.contains 0 && s.diesUp.contains 1 then t / 64 % 2 else s.diesUp.headD 0

/-- R235, R240: the groups of a kernel that an empty core takes. -/
def coreCapacity (k : Kernel) (units : Nat) : Nat :=
  let n := k.gx * k.gy * k.gz
  let by_ (room need : Nat) : Nat := if need = 0 then 32 else room / need
  [32, Config.fibresPerCore / n, by_ Config.runSlotsPerCore (n * k.quota), by_ 983040 (k.smin * 65536 + n * k.stack), by_ 192 units].foldl Nat.min 32

/-- R240: would a coresident grid of n groups fit the live cores of an empty package? -/
def State.coresidentFits (s : State) (k : Kernel) (units n : Nat) (child : Option Nat) : Bool :=
  [0, 1].all fun d =>
    let groups := match child with
      | some c => if c = d then n else 0
      | none => ((List.range n).filter fun t => s.dieFor none t == d).length
    groups ≤ ((coresOf d).filter s.coreLive).length * coreCapacity k units

/-- R294, R295, R298: is a launch refused, apart from its cell and its slot? -/
def State.refuses (s : State) (k : Kernel) (r : LaunchRecord) (child : Option Nat) (inOrdered : Bool) : Bool :=
  let n := k.gx * k.gy * k.gz
  let z := if r.predicted then r.zmax else r.z
  r.x * r.y * z > 2 ^ 31 - 1 || n * k.quota > Config.runSlotsPerCore || k.smin * 65536 + n * k.stack > 983040 || (r.predicted && (k.coresident || k.pstate = 0)) ||
    (if k.ordered then r.width = 0 || inOrdered else r.width != 0 || r.m0 != 0) || (k.ordered && k.coresident && r.width != r.x * r.y * z) ||
    (k.coresident && !s.coresidentFits k r.units (r.x * r.y * z) child)

/-- R303: the state and extent of a shape cell. -/
def cellState (c : List Byte) : Nat := fieldOf c 4 4

/-- R295: is a cell one that a predicted launch refuses? -/
def cellRefused (c : List Byte) (r : LaunchRecord) : Bool :=
  cellState c = 1 || cellState c ≥ 3 || !zeroBytes c 12 4 || (cellState c = 2 && (fieldOf c 8 4 < r.zmin || fieldOf c 8 4 > r.zmax))

/-- R302: the prediction of a predictor state, before it is clamped: fixed, h0, the largest of four, or a table's
entry (DEDUCED, assumption 48), wherever the table lies (DESIGN CHOICE, assumption 118). -/
def State.predict (s : State) (read : Reader) (k : Kernel) (p : List Byte) (key : Nat) : Except (FaultCode × Word) (Nat × State) :=
  match k.pmode with
  | 0 => .ok (fieldOf p 16 4, s)
  | 1 => .ok (fieldOf p 0 4, s)
  | 2 => .ok ([fieldOf p 0 4, fieldOf p 4 4, fieldOf p 8 4, fieldOf p 12 4].foldl Nat.max 0, s)
  | _ => (read s (fieldOf p 24 8 + 4 * key) 4).map fun r => (fieldOf r.1 0 4, r.2)

/-- R303, R308, R320: read what a launch asks for: the record, the descriptor, the table, the cell and, where the cell is idle, the predictor, these two atomically
(R302, R303). None inside means that it is refused. (DEDUCED, assumption 86) -/
def State.readPlan (s : State) (read atomic : Reader) (a : Nat) (child : Option Nat) (inOrdered : Bool) : Except (FaultCode × Word) (Option Plan × State) := do
  let (rec, s) ← read s a 192
  if !(fieldOf rec 0 8 % 64 == 0) then return (none, s)
  let (d, s) ← read s (fieldOf rec 0 8) 64
  let count := fieldOf d 19 1
  let (tb, s) ← if 1 ≤ count && count ≤ 8 && fieldOf d 24 8 % 64 = 0 then read s (fieldOf d 24 8) (64 * count) else pure ([], s)
  if !recordOk rec || !descriptorOk d || !(chunks 64 tb count).all (bindingOk · (fieldOf d 16 1)) then return (none, s)
  let k := kernelOf d
  let r := launchRecordOf rec
  if s.refuses k r child inOrdered then return (none, s)
  let plan : Plan := { kernel := k, bindings := (chunks 64 tb count).map bindingOf, record := r }
  if !r.predicted then return (some plan, s)
  let (c, s) ← atomic s r.cell.toNat 16
  if cellRefused c r then return (none, s)
  if cellState c = 2 then return (some { plan with predicted := some (fieldOf c 8 4, c) }, s)
  let (p, s) ← atomic s k.pstate.toNat 32
  let (h, s) ← s.predict read k p r.key
  return (some { plan with predicted := some (Nat.max r.zmin (Nat.min r.zmax h), c) }, s)

/-! ### Acceptance -/

/-- R296: the lowest free launch slot of a context (DESIGN CHOICE, assumption 7). -/
def State.freeSlot (s : State) (c : Nat) : Option Nat :=
  let used := (s.launches.filter fun e => e.2.context == c).map (·.2.slot)
  (List.range (used.length + 1)).find? fun i => !used.contains i && i < 65536

/-- R302: shift an extent into the history of a predictor state, one atomic step at its home. The core of the fibre that makes it holds nothing of the line. -/
def State.shiftHistory (s : State) (core : Option Nat) (die c : Nat) (pstate : Word) (extent : Nat) : State :=
  match s.deviceLocate die c pstate.toNat with
  | none => s
  | some (pa, leaf, t) =>
    let t := match core with
      | some k => t.flushLine k pa (leafComp leaf)
      | none => t
    t.updateHome pa 16 (leafComp leaf) fun old => bytesOfNat 4 extent ++ old.take 12

/-- R230, R297: group t of a launch. -/
def State.newGroup (s : State) (lk : Nat) (l : Launch) (child : Option Nat) (t : Nat) (speculative : Bool) (edges : List Edge) : Group :=
  { launch := lk, context := l.context, linear := t, gx := t % l.record.x, gy := t / l.record.x % l.record.y, gz := t / (l.record.x * l.record.y),
    die := s.dieFor child t, state := .waiting, since := s.time, cls := l.cls, bank := l.record.k, barriers := Vector.replicate 16 {}, guards := Vector.replicate 16 .open_,
    speculative := speculative, acquired := edges }

/-- R294, R305: add groups `from_` to `to_ - 1` of a launch. -/
def State.addGroups (s : State) (lk : Nat) (l : Launch) (child : Option Nat) (from_ to_ : Nat) (spec : Nat → Bool) (edges : List Edge) : State :=
  (List.range (to_ - from_)).foldl
    (fun s i => { s.setGroup s.fresh (s.newGroup lk l child (from_ + i) (spec (from_ + i)) edges) with fresh := s.fresh + 1 }) s

/-- Who launches. -/
structure Launcher where
  context : Nat
  cls : Nat
  depth : Nat
  /-- R297: the die of a child grid -/
  child : Option Nat := none
  /-- the core of the fibre that launches it -/
  core : Option Nat := none
  queue : Nat
  packet : Nat
  tag : BitVec 32
  parent : Option (Nat × Nat) := none
  task : Option (Nat × Nat) := none
  lineage : List Nat := []
  milestone : BitVec 32 := 0
  edges : List Edge := []
deriving DecidableEq, Repr

/-- R303: a predicted launch takes its cell: the write of id and state 1, at the home. (DEDUCED, assumption 47) -/
def State.takeCell (s : State) (die c : Nat) (cell : Word) (slot : Nat) : State :=
  match s.deviceLocate die c cell.toNat with
  | none => s
  | some (pa, leaf, t) => t.updateHome pa 16 (leafComp leaf) fun old => bytesOfNat 4 slot ++ bytesOfNat 4 1 ++ old.drop 8

/-- R296, R302, R303: a launch is accepted: the key of the launch and the state; none when no slot is free. -/
def State.accept (s : State) (w : Launcher) (p : Plan) : Option (Nat × State) :=
  match s.freeSlot w.context with
  | none => none
  | some slot =>
    let r := p.record
    let die := w.child.getD (s.diesUp.headD 0)
    let pending := match p.predicted with
      | some c => cellState c.2 == 0
      | none => false
    let z := match p.predicted with
      | some c => if pending then c.1 else fieldOf c.2 8 4
      | none => r.z
    let s := if p.kernel.ordered then s.writeBackAll else s
    let lk := s.fresh
    let l : Launch :=
      { context := w.context, slot := slot, kernel := p.kernel, bindings := p.bindings, record := r, z := z, predictedZ := z, resolved := !pending, cls := w.cls, child := w.child,
        depth := w.depth, queue := w.queue, packet := w.packet, tag := w.tag, parent := w.parent, counter := r.x * r.y * z, task := w.task,
        lineage := w.lineage, milestone := w.milestone, order := lk, launchEdges := w.edges, phaseMem := if p.kernel.ordered then s.home else {} }
    let s := { s.setLaunch lk l with fresh := lk + 1 }
    let s := if pending then s.takeCell die w.context r.cell slot
      else if r.predicted then s.shiftHistory w.core die w.context p.kernel.pstate z else s
    let s := match w.parent with
      | some q => s.gridCount q.2 (· + 1)
      | none => s
    some (lk, s.addGroups lk l w.child 0 (r.x * r.y * z) (fun t => pending && t / (r.x * r.y) ≥ r.zmin) [])

/-- R297, R301, R308: the launcher that a fibre is. -/
def State.launcherOf (s : State) (f : Nat) (x : Fibre) (l : Launch) (e : Edge) : Launcher :=
  { context := x.context, cls := x.cls, depth := l.depth + 1, child := some (dieOf x.core), core := some x.core, queue := l.queue, packet := l.packet, tag := l.tag,
    parent := some (f, x.launch), task := s.taskOf f x, lineage := x.lineage ++ [x.launches], milestone := x.milestone, edges := [e] }

/-- R308 (DEDUCED, assumption 49). The cell of a predicted launch must lie on a writable page, though a cell of state 2 is not written (DESIGN CHOICE, assumption
119). The launch edge is a release (R212). -/
def execLaunch (d : Dst) (a : Src) (s : State) : Host.Outcome State Fault Refusal :=
  s.issueWith fun f x =>
    let va := x.read (s.bankOf x) a
    match s.launches.get? x.launch with
    | none => .trap .access va 0
    | some l =>
      if x.speculative then .stall .resolution
      else if l.depth = 10 then .trap .depth 0 0
      else if va.toNat % 64 != 0 then .trap .align va 0
      else
        match s.readPlan (fibreReader f x) (fibreAtomicReader f x) va.toNat (some (dieOf x.core)) (s.inOrdered x.launch) with
        | .error e => .trap e.1 e.2 0
        | .ok (none, _) => .trap .access va 0
        | .ok (some p, t) =>
          let cell := if p.record.predicted then (t.locate f x { write := true, slice := false, detach := false } p.record.cell 16 16).map fun r => r.1
            else .ok (.slice 0)
          match cell with
          | .error e => .trap e p.record.cell 0
          | .ok loc =>
            let t := match loc with
              | .mem pa comp _ _ _ => t.flushLine x.core pa comp
              | .slice _ | .grant _ => t
            let e := t.releaseOn x.core
            let e := (e.1.learnAll [.release e.2.1 e.2.2] (· == .fibre f), e.2)
            match e.1.accept (t.launcherOf f x l e.2) p with
            | none => .trap .access va 0
            | some (lk, u) =>
              let id := match u.launches.get? lk with
                | some n => n.slot
                | none => 0
              let u := u.setFibre f (({ x with launches := x.launches + 1 } : Fibre).write d (BitVec.ofNat 64 id))
              .done (u.launchProgress lk)

/-! ### Resolution -/

/-- R304, R305: the speculative bytes of a surviving group are committed: each is written at its home, where its fibre's core holds nothing of the line.
An error found in one goes with it (R27). -/
def State.commitSpec (s : State) (core : Nat) (bs : List SpecByte) : State :=
  bs.foldl
    (fun s b =>
      let c := match s.fibres.get? b.fibre with
        | some x => x.core
        | none => core
      let s := s.flushLine c b.pa b.comp
      let s := (s.writeHome b.comp [(b.pa, b.value)]).sendHome [b.pa]
      if b.bad then { s with home := { s.home with bad := distinct (s.home.bad ++ [b.pa]) } } else s) s

/-- R311: a block is freed: an edge stays behind for the next owner of its bytes. -/
def State.freeBlock (s : State) (c base : Nat) (e : Edge) : State :=
  s.updContext c fun k =>
    match k.heap.find? fun b => b.base == base with
    | some b => { k with heap := k.heap.filter fun o => o.base != base, freed := k.freed ++ (e :: b.freedBy.toList).map fun e => (b.base, b.size, e) }
    | none => k

/-- R310: bytes that hold nothing defined any more, in pieces of 256; those of a page that is not resident become so at their first access. (DESIGN CHOICE,
assumption 46) -/
def State.scramble (s : State) (die c va pieces : Nat) : State :=
  (List.range pieces).foldl
    (fun s i =>
      let at_ := va + 256 * i
      match s.deviceLocate die c at_ with
      | none => s.updContext c fun k => { k with unset := if k.unset.contains at_ then k.unset else k.unset ++ [at_] }
      | some (pa, leaf, t) => (t.scramblePiece pa (leafComp leaf)).updContext c fun k => { k with unset := k.unset.filter (· != at_) }) s

/-- R305: what a launch's group t left with the context is taken back: blocks that it held retractably, and deferred frees. -/
def State.retract (s : State) (c lk t : Nat) : State :=
  s.updContext c fun k =>
    { k with heap := (k.heap.filter fun b => b.retractable != some (lk, t)).map fun b =>
      if b.freeing = some (lk, t) then { b with freeing := none, freedBy := none } else b }

/-- R305: deferred frees of group t are performed, and its blocks stay. -/
def State.settleHeap (s : State) (die c lk t : Nat) : State :=
  match s.contexts.get? c with
  | none => s
  | some k =>
    let s := s.setContext c { k with heap := k.heap.map fun b => if b.retractable = some (lk, t) then { b with retractable := none } else b }
    (k.heap.filter fun b => b.freeing == some (lk, t)).foldl (fun s b => (s.freeBlock c b.base homeEdge).scramble die c b.base (b.size / 256)) s

/-- R305: a surplus group is dropped or squashed with all that belongs to it, what it buffered for a task of an ordered grid too. -/
def State.squash (s : State) (lk : Nat) (l : Launch) (g : Nat) (k : Group) : State :=
  let t := k.linear
  let s := if k.state = .waiting then s else s.traceGroup g 8
  let mine (e : Nat × Frame) : Bool := e.2.launch == lk && e.2.linear == t
  let fs := (s.frames.filter mine).map (·.1)
  let outside := (s.frames.filter fun e => mine e && (e.2.group.isNone || e.2.state == .task)).length
  let s := fs.foldl (fun s f => s.leaveConvoy f) s
  let s :=
    { s with
      fibres := s.fibres.filter fun e => !fs.contains e.1, frames := s.frames.filter fun e => !fs.contains e.1, groups := s.groups.del g,
      marks := s.marks.filter fun e => !fs.contains e.2.fibre && e.2.speculative != some (lk, t) }
  let s := s.retract l.context lk t
  let s := { s with launches := s.launches.mapAll fun _ n => { n with buffered := n.buffered.filter fun b => b.by_ != (lk, t) } }
  s.updLaunch lk fun n =>
    { n with
      counter := n.counter - 1 - outside, spec := n.spec.filter (fun b => b.group != t), buffered := n.buffered.filter (fun b => b.task != t),
      deferred := n.deferred.filter fun d => d.1 != t }

/-- R304, R305: the events that a surviving group held back are raised. -/
def State.raiseDeferred (s : State) (lk t : Nat) : State :=
  match s.launches.get? lk with
  | none => s
  | some l =>
    (l.deferred.filter fun d => d.1 == t).foldl
      (fun s d => if d.2.1 then s.queueEvent l.queue d.2.2 else s.contextEvent l.context d.2.2)
      (s.setLaunch lk { l with deferred := l.deferred.filter fun d => d.1 != t })

/-- R304, R305: the held additions of a surviving group are made; one that fails its checks is reported (R484). -/
def State.makeHeld (s : State) (lk : Nat) (l : Launch) (k : Group) : State :=
  k.heldAdds.foldl
    (fun s a =>
      match s.engineAdd k.die k.context (l.kernel.ordered || l.task.isSome) a.word a.amount.toNat [homeEdge] a.by_ with
      | .ok t => t
      | .error e => s.reportAddition lk k.linear e) s

/-- R305: a group survives: its fibres cease to be speculative, its lines are committed, and what it held proceeds. -/
def State.survive (s : State) (lk : Nat) (l : Launch) (e : Edge) (g : Nat) (k : Group) : State :=
  let t := k.linear
  let s := s.commitSpec k.core (l.spec.filter fun b => b.group == t)
  let s := s.updLaunch lk fun n => { n with spec := n.spec.filter fun b => b.group != t }
  let mine (f : Nat) : Bool := match s.frames.get? f with
    | some r => r.launch == lk && r.linear == t
    | none => false
  let s :=
    { s with
      fibres := s.fibres.mapAll fun f x => if mine f then Fibre.acquire { x with speculative := false } [e, homeEdge] else x,
      marks := s.marks.mapAll fun _ m => if m.speculative = some (lk, t) then { m with speculative := none } else m }
  let s := (s.frames.filter fun r => r.2.launch == lk && r.2.linear == t).foldl
    (fun s r => s.putFrame r.1
      { r.2 with
        speculative := false, acquired := addEdges 193 r.2.acquired [e, homeEdge],
        savedFibre := r.2.savedFibre.map fun (x : Fibre) => { x with speculative := false } }) s
  let s := s.learnAll ((s.fibres.keys fun f _ => mine f).map .fibre) (· == .release e.1 e.2)
  let s := (s.makeHeld lk l k).raiseDeferred lk t
  let s := s.settleHeap k.die l.context lk t
  if k.state = .retired then ({ s with groups := s.groups.del g }.gridCount lk (· - 1)).updLaunch lk fun n => { n with acquired := addEdges 193 n.acquired [homeEdge] }
  else s.updGroup g fun q => { q with speculative := false, heldAdds := [], acquired := addEdges 193 q.acquired [e, homeEdge] }

/-- R305: a launch is resolved with extent z: survivors, surplus and tail, and the history of its predictor (R302). -/
def State.resolve (s : State) (lk z : Nat) (e : Edge) : State :=
  match s.launches.get? lk with
  | none => s
  | some l =>
    let per := l.record.x * l.record.y
    let spec := s.groups.filter fun g => g.2.launch == lk && g.2.speculative
    let s := s.setLaunch lk { l with resolved := true, z := z }
    let s := s.shiftHistory (some e.1) (s.launchDie lk) l.context l.kernel.pstate z
    let s := spec.foldl (fun s g => if g.2.gz < z then s.survive lk l e g.1 g.2 else s.squash lk l g.1 g.2) s
    let s := (s.gridCount lk (· + (per * z - per * l.predictedZ))).addGroups lk l l.child (per * l.predictedZ) (per * z) (fun _ => false) [e]
    s.launchProgress lk

/-- R309: the live predicted launch pending on a cell that its id names. -/
def State.pendingOn (s : State) (c id : Nat) (cell : Word) : Option (Nat × Launch) :=
  s.launches.find? fun e => e.2.context == c && e.2.slot == id && e.2.record.predicted && !e.2.resolved && e.2.record.cell == cell

/-- R309. -/
def execShape (a b : Src) (s : State) : Host.Outcome State Fault Refusal :=
  s.issueWith fun f x =>
    let va := x.read (s.bankOf x) a
    let z := (x.read (s.bankOf x) b).toNat
    if x.speculative then .stall .resolution
    else
      match s.locate f x { write := true, slice := false, detach := false } va 16 16 with
      | .error e => .trap e va 0
      | .ok (loc, t) =>
        if z > 0xFFFFFFFF then .trap .access va 0
        else if t.atomicError f x 16 loc then .trap .ecc va 0
        else
          match t.atomicAt f x loc 16 (fun _ => none) with
          | none => .trap .decode va 0
          | some (c, t) =>
            let st := cellState c
            let l := t.pendingOn x.context (fieldOf c 0 4) va
            let refused := st ≥ 2 || !zeroBytes c 12 4 || (st = 1 && match l with
              | some e => z < e.2.record.zmin || z > e.2.record.zmax
              | none => true)
            if refused then .trap .access va 0
            else
              match t.atomicAt f x loc 16 fun old => some (old.take 4 ++ bytesOfNat 4 2 ++ bytesOfNat 4 z ++ old.drop 12) with
              | none => .trap .decode va 0
              | some (_, t) =>
                let e := t.releaseOn x.core
                let e := (e.1.learnAll [.release e.2.1 e.2.2] (· == .fibre f), e.2)
                match st, l with
                | 1, some n => .done (e.1.resolve n.1 z e.2)
                | _, _ => .done e.1

/-! ### The heap -/

/-- R310: the lowest aligned address from which a block of a size overlaps no live block (DESIGN CHOICE, assumption 7). -/
def heapPlace (blocks : List HeapBlock) (base size need align : Nat) : Option Nat :=
  let up (a : Nat) : Nat := (a + align - 1) / align * align
  (sortBy (fun a b => a ≤ b) ((base :: blocks.map fun b => b.base + b.size).map up)).find? fun a =>
    base ≤ a && a + need ≤ base + size && blocks.all fun b => a + need ≤ b.base || b.base + b.size ≤ a

/-- R310. -/
def execXalloc (d : Dst) (a b : Src) (s : State) : Host.Outcome State Fault Refusal :=
  s.issueWith fun f x =>
    let n := (x.read (s.bankOf x) a).toNat
    let al := (x.read (s.bankOf x) b).toNat
    match s.contexts.get? x.context with
    | none => .trap .access 0 0
    | some k =>
      if n = 0 || n > 2 ^ 32 || al < 8 || al > 21 then .trap .access 0 0
      else
        let need := (n + 255) / 256 * 256
        match heapPlace k.heap k.desc.heapBase k.desc.heapSize need (2 ^ al) with
        | none => .done (s.setFibre f (x.write d 0))
        | some p =>
          let edges := (k.freed.filter fun e => e.1 < p + need && p < e.1 + e.2.1).map (·.2.2)
          let owner := if x.speculative then some (x.launch, s.linearOf f) else none
          let s := (s.setContext x.context { k with heap := k.heap ++ [{ base := p, size := need, retractable := owner }] }).learnAll [.fibre f] fun p =>
            edges.any fun e => p == .release e.1 e.2
          let s := s.scramble (dieOf x.core) x.context p (need / 256)
          .done (s.setFibre f ((x.write d (BitVec.ofNat 64 p)).acquire edges))

/-- R311, R304. -/
def execXfree (a : Src) (s : State) : Host.Outcome State Fault Refusal :=
  s.issueWith fun f x =>
    let va := x.read (s.bankOf x) a
    match s.contexts.get? x.context with
    | none => .trap .access va 0
    | some k =>
      match k.heap.find? fun b => b.base == va.toNat with
      | none => .trap .access va 0
      | some b =>
        if b.freeing.isSome then .trap .access va 0
        else
          let e := s.releaseOn x.core
          let e := (e.1.learnAll [.release e.2.1 e.2.2] (· == .fibre f), e.2)
          if x.speculative then
            .done (e.1.updContext x.context fun k =>
              { k with heap := k.heap.map fun o =>
                if o.base = b.base then { o with freeing := some (x.launch, s.linearOf f), freedBy := some e.2 } else o })
          else
          .done ((e.1.freeBlock x.context b.base e.2).scramble (dieOf x.core) x.context b.base (b.size / 256))

end Sys2Proof.Machine
end

