-- ==== Sys2Proof/Machine/Pages.lean ====
section
/-! DEFINITION. The instructions of the page chapter: `pinval`, `metaz`, `decomp` and `pquery` (R361-R365), and the migration of a page between tiers (R351). -/

namespace Sys2Proof.Machine

/-! ### Invalidation -/

/-- R350, R362: the cached translations of a context, on both dies, that lie outside a range. -/
def leavesOutside (c from_ upto : Nat) (ls : List CachedLeaf) : List CachedLeaf :=
  ls.filter fun l => !(l.context == c && l.va < upto && from_ < l.va + l.size)

/-- R362: drop every cached translation of a range of a context. -/
def State.invalidate (s : State) (c from_ upto : Nat) : State :=
  { s with
    cores := s.cores.mapAll fun _ k => { k with tlb := leavesOutside c from_ upto k.tlb }
    walks := s.walks.map (leavesOutside c from_ upto) }

/-- R362: walks that start afterwards find what the release covers: it is written back at once. -/
def execPinval (a b : Src) (s : State) : Host.Outcome State Fault Refusal :=
  s.issueWith fun _ x =>
    let from_ := x.read (s.bankOf x) a
    let len := x.read (s.bankOf x) b
    if from_.toNat % 65536 != 0 || len.toNat % 65536 != 0 then .trap .align from_ 0
    else if from_.toNat ≥ 2 ^ 52 || from_.toNat + len.toNat > 2 ^ 52 then .trap .translation from_ 0
    else
      let r := s.releaseOn x.core
      let t := r.1.reconcileHome [r.2]
      .wait (if len = 0 then t.invalidate x.context 0 (2 ^ 52) else t.invalidate x.context from_.toNat (from_.toNat + len.toNat)) .translations

/-! ### Regions -/

/-- R363, R364: the checks of n regions of 64 KiB as stores: where each lies, with the class of its leaf, or the first fault and its address. -/
def State.locateRegions (s : State) (f : Nat) (x : Fibre) (va : Word) (n : Nat) : Except (FaultCode × Word) (List (Nat × Nat × Word) × State) :=
  match n with
  | 0 => .ok ([], s)
  | n + 1 =>
    match s.locate f x { write := true, slice := false } va 65536 65536 with
    | .error e => .error (e, va)
    | .ok (.slice _, _) | .ok (.grant _, _) => .error (.access, va)
    | .ok (.mem pa comp _ _ _, t) =>
      let t := (List.range 256).foldl (fun t i => t.freshen x.context (va.toNat + 256 * i) (pa + 256 * i) comp) t
      match t.locateRegions f x (va + 65536) n with
      | .error e => .error e
      | .ok (rs, u) => .ok ((pa, comp, va) :: rs, u)

/-- R363: the metadata of a region after `metaz`: every mode byte 0 with the summary bit set, or every one fast-clear with the bit clear. -/
def Images.clearRegion (im : Images) (pa : Nat) (fast : Bool) (c : Nat) : Images :=
  let region := pa / 65536
  let im := { im with badModes := im.badModes.filter fun t => t / 256 != region }
  let modes := im.modes.filter fun e => e.1 / 256 != region
  let encoded := im.encoded.filter (· != region)
  if fast then
    { im with
      modes := (List.range 256).foldl (fun m i => Tab.put m (region * 256 + i) (BitVec.ofNat 8 (16 * c + 1))) modes
      encoded := encoded ++ [region] }
  else { im with modes := modes, encoded := encoded }

/-- R363, R364: what a core holds of a range: its dirty bytes precede the write and go home; its L1 and sampler lines are dropped. -/
def State.flushRange (s : State) (c pa len : Nat) : State :=
  let s := s.writeBack c fun a _ => pa ≤ a && a < pa + len
  let k := s.core c
  let out (l : CleanLine) : Bool := !(l.pa < pa + len && pa < l.pa + l.bytes.length)
  s.setCore c { k with clean := k.clean.filter out, sampler := k.sampler.filter out }

/-- R363, R364, R433: every byte of a region is written. -/
def State.noteRegion (s : State) (pa : Nat) : State := s.noteWhere fun a => pa ≤ a && a < pa + 65536

/-- R363: the limits of a metaz word. -/
def metazWordOk (w : Word) : Bool :=
  bitsField w 28 36 = 0 && bitsField w 22 2 = 0 && bitsField w 17 3 = 0 && bitsField w 20 2 ≤ 1 && (bitsField w 20 2 = 1 || bitsField w 24 4 = 0) &&
    1 ≤ bitsField w 0 17 && bitsField w 0 17 ≤ 65536

/-- R363. -/
def execMetaz (a b : Src) (s : State) : Host.Outcome State Fault Refusal :=
  s.issueWith fun f x =>
    let va := x.read (s.bankOf x) a
    let w := x.read (s.bankOf x) b
    if x.speculative then .stall .resolution
    else if va.toNat % 65536 != 0 then .trap .align va 0
    else if !metazWordOk w then .trap .access va 0
    else
      match s.locateRegions f x va (bitsField w 0 17) with
      | .error e => .trap e.1 e.2 0
      | .ok (rs, t) =>
        .done (rs.foldl
          (fun s r =>
            let s := (s.flushRange x.core r.1 65536).noteRegion r.1
            { s with home := s.home.clearRegion r.1 (bitsField w 20 2 = 1) (bitsField w 24 4) }) t)

/-- R364: one tile becomes plain; none where it breaks R355. -/
def Images.plainTile (im : Images) (pa comp : Nat) : Option Images :=
  if comp = 0 then some (im.setMode pa 0)
  else (im.tile pa).map fun bs => ({ im with mem := im.mem.writeBytes pa bs }.setMode pa 0).heal pa 256

/-- R364: the tiles of a region from tile i on: how many became plain before one that faults. -/
def State.plainTiles (s : State) (pa comp i : Nat) : Nat → Except (FaultCode × Nat × State) State
  | 0 => .ok s
  | left + 1 =>
    let at_ := pa + 256 * i
    if comp != 0 && s.home.faulty at_ 256 comp then .error (.ecc, i, s)
    else
      match s.home.plainTile at_ comp with
      | none => .error (.decode, i, s)
      | some im => State.plainTiles ({ s with home := im }.noteWhere fun a => at_ ≤ a && a < at_ + 256) pa comp (i + 1) left

/-- R364: the regions in ascending address; a tile that faults ends the work, with the state in which the tiles below it are rewritten. -/
def State.plainRegions (s : State) (core : Nat) : List (Nat × Nat × Word) → Except (FaultCode × Word × State) State
  | [] => .ok s
  | r :: rs =>
    match (s.flushRange core r.1 65536).plainTiles r.1 r.2.1 0 256 with
    | .error (e, i, t) => .error (e, r.2.2 + BitVec.ofNat 64 (256 * i), t)
    | .ok t => { t with home := t.home.clearRegion r.1 false 0 }.plainRegions core rs

/-- R364. -/
def execDecomp (a b : Src) (s : State) : Host.Outcome State Fault Refusal :=
  s.issueWith fun f x =>
    let va := x.read (s.bankOf x) a
    let len := (x.read (s.bankOf x) b).toNat
    if x.speculative then .stall .resolution
    else if va.toNat % 65536 != 0 || len % 65536 != 0 || len = 0 then .trap .align va 0
    else if va.toNat + len > 2 ^ 52 then .trap .translation va 0
    else
      match s.locateRegions f x va (len / 65536) with
      | .error e => .trap e.1 e.2 0
      | .ok (rs, t) =>
        match t.plainRegions x.core rs with
        | .error (.ecc, at_, _) => .trap .ecc at_ 0
        | .error (e, at_, u) => .trapIn u e at_
        | .ok u => .done u

/-- R365: counts with the loads; an error in an entry is met with the data. -/
def execPquery (d : Dst) (a : Src) (s : State) : Host.Outcome State Fault Refusal :=
  s.issueWith fun f x =>
    let va := x.read (s.bankOf x) a
    if x.full .ld then .stall (.counter CountClass.ld.index)
    else
      let hold := s.queryError x va
      let y := x.loadDest d hold
      .done (s.setFibre f (y.1.addPend (.query va) y.2 hold .ld))

/-! ### Migration -/

/-- R345: the leaf of an address: its level and its value. -/
def leafPlace (im : Images) (own va : Nat) (entry : Word) (left : Nat) : Option (Nat × Word) :=
  match left with
  | 0 => none
  | left + 1 =>
    let level := 3 - left
    let e := BitVec.ofNat 64 (im.mem.readNat (localKey (entryTier entry) (entryOffset entry) + 8 * (va / pageSize level % 512)) 8)
    if validLeaf own level e then some (level, e)
    else if level < 3 && validTable e then leafPlace im own va e left
    else none

/-- R351: the leaf of a page after a move: its tier and offset change. (DEDUCED, assumption 73) -/
def movedLeaf (e : Word) (tier : Bool) (off : Nat) : Word :=
  BitVec.ofNat 64 (e.toNat / 2 ^ 52 * 2 ^ 52 + off % 2 ^ 52 + bitsField e 9 3 * 2 ^ 9 + (if tier then 256 else 0) + bitsField e 0 8)

/-- R351: the bytes of a page, with its mode bytes and summary bits, at another place. -/
def Images.movePage (im : Images) (src dst n : Nat) : Images :=
  let inside (a k : Nat) : Bool := src / k ≤ a && a < (src + n) / k
  let away (a k : Nat) : Bool := dst / k ≤ a && a < (dst + n) / k
  { mem := ((im.mem.filter fun e => inside e.1 1).foldl (fun m e => m.write (e.1 - src + dst) e.2) (im.mem.filter fun e => !away e.1 1))
    modes := ((im.modes.filter fun e => inside e.1 256).foldl (fun m e => Tab.put m (e.1 - src / 256 + dst / 256) e.2) (im.modes.filter fun e => !away e.1 256))
    bad := (im.bad.filter fun a => !away a 1).map fun a => if inside a 1 then a - src + dst else a
    badModes := (im.badModes.filter fun t => !away t 256).map fun t => if inside t 256 then t - src / 256 + dst / 256 else t
    encoded := (im.encoded.filter fun r => !away r 65536) ++ ((im.encoded.filter fun r => inside r 65536).map fun r => r - src / 65536 + dst / 65536) }

/-- R345: the valid entries below an entry: where each stands, its level and its value. An entry of zeros is no valid one, so only listed memory can hold them. -/
def tableEntries (im : Images) (own : Nat) (entry : Word) (left : Nat) : List (Nat × Nat × Word) :=
  match left with
  | 0 => []
  | left + 1 =>
    let level := 3 - left
    let base := localKey (entryTier entry) (entryOffset entry)
    let places := ((im.mem.filter fun e => base ≤ e.1 && e.1 < base + 4096).map fun e => e.1 / 8 * 8).eraseDups
    places.flatMap fun a =>
      let e := BitVec.ofNat 64 (im.mem.readNat a 8)
      if validLeaf own level e then [(a, level, e)]
      else if level < 3 && validTable e then (a, level, e) :: tableEntries im own e left
      else []

/-- R345: the valid entries of every context, the roots (at no address) among them. -/
def State.allEntries (s : State) : List (Option Nat × Nat × Word) :=
  s.contexts.flatMap fun (c : Nat × Context) =>
    if validTable c.2.desc.ptroot then
      (none, 0, c.2.desc.ptroot) :: (tableEntries s.home s.node c.2.desc.ptroot 4).map fun e => (some e.1, e.2)
    else []

/-- R351: does an entry keep the `n` bytes at a physical address where they are: a table among them, or a page that they fill only in part? -/
def entryPins (own src n : Nat) (level : Nat) (e : Word) : Bool :=
  let base := localKey (entryTier e) (entryOffset e)
  if validLeaf own level e then leafNode e = own && n < pageSize level && base < src + n && src < base + pageSize level
  else base < src + n && src < base + 4096

/-- R351: an access at a physical address after a move. -/
def Loc.moved (move : Nat → Nat) : Loc → Loc
  | .mem pa comp ordered policy va => .mem (move pa) comp ordered policy va
  | l => l

/-- R351: a buffered operation of an ordered task (R269) after a move. -/
def PendOp.moved (move : Nat → Nat) : PendOp → PendOp
  | .store ws flags => .store (ws.map fun (w : Loc × List Byte) => (w.1.moved move, w.2)) flags
  | .ared l k => .ared (l.moved move) k
  | .syncInit l t => .syncInit (l.moved move) t
  | .syncAdd l n => .syncAdd (l.moved move) n
  | p => p

/-- R351: a page moves between tiers: its bytes and its metadata move, every leaf that maps them is rewritten, and cached translations of its range and of its bytes are
dropped. It moves only while no access is in flight, to a place of the other tier that is in service and that holds nothing. (DEDUCED, assumption 73) -/
def execPageMigration (c va : Nat) (tier : Bool) (off : Nat) (s : State) : Host.Outcome State Fault Refusal :=
  match s.contexts.get? c with
  | none => .next s
  | some k =>
    match if validTable k.desc.ptroot then leafPlace s.home s.node va k.desc.ptroot 4 else none with
    | none => .next s
    | some (level, e) =>
      let n := pageSize level
      let src := localKey (entryTier e) (entryOffset e)
      let dst := localKey tier off
      let s := s.writeBackAll
      let all := s.allEntries
      if leafNode e != s.node || !leafResident e || entryTier e == tier || off % n != 0 || off + n > 2 * Config.tierBytes tier || !s.served tier off ||
          (s.home.mem.any fun m => dst ≤ m.1 && m.1 < dst + n) || (s.fibres.any fun f => !f.2.pend.isEmpty) ||
          (all.any fun t => entryPins s.node src n t.2.1 t.2.2) then .next s
      else
        let move (a : Nat) : Nat := if src ≤ a && a < src + n then a - src + dst else a
        let maps (w : Word) : Bool := leafNode w = s.node && move (localKey (entryTier w) (entryOffset w)) != localKey (entryTier w) (entryOffset w)
        let im := all.foldl (fun (im : Images) t =>
          match t.1 with
          | some a =>
            if validLeaf s.node t.2.1 t.2.2 && maps t.2.2 then
              { im with mem := im.mem.writeNat a 8 (movedLeaf t.2.2 tier (off + (localKey (entryTier t.2.2) (entryOffset t.2.2) - src))).toNat }
            else im
          | none => im) (s.home.movePage src dst n)
        let stale (l : CachedLeaf) : Bool :=
          leafNode l.leaf = s.node && localKey (entryTier l.leaf) (entryOffset l.leaf) < src + n && src < localKey (entryTier l.leaf) (entryOffset l.leaf) + l.size
        let keep (ls : List CachedLeaf) : List CachedLeaf := (leavesOutside c (va / n * n) (va / n * n + n) ls).filter fun (l : CachedLeaf) => !stale l
        let s := { s with home := im, walks := s.walks.map keep }
        let s :=
          { s with
            cores := s.cores.mapAll fun _ (q : CoreState) => { q with clean := [], sampler := [], tlb := keep q.tlb }
            groups := s.groups.mapAll fun _ (g : Group) => g.moveWords move
            collectives := s.collectives.mapAll fun _ (q : Collective) => { q with spans := q.spans.map fun (r : Nat × Nat × Nat × Nat) => (move r.1, r.2) }
            wordEdges := s.wordEdges.map fun (w : Nat × List Edge) => (move w.1, w.2)
            launches := s.launches.mapAll fun _ (l : Launch) =>
              { l with
                buffered := l.buffered.map fun (b : Buffered) => { b with op := b.op.moved move }
                phaseMem := l.phaseMem.movePage src dst n
                spec := l.spec.map fun (b : SpecByte) => { b with pa := move b.pa } } }
        .next s

end Sys2Proof.Machine
end

