-- ==== Sys2Proof/Machine/Engines.lean ====
section
/-! DEFINITION. Meetings of fibres and engines: waiting on sync words (R255), the copy engine (R257-R262), waits on counts (R263, R264) and guard slots
(R265, R266). -/

namespace Sys2Proof.Machine

/-! ### Sync words -/

/-- R255: has a generation been reached? -/
def genReached (gen b : BitVec 32) : Bool := (gen - b).toNat < 2 ^ 31

/-- R255: an atomic read of a sync word of a context: its generation, of a freed word an undefined one (R311); none where its tile breaks R355. -/
def State.readGen (s : State) (c va pa comp : Nat) : Option (BitVec 32 × State) :=
  (s.home.read pa 32 comp).map fun bs => let r := s.blurFreed c va bs; (BitVec.ofNat 32 (fieldOf r.1 16 4), r.2)

/-- R256: the releases of the additions to a word. -/
def State.edgesOf (s : State) (pa : Nat) : List Edge := (s.wordEdges.get? pa).getD []

/-- R255, R190: a fibre reads the generation of a sync word, once checked: its physical address, the generation, and the state. -/
def State.readWord (s : State) (f : Nat) (x : Fibre) (va : Word) : Except FaultCode (Nat × BitVec 32 × State) :=
  match s.locate f x (syncAccess false) va 32 32 with
  | .error e => .error e
  | .ok (.mem pa comp o p v, u) =>
    let u := u.flushLine x.core pa comp
    if u.atomicError f x 32 (.mem pa comp o p v) then .error .ecc
    else
      match u.readGen x.context v pa comp with
      | none => .error .decode
      | some (gen, u) => .ok (pa, gen, u)
  | .ok (.slice _, _) | .ok (.grant _, _) => .error .access

/-- R255, R256: a fibre has read that the generation is reached: it writes it and acquires the additions. -/
def State.passSync (s : State) (f : Nat) (x : Fibre) (pa : Nat) (gen : BitVec 32) (d : Dst) : State :=
  (s.setFibre f ((x.write d (gen.zeroExtend 64)).acquire (s.edgesOf pa))).learnAll [.fibre f] (· == .word pa)

/-- R255, R261. -/
def execSwwait (a b : Src) (d : Dst) (s : State) : Host.Outcome State Fault Refusal :=
  s.issueWith fun f x =>
    match x.copyFaults with
    | c :: _ => .copyTrap (s.setFibre f (s.raisesCopyFault x)) c.code c.addr c.record
    | [] =>
      let r := x.read (s.bankOf x)
      match s.readWord f x (r a) with
      | .error e => .trap e (r a) 0
      | .ok (pa, gen, u) =>
        let want := (r b).setWidth 32
        if genReached gen want then .done (u.passSync f x pa gen d) else .wait u (.syncWord (r a) want d)

/-- R255, R261: the repeated read of a waited sync word: an access of its own, with the checks of one. A copy fault is raised at the unit where it waits. -/
def execSwwaitPoll (f : Nat) (s : State) : Host.Outcome State Fault Refusal :=
  match s.fibres.get? f with
  | none => .next s
  | some x =>
    match x.waitsFor with
    | some (.syncWord va want d) =>
      if !x.copyFaults.isEmpty then .next (s.takeCopyFault f x)
      else
        match s.readWord f x va with
        | .error e => .next (s.trapAtWait f x .unit e va 0)
        | .ok (pa, gen, u) => if genReached gen want then .next ((u.passSync f x pa gen d).passWait f) else .next u
    | _ => .next s

/-! ### Guard slots -/

/-- R266: has a fibre a write to a slot not in effect, issued no later than a cycle? -/
def Group.writesGuard (g : Group) (fid : Nat) (slot : Fin 16) (since : Nat) : Bool :=
  g.guardWrites.any fun w => w.2.1 == fid && w.2.2.1 == slot && w.1 ≤ since

/-- The group-relative index of a command's fibre. -/
def State.fidOf (s : State) (f : Option Nat) : Nat :=
  match f.bind s.anyFibre with
  | some x => x.fid
  | none => 0

/-- R265: a guard as a command at its queue head finds it: none when the command waits. -/
def Group.guardTest (g : Group) (fid : Nat) (gd : Guard) (since : Nat) : Option Bool :=
  match gd with
  | none => some true
  | some i =>
    if g.writesGuard fid i since then none
    else
      match g.guards[i] with
      | .open_ => none
      | .true_ => some true
      | .false_ => some false

/-- R266: the release that a guard's True carries. -/
def Group.guardEdge (g : Group) (gd : Guard) : List Edge :=
  match gd with
  | some i => g.guardEdges[i].toList
  | none => []

/-- R266: an operation that a guard's True starts knows of the slice what the `gset` released. -/
def Group.learnGuard (g : Group) (gd : Guard) (p : Option Party) : Group :=
  match p with
  | some p => g.learn [p] fun q => (g.guardEdge gd).any fun e => q == .release e.1 e.2
  | none => g

/-- R265: the head of a group's copy queue tests its slot: it may start, it waits, or it is discarded and the next is at the head. -/
def State.testCopies (s : State) (g : Nat) (fuel : Nat) : State :=
  match fuel with
  | 0 => s
  | fuel + 1 =>
    match s.groups.get? g with
    | none => s
    | some k =>
      match k.copies with
      | [] => s
      | c :: rest =>
        if c.passed then s
        else
          match k.guardTest (s.fidOf c.fibre) c.guard c.since with
          | none => s
          | some true =>
            s.setGroup g
              { k.learnGuard c.guard (c.fibre.map fun f => .operation f .cp c.number) with
                copies := { c with passed := true, acquired := c.acquired ++ k.guardEdge c.guard } :: rest }
          | some false => ((s.setGroup g { k with copies := rest }).dropCopy c).testCopies g fuel

/-- R265, R276: the same for the matrix queue. -/
def State.testMatrix (s : State) (g : Nat) (fuel : Nat) : State :=
  match fuel with
  | 0 => s
  | fuel + 1 =>
    match s.groups.get? g with
    | none => s
    | some k =>
      match k.matrix with
      | [] => s
      | c :: rest =>
        if c.passed then s
        else
          match k.guardTest (s.fidOf c.fibre) c.guard c.since with
          | none => s
          | some true =>
            s.setGroup g { k.learnGuard c.guard (c.fibre.map fun f => .operation f .mx c.number) with matrix := { c with passed := true } :: rest }
          | some false => ((s.setGroup g { k with matrix := rest }).dropMatrix c).testMatrix g fuel

/-- R265: both heads of a group. -/
def State.testHeads (s : State) (g : Nat) : State :=
  match s.groups.get? g with
  | none => s
  | some k => (s.testCopies g (k.copies.length + 1)).testMatrix g (k.matrix.length + 1)

/-- R266: the order of writes: by issue cycle, then by the writer's index. -/
def guardOrder (ws : List (Nat × Nat × Fin 16 × GuardState × Edge)) : List (Nat × Nat × Fin 16 × GuardState × Edge) :=
  sortBy (fun a b => a.1 < b.1 || (a.1 = b.1 && a.2.1 ≤ b.2.1)) ws

/-- R265: a write to a guard slot takes effect. The commands at the heads have tested the state before it, but for those that must see it (R266). -/
def State.writeGuard (s : State) (g : Nat) (w : Nat × Nat × Fin 16 × GuardState × Edge) : State :=
  let s := (s.testHeads g).updGroup g fun k =>
    { k with
      guardWrites := k.guardWrites.erase w, guards := k.guards.set w.2.2.1.val w.2.2.2.1,
      guardEdges := k.guardEdges.set w.2.2.1.val (if w.2.2.2.1 = .true_ then some w.2.2.2.2 else none) }
  s.testHeads g

/-- R266: the writes of a group issued at or before a cycle take effect. -/
def State.applyGuards (s : State) (g upto : Nat) : State :=
  match s.groups.get? g with
  | none => s
  | some k =>
    let due := guardOrder (k.guardWrites.filter fun w => w.1 ≤ upto)
    if due.isEmpty then s else (due.foldl (fun s w => s.writeGuard g w) s).retireGroup g

/-- R266: the guard writes of a group that are in force at its core's cycle have taken effect. -/
def State.dueGuards (s : State) (g : Nat) : State :=
  match s.groups.get? g with
  | none => s
  | some k => let now := (s.core k.core).clock; if now < 2 then s else s.applyGuards g (now - 2)

/-! ### kick -/

/-- R437: a `kick` of a fibre is stamped. -/
def State.stampCopy (s : State) (x : Fibre) : Option (Nat × Bool) × State :=
  match x.mark with
  | none => (none, s)
  | some k =>
    match s.marks.get? k with
    | none => (none, s)
    | some m =>
      let cin := m.mxIssue.isNone
      let m := { m with pending := m.pending + 1 }
      let m := if cin then { m with cin := m.cin + 1 } else { m with cout := m.cout + 1, coutIssue := some (m.coutIssue.getD s.time) }
      (some (k, cin), { s with marks := s.marks.put k m })

/-- R258: append a copy command to the queue of a fibre's group, or to its own. The writes in force have taken effect (R266). -/
def State.queueCopy (s : State) (f : Nat) (x : Fibre) (c : CopyCommand) : State :=
  match x.group with
  | some g => (s.dueGuards g).updGroup g fun k => { k.learn [.operation f .cp c.number] (· == .fibre f) with copies := k.copies ++ [c] }
  | none => s.updFibre f fun y => { y with copies := y.copies ++ [c] }

/-- R258. -/
def execKick (a b : Src) (g : Guard) (s : State) : Host.Outcome State Fault Refusal :=
  s.issueWith fun f x =>
    let r := x.read (s.bankOf x)
    let list := r a
    let n := (r b).toNat
    if list.toNat % 64 != 0 then .trap .align list 0
    else if list.toNat ≥ 2 ^ 52 then .trap .translation list 0
    else if n = 0 || n > 256 then .trap .access 0 0
    else if g.isSome && x.detached then .trap .detached 0 0
    else if x.full .cp then .stall (.counter CountClass.cp.index)
    else
      let e := s.releaseOn x.core
      let m := e.1.stampCopy x
      let c : CopyCommand :=
        { fibre := some f, number := x.issued.cp, unit := x.unit, list := list, count := n, guard := g, acquired := [e.2], stamped := m.1,
          since := (s.core x.core).clock }
      .done ((m.2.queueCopy f x c).updFibre f fun y => Fibre.countIssue y .cp)

/-! ### gset -/

/-- R266: gset and gset.open. -/
def State.issueGuard (s : State) (slot : Fin 64) (v : Fibre → GuardState) : Host.Outcome State Fault Refusal :=
  s.issueWith fun f x =>
    match x.group with
    | none => .trap .detached 0 0
    | some g =>
      let e := if v x = .true_ then s.releaseOn x.core else (s, (x.core, 0))
      .done (e.1.updGroup g fun k => { (if v x = .true_ then k.learn [.release e.2.1 e.2.2] (· == .fibre f) else k) with guardWrites := k.guardWrites ++ [((s.core x.core).clock, x.fid, Fin.ofNat 16 slot.val, v x, e.2)] })

/-- R266. -/
def execGset (slot : Fin 64) (b : Src) (s : State) : Host.Outcome State Fault Refusal :=
  s.issueGuard slot fun x => if x.read (s.bankOf x) b != 0 then .true_ else .false_

/-- R266. -/
def execGsetOpen (slot : Fin 64) (s : State) : Host.Outcome State Fault Refusal := s.issueGuard slot fun _ => .open_

/-- R266: the writes issued so far take effect, two cycles after the last. -/
def execGsetTakeEffect (g : Nat) (s : State) : Host.Outcome State Fault Refusal :=
  match s.groups.get? g with
  | none => .next s
  | some k =>
    if k.guardWrites.isEmpty then .next s
    else
      let t := latestCycle (k.guardWrites.map (·.1))
      .next ((s.passCycles k.core t).applyGuards g t)

/-- R243, R266: the bank and guard writes of a core's groups that are due have taken effect. -/
def State.applyDue (s : State) (core : Nat) : State :=
  let now := (s.core core).clock
  (s.groupsOn core).foldl
    (fun s e => (if now < 2 then s else s.updGroup e.1 fun k => k.applyBank (now - 2)).dueGuards e.1) s

/-! ### Waits -/

/-- R263: a limit of 63 bounds nothing. -/
def limitOf (n : Fin 64) : Option Nat := if n.val = 63 then none else some n.val

/-- R263: a wait with limits on the five classes, in a fibre. -/
def State.waitUntil (s : State) (f : Nat) (x : Fibre) (ld st cp mx ry : Option Nat) : Issue :=
  if within ld x.counts.ld && within st x.counts.st && within cp x.counts.cp && within mx x.counts.mx && within ry x.counts.ry then
    let t := s.acquireEngines f x cp mx ry
    match x.copyFaults with
    | c :: _ => .copyTrap (t.updFibre f s.raisesCopyFault) c.code c.addr c.record
    | [] => .done t
  else .wait s (.counts ld st cp mx ry)

/-- R263. -/
def State.waitFor (s : State) (ld st cp mx ry : Option Nat) : Host.Outcome State Fault Refusal :=
  s.issueWith fun f x => s.waitUntil f x ld st cp mx ry

/-- R263. -/
def execWait (ld st cp : Fin 64) (s : State) : Host.Outcome State Fault Refusal := s.waitFor (limitOf ld) (limitOf st) (limitOf cp) none none

/-- R263. -/
def execWaitMxRy (mx ry : Fin 64) (s : State) : Host.Outcome State Fault Refusal := s.waitFor none none none (limitOf mx) (limitOf ry)

/-! ### The copy engine -/

/-- R322: the copy list of a packet. -/
def State.packetCopies (s : State) (q n : Nat) : Option CopyCommand :=
  ((s.queues.get? q).bind fun k => k.packets.find? fun p => p.number == n).bind (·.parts.copies)

/-- R258: the queue of an owner. -/
def State.copiesOf (s : State) (o : CopyOwner) : List CopyCommand :=
  match o with
  | .group g => match s.groups.get? g with
    | some k => if k.state = .running || k.state = .stopped then k.copies else []
    | none => []
  | .fibre f => match s.anyFibre f with
    | some x => x.copies
    | none => []
  | .packet q n => (s.packetCopies q n).toList

/-- Replace the queue of an owner. A packet's list that is complete ends that part of the packet (R323). -/
def State.setCopies (s : State) (o : CopyOwner) (cs : List CopyCommand) : State :=
  match o with
  | .group g => s.updGroup g fun k => { k with copies := cs }
  | .fibre f => s.updAnyFibre f fun x => { x with copies := cs }
  | .packet q n => s.packetPart q n fun p => { p with parts := { p.parts with copies := cs.head? }, acquired := if cs.isEmpty then addEdges 193 p.acquired [homeEdge] else p.acquired }

/-- R322: the home die of a queue's ring. -/
def State.ringDie (s : State) (k : Queue) : Nat :=
  match s.deviceLocate 0 k.context k.ring.toNat with
  | some (pa, _, _) => lineDie (pa / 64)
  | none => 0

/-- R258: for whom an owner's commands work. -/
def State.copyAgent (s : State) (o : CopyOwner) (c : CopyCommand) : Agent :=
  match o with
  | .group g => match s.groups.get? g with
    | some k => { s.groupAgent g k c.fibre with party := c.fibre.map fun f => .operation f .cp c.number }
    | none => { die := 0, context := 0 }
  | .fibre f => match s.anyFibre f with
    | some x => { s.fibreAgent f x with party := some (.operation f .cp c.number) }
    | none => { die := 0, context := 0 }
  | .packet q _ =>
    match s.queues.get? q with
    | some k => { die := s.ringDie k, context := k.context }
    | none => { die := 0, context := 0 }

/-- The priority class and core of an owner. -/
def State.copyRank (s : State) (o : CopyOwner) : Option (Nat × Nat) :=
  match o with
  | .group g => (s.groups.get? g).map fun k => (k.core, k.cls)
  | .fibre f => (s.anyFibre f).map fun x => (x.core, x.cls)
  | .packet _ _ => none

/-- The owners of copy queues on a core. -/
def State.copyOwners (s : State) (core : Nat) : List CopyOwner :=
  ((s.groupsOn core).map fun e => CopyOwner.group e.1) ++ ((s.fibresOn core).filter fun e => e.2.group.isNone).map fun e => CopyOwner.fibre e.1

/-- R21: is it the turn of an owner's head on its core's engine? -/
def State.copyTurn (s : State) (o : CopyOwner) (c : CopyCommand) : Bool :=
  match s.copyRank o with
  | none => true
  | some (core, cls) =>
    !(s.copyOwners core).any fun p =>
      match s.copiesOf p, s.copyRank p with
      | d :: _, some (_, k) => d.started.isNone && (d.passed || d.guard.isNone) && requestBefore k d.promoted d.since cls c.promoted c.since
      | _, _ => false

/-- R262: does an engine start commands of an owner: does its context run, and its group? -/
def State.ownerRuns (s : State) (o : CopyOwner) : Bool :=
  match o with
  | .group g => match s.groups.get? g with
    | some k => s.contextRuns k.context && !s.platform.testing.contains (.core k.core) && (k.state == .running || k.state == .stopped)
    | none => false
  | .fibre f => match s.anyFibre f with
    | some x => s.contextRuns x.context
    | none => false
  | .packet q _ => match s.queues.get? q with
    | some k => s.contextRuns k.context
    | none => false

/-- R259, R265, R266: the command at the head of a queue starts. -/
def execCopyCommandStart (o : CopyOwner) (s : State) : Host.Outcome State Fault Refusal :=
  let s := match o with
    | .group g => (s.dueGuards g).testHeads g
    | .fibre _ | .packet _ _ => s
  match s.copiesOf o with
  | [] => .next s
  | c :: rest =>
    if s.ownerRuns o && c.started.isNone && (c.passed || c.guard.isNone) && s.copyTurn o c then
      let r := s.engineAcquires c.acquired
      .next (if r.2 then r.1.setCopies o ({ c with started := some 0, passed := true } :: rest) else r.1)
    else .next s

/-- R257: a request record. -/
structure Request where
  src : Word
  dst : Word
  row : Nat
  rows : Nat
  sstride : Int
  dstride : Int
  sync : Word

/-- R257: a record that keeps the limits. -/
def requestOf (bs : List Byte) : Option Request :=
  let r : Request := ⟨wordFieldOf bs 0, wordFieldOf bs 8, fieldOf bs 16 4, fieldOf bs 20 4, signedFieldOf bs 24 4, signedFieldOf bs 28 4, wordFieldOf bs 32⟩
  if r.row ≥ 1 && r.row ≤ 2 ^ 24 && r.rows ≥ 1 && r.rows ≤ 65535 && r.sync.toNat % 32 = 0 && fieldOf bs 40 1 ≤ 3 && zeroBytes bs 41 23 then some r else none

/-- R257: the pieces of row j of one side of a record. -/
def Request.pieces (r : Request) (base : Word) (stride : Int) (j : Nat) : List (Nat × Nat) :=
  linePieces (r.row / 64 + 2) (addrWrap (base.toNat + j * stride)) r.row

/-- The pieces of destination rows, located in order. -/
def State.locatePieces (s : State) (ag : Agent) : List (Nat × Nat) → Except (FaultCode × Word) (List (Loc × Nat) × State)
  | [] => .ok ([], s)
  | p :: ps =>
    match s.engineLocate ag p.1 p.2 true with
    | .error e => .error (e, BitVec.ofNat 64 p.1)
    | .ok (l, t) =>
      match State.locatePieces t ag ps with
      | .error e => .error e
      | .ok (rest, u) => .ok ((l, p.2) :: rest, u)

/-- R259: the rows of a record, from row j on, in order: what is read of each, and where it goes. -/
def State.copyRows (s : State) (ag : Agent) (r : Request) (j : Nat) : Nat → Except (FaultCode × Word) (List (List Byte × List (Loc × Nat)) × State)
  | 0 => .ok ([], s)
  | left + 1 =>
    match s.enginePieces ag (r.pieces r.src r.sstride j) with
    | .error e => .error e
    | .ok (bs, t) =>
      match t.locatePieces ag (r.pieces r.dst r.dstride j) with
      | .error e => .error e
      | .ok (ls, u) =>
        match State.copyRows u ag r (j + 1) left with
        | .error e => .error e
        | .ok (rest, v) => .ok ((bs, ls) :: rest, v)

/-- Cut bytes into the pieces that they go to. -/
def cutPieces (bs : List Byte) : List (Loc × Nat) → List (Loc × List Byte)
  | [] => []
  | p :: ps => (p.1, bs.take p.2) :: cutPieces (bs.drop p.2) ps

/-- R260: the physical addresses of bytes read, where source and destination both lie in device memory. -/
def State.sourceBytes (s : State) (ag : Agent) (r : Request) : List Nat :=
  (List.range r.rows).flatMap fun j => (r.pieces r.src r.sstride j).flatMap fun p =>
    match s.engineLocate ag p.1 p.2 false with
    | .ok (.mem pa _ _ _ _, _) => (List.range p.2).map (pa + ·)
    | .ok (.slice _, _) | .ok (.grant _, _) | .error _ => []

/-- R260: bytes of device memory that the record also reads become undefined. (DEDUCED, assumption 30) -/
def State.blurOverlap (s : State) (src : List Nat) (pa : Nat) (bs : List Byte) : List Byte × State :=
  if (List.range bs.length).any fun i => src.contains (pa + i) then
    let r := s.freeBytes bs.length
    ((List.range bs.length).map fun i => if src.contains (pa + i) then r.1.getD i 0 else bs.getD i 0, r.2)
  else (bs, s)

/-- R304: one write of an engine; none when a redirected write finds no room. -/
def State.engineWrite (s : State) (ag : Agent) (l : Loc) (bs : List Byte) : Option State :=
  match l with
  | .slice off => match ag.group with
    | some g => some (s.writeSliceOf (ag.party.getD (.fibre (ag.fibre.getD 0))) g off bs)
    | none => some s
  | .grant _ => some s
  | .mem pa comp _ _ _ =>
    match ag.speculative, ag.launch with
    | true, some (l, g) =>
      match s.launches.get? l with
      | none => some s
      | some k =>
        if s.specFits l ag.context ((List.range bs.length).map fun i => (g, (pa + i) / 64)) then
          some (s.setLaunch l { k with spec := addSpec k.spec g (ag.fibre.getD 0) comp (addressed pa bs) })
        else none
    | _, _ =>
      some ((s.writeHome comp (addressed pa bs)).sendHome ((List.range bs.length).map (pa + ·)))

/-- Writes of an engine in order. -/
def State.engineWrites (s : State) (ag : Agent) (src : List Nat) : List (Loc × List Byte) → Option State
  | [] => some s
  | w :: ws =>
    let r := match w.1 with
      | .mem pa _ _ _ _ => s.blurOverlap src pa w.2
      | .slice _ | .grant _ => (w.2, s)
    match r.2.engineWrite ag w.1 r.1 with
    | none => none
    | some t => State.engineWrites t ag src ws

/-- R261: a copy fault waits for the fibre's next `wait` or `swwait`; a fibre stalled at one takes it there. -/
def State.copyFaulted (s : State) (f : Nat) (c : CopyFault) : State :=
  let s := s.updAnyFibre f fun x => { x with copyFaults := x.copyFaults ++ [c] }
  match s.fibres.get? f with
  | none => s
  | some x =>
    match x.life with
    | .stalled (.syncWord _ _ _) => s.takeCopyFault f x
    | _ => s

/-- R259, R261: a command is over: its count falls, and its part of a packet ends. -/
def State.copyOver (s : State) (o : CopyOwner) (c : CopyCommand) (rest : List CopyCommand) (fault : Option CopyFault) : State :=
  let s := match o, fault with
    | .packet q n, some _ => s.packetPart q n fun p => { p with statuses := p.statuses ++ [2] }
    | _, _ => s
  let s := match o with
    | .group g => s.dueGuards g
    | .fibre _ | .packet _ _ => s
  let s := ((s.setCopies o rest).commandOver c.fibre .cp).markCopyDone c false fault.isSome
  let s := match c.fibre, fault with
    | some f, some e => s.copyFaulted f e
    | _, _ => s
  match o with
  | .group g => s.retireGroup g
  | .fibre _ | .packet _ _ => s

/-- R261: record i of a command faults: its destination bytes that could be located are undefined. (DEDUCED, assumption 29) -/
def State.copyRecordFault (s : State) (o : CopyOwner) (c : CopyCommand) (rest : List CopyCommand) (ag : Agent) (i : Nat) (r : Option Request)
    (code : FaultCode) (addr : Word) : State :=
  let s := match r with
    | none => s
    | some r =>
      ((List.range r.rows).flatMap (r.pieces r.dst r.dstride)).foldl
        (fun (s : State) (p : Nat × Nat) =>
          match s.engineLocate ag p.1 p.2 true with
          | .error _ => s
          | .ok (l, t) => let b := t.freeBytes p.2; (b.2.engineWrite ag l b.1).getD s) s
  s.copyOver o c rest (some ⟨code, c.list + BitVec.ofNat 64 (64 * i), addr, c.unit, i⟩)

/-- R304: hold an addition of an agent with the group of its task until resolution. -/
def State.holdAdd (s : State) (launch linear : Nat) (a : HeldAdd) : State :=
  { s with groups := s.groups.mapAll fun _ g => if g.launch == launch && g.linear == linear then { g with heldAdds := g.heldAdds ++ [a] } else g }

/-- R253, R259, R304, R484: the sync addition of a record: made, held until resolution, or failed. -/
def State.copyAddition (s : State) (ag : Agent) (r : Request) : Except FaultCode State :=
  let n := r.row * r.rows
  if r.sync = 0 then .ok s
  else
    match ag.speculative, ag.launch with
    | true, some (l, t) => .ok (s.holdAdd l t ⟨r.sync, BitVec.ofNat 64 n, ag.party⟩)
    | _, _ => s.engineAdd ag.die ag.context ag.ordered r.sync n [] ag.party

/-- R259-R261: record i of the started command completes or faults. -/
def State.copyRecord (s : State) (o : CopyOwner) (c : CopyCommand) (rest : List CopyCommand) (i : Nat) : State :=
  let ag := s.copyAgent o c
  match s.engineBytes ag (c.list.toNat + 64 * i) 64 with
  | .error e => s.copyRecordFault o c rest ag i none e.1 e.2
  | .ok (bs, s) =>
    match requestOf bs with
    | none => s.copyRecordFault o c rest ag i none .access 0
    | some r =>
      match s.copyRows ag r 0 r.rows with
      | .error e => s.copyRecordFault o c rest ag i (some r) e.1 e.2
      | .ok (rows, t) =>
        match t.engineWrites ag (t.sourceBytes ag r) (rows.flatMap fun e => cutPieces e.1 e.2) with
        | none => s
        | some t =>
          match t.copyAddition ag r with
          | .error e => t.copyRecordFault o c rest ag i none e r.sync
          | .ok u => if i + 1 ≥ c.count then u.copyOver o c rest none else u.setCopies o ({ c with started := some (i + 1) } :: rest)

/-- R259. -/
def execCopyRecordComplete (o : CopyOwner) (s : State) : Host.Outcome State Fault Refusal :=
  match s.copiesOf o with
  | [] => .next s
  | c :: rest =>
    match c.started with
    | none => .next s
    | some i => .next (s.copyRecord o c rest i)

end Sys2Proof.Machine
end

