-- ==== Sys2Proof/Machine/Scene.lean ====
section
/-! DEFINITION. Scenes and rays in exact arithmetic: what a ray hits and meets, its hit record, and the restarts of its traversal (R366-R380). -/

namespace Sys2Proof.Machine

/-! ### Exact values -/

/-- R50, EXACT, as a rational number; an infinity or a NaN never reaches it. -/
def ratOf : XVal → Rat
  | .nan _ => 0
  | .inf _ => 0
  | .fin neg m =>
    let v : Rat := if m.exp < 0 then mkRat m.man (2 ^ (-m.exp).toNat) else ((m.man * 2 ^ m.exp.toNat : Nat) : Rat)
    if neg then -v else v

/-- A rational number as an exact value; a zero is positive. -/
def xOfRat (q : Rat) : XVal :=
  if q.num = 0 then .fin false ⟨0, 0, false⟩ else .fin (q.num < 0) (divMag ⟨q.num.natAbs, 0, false⟩ ⟨q.den, 0, false⟩)

/-- R50, ROUND, of a rational number. -/
def roundRat (t : Ty) (mode : Rnd) (q : Rat) : Word := (roundTo t mode (xOfRat q)).1

/-- Is a value finite? -/
def finiteX : XVal → Bool
  | .nan _ => false
  | .inf _ => false
  | .fin _ _ => true

/-- A number of the extended line. -/
inductive Ext where
  | minus
  | real (q : Rat)
  | plus
deriving DecidableEq, Repr

/-- The extended value of an encoding that is no NaN. -/
def extOf (x : XVal) : Ext :=
  match x with
  | .inf neg => if neg then .minus else .plus
  | .nan _ => .real 0
  | .fin _ _ => .real (ratOf x)

/-- The order of the extended line. -/
def Ext.le : Ext → Ext → Bool
  | .minus, _ => true
  | _, .plus => true
  | .real a, .real b => decide (a ≤ b)
  | .real _, .minus => false
  | .plus, .minus => false
  | .plus, .real _ => false

/-- The greater of two. -/
def Ext.max (a b : Ext) : Ext := if a.le b then b else a
/-- The lesser of two. -/
def Ext.min (a b : Ext) : Ext := if a.le b then a else b

/-- RN32 of an extended value, as bits. -/
def Ext.bits32 : Ext → Nat
  | .minus => 0xFF800000
  | .real q => (roundRat .f32 .rn q).toNat
  | .plus => 0x7F800000

/-- Three components. -/
structure V3 where
  x : Rat
  y : Rat
  z : Rat
deriving DecidableEq, Repr

/-- Difference. -/
def V3.sub (a b : V3) : V3 := ⟨a.x - b.x, a.y - b.y, a.z - b.z⟩
/-- Cross product. -/
def V3.cross (a b : V3) : V3 := ⟨a.y * b.z - a.z * b.y, a.z * b.x - a.x * b.z, a.x * b.y - a.y * b.x⟩
/-- Dot product. -/
def V3.dot (a b : V3) : Rat := a.x * b.x + a.y * b.y + a.z * b.z
/-- The components in order. -/
def V3.list (a : V3) : List Rat := [a.x, a.y, a.z]
/-- Three components out of a list. -/
def V3.ofList (l : List Rat) : V3 := ⟨l.getD 0 0, l.getD 1 0, l.getD 2 0⟩

/-- A floating field of a record. -/
def floatField (t : Ty) (bs : List Byte) (off : Nat) : XVal := exact t (BitVec.ofNat 64 (fieldOf bs off (t.width / 8)))

/-- Consecutive floating fields. -/
def floatFields (t : Ty) (bs : List Byte) (off n : Nat) : List XVal := (List.range n).map fun i => floatField t bs (off + i * (t.width / 8))

/-! ### Rays -/

/-- R373: a ray. -/
structure RayRecord where
  o : V3
  d : V3
  tmin : Rat
  tmax : Ext
  mask : Nat
  flags : Nat
  scene : Nat

/-- R373: a ray record that keeps the limits. -/
def rayOf (bs : List Byte) : Option RayRecord :=
  let os := floatFields .f64 bs 0 3
  let ds := floatFields .f32 bs 24 3
  let t0 := floatField .f32 bs 36
  let t1 := floatField .f32 bs 40
  let ordered := finiteX t0 && !t1.isNan && (extOf (exactInt 0)).le (extOf t0) && (extOf t0).le (extOf t1)
  if os.all finiteX && ds.all finiteX && ds.any (fun d => !d.isZero) && ordered && fieldOf bs 45 1 < 4 && zeroBytes bs 46 2 && zeroBytes bs 56 8 &&
      fieldOf bs 48 8 % 64 = 0 then
    some { o := V3.ofList (os.map ratOf), d := V3.ofList (ds.map ratOf), tmin := ratOf t0, tmax := extOf t1, mask := fieldOf bs 44 1, flags := fieldOf bs 45 1,
           scene := fieldOf bs 48 8 }
  else none

/-- R374: the ray of a level: an origin and a direction. -/
structure Line where
  o : V3
  d : V3

/-- RN32(RN64(q)), where it is finite. -/
def twiceRounded (q : Rat) : Option Rat :=
  let a := exact .f64 (roundRat .f64 .rn q)
  let b := exact .f32 (roundRat .f32 .rn (ratOf a))
  if finiteX a && finiteX b then some (ratOf b) else none

/-- RN32(q), where it is finite. -/
def onceRounded (q : Rat) : Option Rat :=
  let b := exact .f32 (roundRat .f32 .rn q)
  if finiteX b then some (ratOf b) else none

/-- R374: the ray in the top level. -/
def topLine (r : RayRecord) (anchor : V3) : Option Line :=
  match twiceRounded (r.o.x - anchor.x), twiceRounded (r.o.y - anchor.y), twiceRounded (r.o.z - anchor.z) with
  | some x, some y, some z => some ⟨⟨x, y, z⟩, r.d⟩
  | _, _, _ => none

/-- R370: a member of the instance table: its rows (three factors and a translation each), root, user value, mask and flags. -/
structure Member where
  rows : List (V3 × Rat)
  root : Nat
  user : Nat
  mask : Nat
  flags : Nat

/-- R374: the ray in the object space of a member; none when it is skipped. -/
def memberLine (r : RayRecord) (m : Member) : Option Line :=
  let os := m.rows.map fun w => twiceRounded (w.1.dot r.o + w.2)
  let ds := m.rows.map fun w => onceRounded (w.1.dot r.d)
  if os.all Option.isSome && ds.all Option.isSome && ds.any (fun d => d != some 0) then
    some ⟨V3.ofList (os.map fun q => q.getD 0), V3.ofList (ds.map fun q => q.getD 0)⟩
  else none

/-- An interval of the extended line. -/
abbrev Interval := Ext × Ext

/-- R375: one axis of a box interval. -/
def axisInterval (o d lo hi : Rat) : Option Interval :=
  if d = 0 then (if lo ≤ o && o ≤ hi then some (.minus, .plus) else none)
  else
    let t1 := (lo - o) / d
    let t2 := (hi - o) / d
    let a := if t1 ≤ t2 then t1 else t2
    let b := if t1 ≤ t2 then t2 else t1
    some (extOf (exact .f32 (roundRat .f32 .rm a)), extOf (exact .f32 (roundRat .f32 .rp b)))

/-- The intersection of two intervals. -/
def meetIntervals (a b : Interval) : Option Interval :=
  let lo := a.1.max b.1
  let hi := a.2.min b.2
  if lo.le hi then some (lo, hi) else none

/-- R375: the box interval. -/
def boxInterval (l : Line) (lo hi : V3) : Option Interval :=
  match axisInterval l.o.x l.d.x lo.x hi.x, axisInterval l.o.y l.d.y lo.y hi.y, axisInterval l.o.z l.d.z lo.z hi.z with
  | some a, some b, some c => (meetIntervals a b).bind fun i => meetIntervals i c
  | _, _, _ => none

/-- R376: a hit of a triangle: t, u, v, and whether det is positive. -/
def triangleHit (l : Line) (v0 v1 v2 : V3) : Option (Rat × Rat × Rat × Bool) :=
  let e1 := v1.sub v0
  let e2 := v2.sub v0
  let p := l.d.cross e2
  let det := e1.dot p
  if det = 0 then none
  else
    let s := l.o.sub v0
    let q := s.cross e1
    let u := s.dot p / det
    let v := l.d.dot q / det
    if 0 ≤ u && 0 ≤ v && u + v ≤ 1 then some (e2.dot q / det, u, v, decide (0 < det)) else none

/-! ### Scene objects -/

/-- What reading an object finds. -/
inductive Seen where
  | bytes (bs : List Byte)
  /-- R351 -/
  | absent
  /-- a fault of R190 -/
  | bad (code : FaultCode)

/-- How a scene is read: an address and a length. -/
abbrev SceneReader := Nat → Nat → Seen

/-- R366. -/
structure Scene where
  anchor : V3
  top : Nat
  table : Nat
  count : Nat

/-- R366: a header that keeps the limits. -/
def sceneOf (bs : List Byte) : Option Scene :=
  let a := floatFields .f64 bs 0 3
  if a.all finiteX && fieldOf bs 24 8 % 128 = 0 && fieldOf bs 32 8 % 128 = 0 && 1 ≤ fieldOf bs 40 4 && zeroBytes bs 44 20 then
    some ⟨V3.ofList (a.map ratOf), fieldOf bs 24 8, fieldOf bs 32 8, fieldOf bs 40 4⟩
  else none

/-- R367, R368: a used slot of a node. -/
structure Slot where
  number : Nat
  lo : V3
  hi : V3
  leaf : Bool
  target : Nat

/-- R367: the step of a frame exponent. -/
def frameStep (e : Nat) : Rat := if e ≥ 127 then ((2 ^ (e - 127) : Nat) : Rat) else mkRat 1 (2 ^ (127 - e))

/-- R368: does a child reference keep the limits? -/
def referenceOk (ref : Nat) (top : Bool) (count : Nat) : Bool :=
  let target := ref % 2 ^ 52
  ref / 2 ^ 52 % 2 ^ 11 = 0 && (if !ref.testBit 63 then target % 128 = 0 else if top then target < 2 ^ 32 && target < count else target % 64 = 0)

/-- R367: slot c of a node. -/
def slotOf (bs : List Byte) (c : Nat) : Slot :=
  let o := (floatFields .f32 bs 0 3).map ratOf
  let at_ (k a : Nat) : Rat := o.getD a 0 + (fieldOf bs (16 + 6 * c + 3 * k + a) 1 : Rat) * frameStep (fieldOf bs (12 + a) 1)
  let ref := fieldOf bs (64 + 8 * c) 8
  { number := c, lo := ⟨at_ 0 0, at_ 0 1, at_ 0 2⟩, hi := ⟨at_ 1 0, at_ 1 1, at_ 1 2⟩, leaf := ref.testBit 63, target := ref % 2 ^ 52 }

/-- R367, R368: does slot c of a node keep the limits? -/
def slotOk (bs : List Byte) (c : Nat) (top : Bool) (count : Nat) : Bool :=
  if (fieldOf bs 15 1).testBit c then
    ([0, 1, 2].all fun a => fieldOf bs (16 + 6 * c + a) 1 ≤ fieldOf bs (19 + 6 * c + a) 1) && referenceOk (fieldOf bs (64 + 8 * c) 8) top count
  else zeroBytes bs (16 + 6 * c) 6 && zeroBytes bs (64 + 8 * c) 8

/-- R367: the used slots of a node that keeps the limits. -/
def nodeOf (bs : List Byte) (top : Bool) (count : Nat) : Option (List Slot) :=
  let exps := [12, 13, 14].all fun a => 1 ≤ fieldOf bs a 1 && fieldOf bs a 1 ≤ 254
  if (floatFields .f32 bs 0 3).all finiteX && exps && fieldOf bs 15 1 != 0 && (List.range 8).all (fun c => slotOk bs c top count) then
    some (((List.range 8).filter fun c => (fieldOf bs 15 1).testBit c).map (slotOf bs))
  else none

/-- R370: a record of the instance table that keeps the limits. -/
def memberOf (bs : List Byte) : Option Member :=
  let w := floatFields .f64 bs 0 12
  if w.all finiteX && fieldOf bs 96 8 % 128 = 0 && fieldOf bs 109 1 < 4 && zeroBytes bs 110 18 then
    let at_ (j c : Nat) : Rat := ratOf (w.getD (4 * j + c) (.nan false))
    some { rows := [0, 1, 2].map fun j => (⟨at_ j 0, at_ j 1, at_ j 2⟩, at_ j 3), root := fieldOf bs 96 8, user := fieldOf bs 104 4, mask := fieldOf bs 108 1,
           flags := fieldOf bs 109 1 }
  else none

/-! ### Traversal -/

/-- R378: an object of the scene as a ray meets it: the bytes read there, what is wrong with it (no code: its page is not resident), and the greatest lower
end of the intervals on its path. -/
structure Met where
  addr : Nat
  len : Nat
  wrong : Option (Option Nat) := none
  reach : Ext

/-- R377: a counted hit. -/
structure Hit where
  /-- R367: a box on its path does not contain what lies below it -/
  broken : Bool := false
  t : Rat
  u : Rat
  v : Rat
  front : Bool
  member : Nat
  primitive : Nat
  user : Nat

/-- Where a path of the scene leads. -/
inductive Place where
  | node (va : Nat)
  | member (k : Nat)
  | leaf (va : Nat)

/-- How a ray came to a place: its level's ray (none when not finite, R374), the member it is in, the intervals of the boxes, the greatest lower end, and
the nodes passed. -/
structure Path where
  line : Option Line
  inside : Option (Nat × Member) := none
  boxes : List Interval := []
  /-- R367: the path takes every slot, whatever the intervals; the last box of its space, and whether a box fails to contain the next -/
  every : Bool := false
  last : Option (V3 × V3) := none
  broken : Bool := false
  reach : Ext := .minus
  depth : Nat := 0

/-- What is found at a place: objects met, counted hits, and the slots to visit, in the order of R380. -/
structure Visit where
  met : List Met := []
  hits : List Hit := []
  kids : List (Ext × Place × Path) := []

/-- R379: the code of a malformed object. -/
def malformed : Option (Option Nat) := some (some 16)

/-- R378: an object that cannot be read. -/
def Seen.wrong : Seen → Option (Option Nat)
  | .bytes _ => none
  | .absent => some none
  | .bad c => some (some c.code)

/-- Does a box contain a point? -/
def boxHolds (b : V3 × V3) (p : V3) : Bool :=
  decide (b.1.x ≤ p.x) && decide (p.x ≤ b.2.x) && decide (b.1.y ≤ p.y) && decide (p.y ≤ b.2.y) && decide (b.1.z ≤ p.z) && decide (p.z ≤ b.2.z)

/-- The corners of a box. -/
def boxCorners (b : V3 × V3) : List V3 :=
  [b.1.x, b.2.x].flatMap fun x => [b.1.y, b.2.y].flatMap fun y => [b.1.z, b.2.z].map fun z => ⟨x, y, z⟩

/-- R370, R367: the point, relative to the anchor, that a member's matrix takes to a point of its object space; none where the matrix is singular. -/
def Member.origin (m : Member) (anchor p : V3) : Option V3 :=
  match m.rows with
  | [a, b, c] =>
    let det := a.1.dot (b.1.cross c.1)
    let w : V3 := ⟨p.x - a.2, p.y - b.2, p.z - c.2⟩
    let u := b.1.cross c.1
    let v := c.1.cross a.1
    let t := a.1.cross b.1
    let at_ (f : V3 → Rat) : Rat := (f u * w.x + f v * w.y + f t * w.z) / det
    if det = 0 then none else some (V3.sub ⟨at_ (·.x), at_ (·.y), at_ (·.z)⟩ anchor)
  | _ => none

/-- R367: does the last box of a path fail to contain points of its own space? -/
def Path.leaves (p : Path) (ps : List V3) : Bool :=
  match p.last with
  | some b => !ps.all (boxHolds b)
  | none => false

/-- R367: a path that takes every slot goes on through a box. -/
def Path.through (p : Path) (b : V3 × V3) : Path :=
  { p with last := some b, broken := p.broken || p.leaves (boxCorners b), depth := p.depth + 1 }

/-- R380: the slots of a node whose intervals intersect [tmin, tmax], in ascending lower end, ties to the lower slot. -/
def kidsOf (r : RayRecord) (p : Path) (slots : List Slot) : List (Ext × Place × Path) :=
  let place (c : Slot) : Place := if !c.leaf then .node c.target else if p.inside.isNone then .member c.target else .leaf c.target
  match p.line with
  | none => []
  | some l =>
    if p.every then slots.map fun c => (.minus, place c, p.through (c.lo, c.hi)) else
    let found := slots.filterMap fun c =>
      match boxInterval l c.lo c.hi with
      | none => none
      | some i =>
        if i.1.le r.tmax && (Ext.real r.tmin).le i.2 then
          some (i.1, place c, { p with boxes := i :: p.boxes, reach := p.reach.max i.1, depth := p.depth + 1 })
        else none
    sortBy (fun a b => a.1.le b.1) found

/-- R372, R378: a node. The 33rd of a path is malformed and is not read. -/
def visitNode (rd : SceneReader) (sc : Scene) (r : RayRecord) (va : Nat) (p : Path) : Visit :=
  if p.depth ≥ 32 then { met := [⟨va, 0, malformed, p.reach⟩] }
  else
    match rd va 128 with
    | .bytes bs =>
      match nodeOf bs p.inside.isNone sc.count with
      | none => { met := [⟨va, 128, malformed, p.reach⟩] }
      | some slots => { met := [⟨va, 128, none, p.reach⟩], kids := kidsOf r p slots }
    | e => { met := [⟨va, 128, e.wrong, p.reach⟩] }

/-- R370, R374, R378: a record of the instance table, and the bottom-level root under it unless it is skipped. -/
def visitMember (rd : SceneReader) (sc : Scene) (r : RayRecord) (k : Nat) (p : Path) : Visit :=
  let va := sc.table + 128 * k
  match rd va 128 with
  | .bytes bs =>
    match memberOf bs with
    | none => { met := [⟨va, 128, malformed, p.reach⟩] }
    | some m =>
      let here : Met := ⟨va, 128, none, p.reach⟩
      if r.mask &&& m.mask = 0 then { met := [here] }
      else
        match memberLine r m with
        | none => { met := [here] }
        | some l =>
          let v := visitNode rd sc r m.root { p with line := some l, inside := some (k, m) }
          let outside (c : Ext × Place × Path) : Bool :=
            match c.2.2.last with
            | some b => (boxCorners b).any fun q => match m.origin sc.anchor q with
              | some o => p.leaves [o]
              | none => true
            | none => false
          let kids := if p.every then v.kids.map fun c => (c.1, c.2.1, { c.2.2 with broken := p.broken || outside c }) else v.kids
          { v with met := here :: v.met, kids := kids }
  | e => { met := [⟨va, 128, e.wrong, p.reach⟩] }

/-- R369, R377: triangle i of a leaf block, where it is a counted hit. -/
def blockHit (r : RayRecord) (p : Path) (bs : List Byte) (i : Nat) : Option Hit :=
  let vs := floatFields .f32 bs (16 + 36 * i) 9
  match p.line, p.inside with
  | some l, some (k, m) =>
    if !vs.all finiteX then none
    else
      let q := vs.map ratOf
      match triangleHit l (V3.ofList q) (V3.ofList (q.drop 3)) (V3.ofList (q.drop 6)) with
      | none => none
      | some (t, u, v, pos) =>
        let front := pos != m.flags.testBit 1
        let inside := decide (r.tmin ≤ t) && (Ext.real t).le r.tmax && p.boxes.all fun b => b.1.le (.real t) && (Ext.real t).le b.2
        let culled := !m.flags.testBit 0 && r.flags.testBit (if front then 1 else 0)
        let broken := p.broken || p.leaves [V3.ofList q, V3.ofList (q.drop 3), V3.ofList (q.drop 6)]
        if inside && !culled then some ⟨broken, t, u, v, front, k, (fieldOf bs 0 4 + i) % 2 ^ 32, m.user⟩ else none
  | _, _ => none

/-- R369: a leaf block. -/
def visitLeaf (rd : SceneReader) (r : RayRecord) (va : Nat) (p : Path) : Visit :=
  match rd va 16 with
  | .bytes h =>
    let n := fieldOf h 4 1
    if n = 0 || n > 16 || !zeroBytes h 5 11 then { met := [⟨va, 16, malformed, p.reach⟩] }
    else
      match rd va (16 + 36 * n) with
      | .bytes bs => { met := [⟨va, 16 + 36 * n, none, p.reach⟩], hits := (List.range n).filterMap (blockHit r p bs) }
      | e => { met := [⟨va, 16 + 36 * n, e.wrong, p.reach⟩] }
  | e => { met := [⟨va, 16, e.wrong, p.reach⟩] }

/-- What is found at a place. -/
def visit (rd : SceneReader) (sc : Scene) (r : RayRecord) (place : Place) (p : Path) : Visit :=
  match place with
  | .node va => visitNode rd sc r va p
  | .member k => visitMember rd sc r k p
  | .leaf va => visitLeaf rd r va p

/-- Everything below a place. `fuel` bounds the depth: 32 nodes, a member and a leaf block. -/
def explore (rd : SceneReader) (sc : Scene) (r : RayRecord) (fuel : Nat) (place : Place) (p : Path) : List Met × List Hit :=
  match fuel with
  | 0 => ([], [])
  | fuel + 1 =>
    let v := visit rd sc r place p
    v.kids.foldl (fun acc k => let e := explore rd sc r fuel k.2.1 k.2.2; (acc.1 ++ e.1, acc.2 ++ e.2)) (v.met, v.hits)

/-! ### The short stack (R380) -/

/-- An entry of the short stack: its rank at each depth, its lower end, and where it leads. -/
structure Pending where
  ranks : List Nat
  lower : Ext
  place : Place
  path : Path

/-- A traversal: the stack, latest first; the place to enter, with what is left of the trail to follow; the overflow flag; the trail; the restarts; best t. (DEDUCED, assumption 35) -/
structure Walk where
  stack : List Pending := []
  next : Option (Pending × List Nat)
  overflow : Bool := false
  trail : List Nat := []
  restarts : Nat := 0
  best : Ext

/-- A push; with 8 entries the oldest is dropped and its path becomes the trail. -/
def Walk.push (w : Walk) (e : Pending) : Walk :=
  if w.stack.length < 8 then { w with stack := e :: w.stack }
  else { w with stack := e :: w.stack.dropLast, overflow := true, trail := (w.stack.getLast?.map (·.ranks)).getD [] }

/-- Enter a place: its slots by rank; those from `first` on that still meet [tmin, best t] wait, the one of rank `first` is next. -/
def Walk.enter (w : Walk) (rd : SceneReader) (sc : Scene) (r : RayRecord) (closest : Bool) (e : Pending) (follow : List Nat) : Walk :=
  let v := visit rd sc r e.place e.path
  let best := if closest then v.hits.foldl (fun b h => b.min (.real h.t)) w.best else w.best
  let kids : List Pending := v.kids.zipIdx.map fun k => ⟨e.ranks ++ [k.2], k.1.1, k.1.2.1, k.1.2.2⟩
  let live := (kids.drop (follow.headD 0)).filter fun k => k.lower.le best
  let w := { w with best := best, next := none }
  match live with
  | [] => w
  | k :: rest => { rest.reverse.foldl Walk.push w with next := some (k, follow.tail) }

/-- One step of a traversal; none when it has ended. -/
def Walk.step (w : Walk) (rd : SceneReader) (sc : Scene) (r : RayRecord) (closest : Bool) (root : Pending) : Option Walk :=
  match w.next with
  | some n => some (w.enter rd sc r closest n.1 n.2)
  | none =>
    match w.stack with
    | e :: rest => some { w with stack := rest, next := if e.lower.le w.best then some (e, []) else none }
    | [] =>
      if w.overflow && w.restarts < 255 then some { w with overflow := false, restarts := w.restarts + 1, next := some (root, w.trail) } else none

/-- R380: the restarts of a traversal, saturating at 255. -/
def Walk.run (w : Walk) (rd : SceneReader) (sc : Scene) (r : RayRecord) (closest : Bool) (root : Pending) (fuel : Nat) : Nat :=
  match fuel with
  | 0 => w.restarts
  | fuel + 1 =>
    match w.step rd sc r closest root with
    | none => w.restarts
    | some v => v.run rd sc r closest root fuel

/-- More steps than 256 traversals of a scene of 32 levels take. -/
def traversalBound : Nat := 2 ^ 120

/-! ### Results -/

/-- R377: the closest of the counted hits: least t, then the lower member, then the lower primitive. -/
def closestHit (hs : List Hit) : Option Hit :=
  (sortBy (fun (a b : Hit) => decide (a.t < b.t) || (decide (a.t = b.t) && (a.member < b.member || (a.member = b.member && a.primitive ≤ b.primitive)))) hs).head?

/-- R379: a hit record. -/
def hitRecord (t : Nat) (mid : List Byte) (rest : List Byte) (status code restarts : Nat) : List Byte :=
  bytesOfNat 4 t ++ mid ++ rest ++ [BitVec.ofNat 8 status, BitVec.ofNat 8 code, BitVec.ofNat 8 restarts, 0, 0, 0, 0, 0]

/-- R378, R379: the record of a ray, from the objects found, the counted hits, and the restarts. -/
def resultOf (r : RayRecord) (anyHit : Bool) (met : List Met) (hits : List Hit) (restarts : Nat) : List Byte :=
  let best := closestHit hits
  let final : Ext := match best with
    | some h => .real h.t
    | none => r.tmax
  let limit := if anyHit then r.tmax else final
  let wrong (p : Option Nat → Bool) : Option Met :=
    (sortBy (fun (a b : Met) => a.addr ≤ b.addr) (met.filter fun m => m.reach.le limit && (match m.wrong with | some w => p w | none => false))).head?
  let faulting := wrong Option.isSome
  let absent := wrong Option.isNone
  let ends (h : Hit) : List Byte := bytesOfNat 4 h.primitive ++ bytesOfNat 4 h.member ++ bytesOfNat 4 h.user
  let none3 : List Byte := List.replicate 8 0xFF ++ List.replicate 4 0
  let trouble (status code addr : Nat) : List Byte :=
    hitRecord (if anyHit then 0 else final.bits32) (bytesOfNat 8 addr) (match anyHit, best with | false, some h => ends h | _, _ => none3) status code restarts
  if anyHit && !hits.isEmpty then hitRecord 0 (List.replicate 8 0) (List.replicate 12 0) 4 0 0
  else
    match faulting, absent, best with
    | some m, _, _ => trouble 5 ((m.wrong.getD none).getD 0) m.addr
    | none, some m, _ => trouble 3 0 m.addr
    | none, none, some h =>
      hitRecord (roundRat .f32 .rn h.t).toNat (bytesOfNat 4 (roundRat .f32 .rn h.u).toNat ++ bytesOfNat 4 (roundRat .f32 .rn h.v).toNat) (ends h)
        (if h.front then 1 else 2) 0 restarts
    | none, none, none => hitRecord 0 (List.replicate 8 0) (List.replicate 12 0) 0 0 0

/-- R378: the instance table as a whole. -/
def tableMet (rd : SceneReader) (sc : Scene) : List Met :=
  let lines := (List.range (2 * sc.count)).map fun i => (rd (sc.table + 64 * i) 64).wrong
  let bad := lines.find? fun w => match w with
    | some (some _) => true
    | some none | none => false
  [bad, lines.find? (· == some none)].filterMap fun w => w.map fun w => ⟨sc.table, 0, w, .minus⟩

/-- R367: do boxes that do not contain what lies below them keep a hit of a ray from being counted? (DEDUCED, assumption 109) -/
def brokenHits (all counted : List Hit) : Bool :=
  all.any fun h => h.broken && !counted.any fun c => c.t = h.t && c.member == h.member && c.primitive == h.primitive

/-- R374-R380: a ray traced: its hit record, and the objects that it met and read. Where the scene breaks R367 for it, the record is `loose`. -/
def traceRay (rd : SceneReader) (r : RayRecord) (anyHit : Bool) (loose : List Byte) : List Byte × List Met :=
  let fail (w : Option (Option Nat)) : List Byte × List Met := (resultOf r anyHit [⟨r.scene, 64, w, .minus⟩] [] 0, [])
  match rd r.scene 64 with
  | .bytes bs =>
    match sceneOf bs with
    | none => fail malformed
    | some sc =>
      let path : Path := { line := topLine r sc.anchor }
      let found := explore rd sc r 36 (.node sc.top) path
      let met := ⟨r.scene, 64, none, .minus⟩ :: (tableMet rd sc ++ found.1)
      let root : Pending := ⟨[], .minus, .node sc.top, path⟩
      let restarts := ({ next := some (root, []), best := r.tmax } : Walk).run rd sc r (!anyHit) root traversalBound
      let all := (explore rd sc r 36 (.node sc.top) { path with every := true }).2
      (if brokenHits all found.2 then loose else resultOf r anyHit met found.2 restarts, met.filter fun m => m.wrong.isNone)
  | e => fail e.wrong

end Sys2Proof.Machine
end

