-- ==== Sys2Proof/Machine/Rays.lean ====
section
/-! DEFINITION. Rays and the light tree as instructions: trace, tracea, hitld, lwalk (R371, R381-R388), and the ray unit's completions. -/

namespace Sys2Proof.Machine

/-! ### Reads through the sampler cache -/

/-- Who reads through a sampler cache: the core, the context, and the fibre whose task or group it is. -/
structure Viewer where
  core : Nat
  context : Nat
  fibre : Option (Nat × Fibre) := none

/-- R190, R371: the page under an address: its first address, and the location where it is resident; none when it is not resident. -/
def State.scenePage (s : State) (v : Viewer) (va : Nat) : Except FaultCode (Nat × Option (Nat × Nat × Bool)) :=
  if va ≥ 2 ^ 52 then .error .translation
  else if va ≥ Config.windowBase then .error .access
  else
    match (s.translate (.core v.core) v.context va).1 with
    | none => .error .translation
    | some (size, leaf) =>
      if !leafResident leaf then .ok (va / size * size, none)
      else if !s.leafReachable leaf (entryOffset leaf + va % size) then .error .translation
      else if leafNode leaf != s.node && s.link.unreachable.contains (leafNode leaf) then .error .access
      else
        .ok (va / size * size,
          some (nodeKey s.node (leafNode leaf) (entryTier leaf) (entryOffset leaf + va % size), leafComp leaf, leafOrdered leaf))

/-- R186, R269, R304: what a read through the sampler cache gives at a location, and the state after it. -/
def State.sceneRead (s : State) (v : Viewer) (pa comp : Nat) (ordered : Bool) (va n : Nat) : Option (List Byte) × State :=
  match v.fibre with
  | some (f, x) => s.readSampler f { x with core := v.core } (.mem pa comp ordered .default va) n
  | none => s.samplerRead v.core pa n comp

/-- R371: one piece, within a line. -/
def State.scenePiece (s : State) (v : Viewer) (va n : Nat) : Seen :=
  match s.scenePage v va with
  | .error e => .bad e
  | .ok (_, none) => .absent
  | .ok (_, some (pa, comp, ordered)) =>
    if s.samplerFaulty v.core pa n comp then .bad .ecc
    else
      match (s.sceneRead v pa comp ordered va n).1 with
      | none => .bad .decode
      | some bs => .bytes bs

/-- R371: pieces in order; the first that cannot be read decides. -/
def State.scenePieces (s : State) (v : Viewer) : List (Nat × Nat) → Seen
  | [] => .bytes []
  | p :: ps =>
    match s.scenePiece v p.1 p.2 with
    | .bytes bs =>
      match State.scenePieces s v ps with
      | .bytes rest => .bytes (bs ++ rest)
      | e => e
    | e => e

/-- R371: how a viewer reads a scene, in a state. -/
def State.sceneReader (s : State) (v : Viewer) : SceneReader := fun va n => s.scenePieces v (linePieces (n / 64 + 2) va n)

/-- The sampler cache and the translations after a read: the lines read are held (DESIGN CHOICE, assumption 4). -/
def State.sceneTouch (s : State) (v : Viewer) (va n : Nat) : State :=
  (linePieces (n / 64 + 2) va n).foldl
    (fun s p =>
      match s.scenePage v p.1 with
      | .ok (_, some (pa, comp, ordered)) => ((s.translate (.core v.core) v.context p.1).2.sceneRead v pa comp ordered p.1 p.2).2
      | .ok (_, none) | .error _ => s) s

/-! ### trace and tracea -/

/-- R384: the record of the register form: eight registers from nj on. -/
def Fibre.registerBlock (x : Fibre) (bank : Vector Word 16) (a : Src) (n : Nat) : List Word :=
  match a with
  | .n j => (List.range n).map fun i => x.named.toList.getD (j.val + i) 0
  | .a _ | .k _ => (List.range n).map fun _ => x.read bank a

/-- R381: a slice range that a ray writes or will write: what is read there before its fibre acquires it is undefined. -/
def Group.expect (g : Group) (off n : Nat) (known : List Party) : Group :=
  let offs := (List.range n).map (off + ·)
  { g with produced := (g.produced.filter fun w => !offs.contains w.off) ++ offs.map fun o => ⟨o, known⟩ }

/-- R384, R21: a ray with its record goes to the unit in its turn; one that waited keeps its place. -/
def State.issueRay (s : State) (f : Nat) (x : Fibre) (g : Nat) (anyHit : Bool) (record : List Byte) (hit : Nat) : Issue :=
  if (rayOf record).isNone then .trap .access 0 0
  else if x.full .ry then .stall (.counter CountClass.ry.index)
  else
    let turn := x.rayRequest.getD ((s.core x.core).clock, false)
    if !s.rayTurn x.core x.cls turn.2 turn.1 then .stall (.rayUnit turn.1 turn.2)
    else
    let n := x.issued.ry
    let ray : Ray := { anyHit := anyHit, number := n, record := record, group := g, hit := hit, core := x.core }
    let t := (s.releaseOn x.core).1.updGroup g fun k => (k.learn [.operation f .ry n] (· == .fibre f)).expect hit 32 []
    .done (t.setFibre f (Fibre.countIssue { x with rays := x.rays ++ [ray], rayRequest := none } .ry))

/-- R384: trace and tracea, with the ray record in the slice or in registers. (DEDUCED, assumption 36) -/
def State.trace (s : State) (anyHit registers : Bool) (a b : Src) : Host.Outcome State Fault Refusal :=
  s.issueWith fun f x =>
    match x.group, s.groupOf x with
    | some g, some k =>
      let hit := x.read (s.bankOf x) b
      if hit.toNat % 32 != 0 then .trap .align hit 0
      else if hit.toNat + 32 > k.grant then .trap .access hit 0
      else if registers then s.issueRay f x g anyHit ((x.registerBlock (s.bankOf x) a 8).flatMap fun w => bytesOfNat 8 w.toNat) hit.toNat
      else
        let at_ := x.read (s.bankOf x) a
        if at_.toNat % 32 != 0 then .trap .align at_ 0
        else if at_.toNat + 64 > k.grant then .trap .access at_ 0
        else if s.hasError f x 64 (.slice at_.toNat) then .trap .ecc at_ 0
        else
          let r := s.readSlice (.fibre f) k at_.toNat 64
          r.2.issueRay f x g anyHit r.1 hit.toNat
    | _, _ => .trap .detached 0 0

/-- R384. -/
def execTrace (a b : Src) (s : State) := s.trace false false a b
/-- R384. -/
def execTraceR (a b : Src) (s : State) := s.trace false true a b
/-- R384. -/
def execTracea (a b : Src) (s : State) := s.trace true false a b
/-- R384. -/
def execTraceaR (a b : Src) (s : State) := s.trace true true a b

/-- R381: is another ray in flight to bytes of a hit record of a group? -/
def State.rayTo (s : State) (g hit : Nat) : Bool :=
  let to_ (x : Fibre) : Bool := x.rays.any fun r => r.group == g && r.hit < hit + 32 && hit < r.hit + 32
  (s.fibres.any fun e => to_ e.2) || s.frames.any fun e => match e.2.savedFibre with
    | some x => to_ x
    | none => false

/-- R381: the write of a hit record into a group's slice. -/
def State.writeHit (s : State) (p : Party) (g hit : Nat) (bs : List Byte) : State :=
  let known := if s.rayTo g hit then [] else [p]
  (s.updGroup g fun k => (k.writeSlice hit bs p).expect hit 32 known).disturb g p ((List.range 32).map (hit + ·))

/-- R381: ray k of a fibre completes: its record is written, and the ry count falls. -/
def execRayComplete (f k : Nat) (s : State) : Host.Outcome State Fault Refusal :=
  match s.anyFibre f with
  | none => .next s
  | some x =>
    match x.rays[k]? with
    | none => .next s
    | some ray =>
      match rayOf ray.record with
      | none => .next s
      | some r =>
        let v : Viewer := { core := ray.core, context := x.context, fibre := some (f, x) }
        let free := s.freeBytes 32
        let out := traceRay (s.sceneReader v) r ray.anyHit free.1
        let t := out.2.foldl (fun s m => s.sceneTouch v m.addr m.len) free.2
        .next ((t.operationOver f fun y => Fibre.countDown { y with rays := y.rays.eraseIdx k } .ry).writeHit (.operation f .ry ray.number) ray.group ray.hit out.1)

/-! ### hitld -/

/-- R385: the acquire of the rays to one hit record. -/
def Group.acquireHit (g : Group) (f hit : Nat) : Group :=
  g.learn [.fibre f] fun p =>
    match p with
    | .operation o .ry _ => o == f && g.produced.any fun w => hit ≤ w.off && w.off < hit + 32 && w.known.contains p
    | .operation _ _ _ | .fibre _ | .release _ _ | .word _ | .stream _ _ | .grid _ => false

/-- R385: the offset and length of a field of a hit record. -/
def hitField (n : Nat) : Nat × Nat := if n = 7 then (4, 8) else (4 * n, 4)

/-- R191: a value computed at issue returns with the loads. -/
def State.returnValue (s : State) (f : Nat) (x : Fibre) (d : Dst) (vs : List Word) (flags : FlagSet) : Issue :=
  let y := x.loadDest d false
  .done (s.setFibre f (y.1.addPend (.value vs flags) y.2 false .ld))

/-- R385. -/
def execHitld (d : Dst) (b : Src) (fld : Fin 64) (s : State) : Host.Outcome State Fault Refusal :=
  s.issueWith fun f x =>
    match x.group, s.groupOf x with
    | some g, some k =>
      let hit := x.read (s.bankOf x) b
      if hit.toNat % 32 != 0 then .trap .align hit 0
      else if hit.toNat + 32 > k.grant then .trap .access hit 0
      else if x.rays.any fun r => r.hit == hit.toNat then .stall (.rays hit.toNat)
      else if x.full .ld then .stall (.counter CountClass.ld.index)
      else
        let fd := hitField fld.val
        if s.hasError f x fd.2 (.slice (hit.toNat + fd.1)) then .trap .ecc hit 0
        else
          let k := k.acquireHit f hit.toNat
          let r := (s.setGroup g k).readSlice (.fibre f) k (hit.toNat + fd.1) fd.2
          r.2.returnValue f x d [BitVec.ofNat 64 (natOfBytes r.1)] 0
    | _, _ => .trap .detached 0 0

/-! ### The light tree -/

/-- R386: an entry of a light node: fields, leaf or not, and its target; none when it is empty. -/
structure Light where
  centre : Word × Word × Word
  radius : Word
  power : Word
  leaf : Bool
  target : Nat

/-- R386: an entry that keeps the limits; none inside when it is empty. -/
def lightOf (e : List Byte) : Option (Option Light) :=
  let ref := fieldOf e 24 8
  let f (off : Nat) : Word := BitVec.ofNat 64 (fieldOf e off 4)
  if !zeroBytes e 20 4 || ref / 2 ^ 52 % 2 ^ 10 != 0 then none
  else if ref.testBit 62 then (if zeroBytes e 0 31 && ref / 2 ^ 56 % 64 = 0 then some none else none)
  else
    let target := ref % 2 ^ 52
    if if ref.testBit 63 then target ≥ 2 ^ 32 else target % 64 != 0 then none
    else some (some ⟨(f 0, f 4, f 8), f 12, f 16, ref.testBit 63, target⟩)

/-- The f32 value 1. -/
def one32 : Word := 0x3F800000
/-- The f32 value +infinity. -/
def inf32 : Word := 0x7F800000

/-- R387, DOT3: each step rounds an exact value. -/
def dot3 (a b : Word × Word × Word) : Word :=
  (ffmaBits .f32 .rn a.1 b.1 (ffmaBits .f32 .rn a.2.1 b.2.1 (fmulBits .f32 .rn a.2.2 b.2.2).1).1).1

/-- R386: power as it counts, and the flag of a NaN or a negative value. -/
def lightPower (w : Word) : Flagged Word :=
  let x := exact .f32 w
  if x.isNan || (x.isNeg && !x.isZero) then (0, Flag.invalid) else (w, 0#6)

/-- R387, IMP, at a point with a normal. -/
def importance (e : Option Light) (p n : Word × Word × Word) : Flagged Word :=
  match e with
  | none => (0, 0#6)
  | some l =>
    let sub (a b : Word) : Word := (fsubBits .f32 .rn a b).1
    let power := lightPower l.power
    let dv := (sub l.centre.1 p.1, sub l.centre.2.1 p.2.1, sub l.centre.2.2 p.2.2)
    let d2 := dot3 dv dv
    let rr := (fmulBits .f32 .rn l.radius l.radius).1
    let den := (fmaxBits .f32 (fmaxBits .f32 d2 rr).1 0x00800000).1
    let flat := [n.1, n.2.1, n.2.2].all fun c => (exact .f32 c).isZero
    let facing := (fdivBits .f32 .rn (faddBits .f32 .rn (dot3 n dv) l.radius).1 (sfnBits .sqrt .f32 .rn d2).1).1
    let w := if flat || (cmpFloat .le .f32 d2 rr).1 then one32 else (fminBits .f32 one32 (fmaxBits .f32 0 facing).1).1
    let i := (fdivBits .f32 .rn (fmulBits .f32 .rn power.1 w).1 den).1
    (if (exact .f32 i).isNan then 0 else i, power.2)

/-- R387: pL. -/
def leftShare (i0 i1 : Word) : Word :=
  if (cmpFloat .eq .f32 i0 i1).1 then 0x3F000000
  else if i0 = inf32 then one32
  else if i1 = inf32 then 0
  else (fdivBits .f32 .rn i0 (faddBits .f32 .rn i0 i1).1).1

/-- R387: the steps of a walk from a node, `left` of them at most: the result and its flags, and the nodes read; or a fault and its address. -/
def lightSteps (rd : SceneReader) (p n : Word × Word × Word) (left node : Nat) (u : Nat) (prob : Word) (flags : FlagSet) (seen : List Nat) :
    Except (FaultCode × Nat) (Flagged Word × List Nat) :=
  match left with
  | 0 => .error (.access, node)
  | left + 1 =>
    match rd node 64 with
    | .absent => .error (.translation, node)
    | .bad c => .error (c, node)
    | .bytes bs =>
      match lightOf bs, lightOf (bs.drop 32) with
      | some e0, some e1 =>
        let i0 := importance e0 p n
        let i1 := importance e1 p n
        let pl := leftShare i0.1 i1.1
        let t := (ratOf (exact .f32 pl) * ((2 ^ 32 : Nat) : Rat)).floor.toNat
        let first := u < t
        let e := if first then e0 else e1
        let q := if first then pl else (fsubBits .f32 .rn one32 pl).1
        let u := if first then u * 2 ^ 32 / t else (u - t) * 2 ^ 32 / (2 ^ 32 - t)
        let prob := (fmulBits .f32 .rn prob q).1
        let flags := flags ||| i0.2 ||| i1.2
        let seen := node :: seen
        match e with
        | none => .ok ((0xFFFFFFFF, flags), seen)
        | some l =>
          if l.leaf then .ok ((BitVec.ofNat 64 (prob.toNat * 2 ^ 32 + l.target), flags), seen)
          else lightSteps rd p n left l.target u prob flags seen
      | _, _ => .error (.access, node)

/-- R387, R388: a walk from the registers of the block. -/
def lightWalk (rd : SceneReader) (regs : List Word) (draw : Word) : Except (FaultCode × Nat) (Flagged Word × List Nat) :=
  let w (i : Nat) : Word := regs.getD i 0
  let low (v : Word) : Word := v &&& 0xFFFFFFFF
  let high (v : Word) : Word := v >>> 32
  lightSteps rd (low (w 1), high (w 1), low (w 2)) (high (w 2), low (w 3), high (w 3)) 64 (w 0).toNat (low draw).toNat one32 0#6 []

/-- R387, R388. -/
def execLwalk (d : Dst) (j c : Src) (s : State) : Host.Outcome State Fault Refusal :=
  s.issueWith fun f x =>
    let regs := x.registerBlock (s.bankOf x) j 4
    let root := regs.getD 0 0
    if x.full .ld then .stall (.counter CountClass.ld.index)
    else if root.toNat % 64 != 0 then .trap .align root 0
    else
      let v : Viewer := { core := x.core, context := x.context, fibre := some (f, x) }
      match lightWalk (s.sceneReader v) regs (x.read (s.bankOf x) c) with
      | .error e => .trap e.1 (BitVec.ofNat 64 e.2) 0
      | .ok (r, seen) => (seen.foldl (fun s a => s.sceneTouch v a 64) s).returnValue f x d [r.1] r.2

end Sys2Proof.Machine
end

