-- ==== Sys2Proof/Decode.lean ====
section
/-! DEFINITION. The encoding: formats (R56-R63, R67), specifiers (R53, R54), codes (R28, R31, R55), the opcode map (R65, R66) as the owning chapters fill
it, `decode`, and after it `encode`. Decoding refuses what no operand type can hold (R73); `Instr.wf` refuses the rest. -/

namespace Sys2Proof

/-- R73: why a word is not an instruction. -/
inductive DecodeError where
  /-- R65: a major opcode without instructions, 0x00 included -/
  | unassignedOpcode
  /-- R65: a function code that no chapter assigns -/
  | unassignedFunction
  /-- R55: a type code outside R28 and R31, or not the fixed one -/
  | reservedType
  /-- R54: a destination field of 1-15 or 48-63 -/
  | badDestination
  /-- R63: a guard code of 1-15 -/
  | badGuard
  /-- R55: an unused field that is not zero -/
  | unusedField
  /-- R60, R70, R72: a reserved bit that is not zero -/
  | reservedBit
  /-- R60: a mask register field above m7 -/
  | badMaskField
  /-- R135, R197: a shared-exponent format code that names none -/
  | badBlockFormat
  /-- R243: a field that must name another register class -/
  | badField
  /-- R68: a scheduling code of 4-15, or reserved bits -/
  | badHintPayload
  /-- R51: fewer than four bytes -/
  | truncated
deriving DecidableEq, Repr

/-- R51: bits 31..26. -/
def opcodeOf (w : InsnWord) : BitVec 6 := w.extractLsb' 26 6

/-- R56: format S, without its opcode. -/
structure FormatS where
  dst : BitVec 6
  a : BitVec 6
  b : BitVec 6
  fn : BitVec 4
  ty : BitVec 4
deriving DecidableEq, Repr

/-- R56: the fields of a word. -/
def FormatS.read (w : InsnWord) : FormatS :=
  ⟨w.extractLsb' 20 6, w.extractLsb' 14 6, w.extractLsb' 8 6, w.extractLsb' 4 4, w.extractLsb' 0 4⟩

/-- R56: the word of an opcode and fields. -/
def FormatWord.s (op : BitVec 6) (f : FormatS) : InsnWord :=
  op ++ f.dst ++ f.a ++ f.b ++ f.fn ++ f.ty

/-- R57: format T, without its opcode. -/
structure FormatT where
  dst : BitVec 6
  a : BitVec 6
  b : BitVec 6
  c : BitVec 6
  ty : BitVec 2
deriving DecidableEq, Repr

/-- R57: the fields of a word. -/
def FormatT.read (w : InsnWord) : FormatT :=
  ⟨w.extractLsb' 20 6, w.extractLsb' 14 6, w.extractLsb' 8 6, w.extractLsb' 2 6, w.extractLsb' 0 2⟩

/-- R57: the word of an opcode and fields. -/
def FormatWord.t (op : BitVec 6) (f : FormatT) : InsnWord :=
  op ++ f.dst ++ f.a ++ f.b ++ f.c ++ f.ty

/-- R58: format I, without its opcode. -/
structure FormatI where
  dst : BitVec 6
  a : BitVec 6
  imm : BitVec 14
deriving DecidableEq, Repr

/-- R58: the fields of a word. -/
def FormatI.read (w : InsnWord) : FormatI :=
  ⟨w.extractLsb' 20 6, w.extractLsb' 14 6, w.extractLsb' 0 14⟩

/-- R58: the word of an opcode and fields. -/
def FormatWord.i (op : BitVec 6) (f : FormatI) : InsnWord :=
  op ++ f.dst ++ f.a ++ f.imm

/-- R59: format B, without its opcode. -/
structure FormatB where
  sense : BitVec 1
  pred : BitVec 3
  off : BitVec 22
deriving DecidableEq, Repr

/-- R59: the fields of a word. -/
def FormatB.read (w : InsnWord) : FormatB :=
  ⟨w.extractLsb' 25 1, w.extractLsb' 22 3, w.extractLsb' 0 22⟩

/-- R59: the word of an opcode and fields. -/
def FormatWord.b (op : BitVec 6) (f : FormatB) : InsnWord :=
  op ++ f.sense ++ f.pred ++ f.off

/-- R60: format V, without its opcode. -/
structure FormatV where
  vd : BitVec 4
  va : BitVec 4
  vb : BitVec 4
  mask : BitVec 3
  fn : BitVec 5
  ty : BitVec 4
  c : BitVec 1
  res : BitVec 1
deriving DecidableEq, Repr

/-- R60: the fields of a word. -/
def FormatV.read (w : InsnWord) : FormatV :=
  ⟨w.extractLsb' 22 4, w.extractLsb' 18 4, w.extractLsb' 14 4, w.extractLsb' 11 3, w.extractLsb' 6 5, w.extractLsb' 2 4, w.extractLsb' 1 1, w.extractLsb' 0 1⟩

/-- R60: the word of an opcode and fields. -/
def FormatWord.v (op : BitVec 6) (f : FormatV) : InsnWord :=
  op ++ f.vd ++ f.va ++ f.vb ++ f.mask ++ f.fn ++ f.ty ++ f.c ++ f.res

/-- R61: format VS, without its opcode. -/
structure FormatVs where
  vd : BitVec 4
  va : BitVec 4
  s : BitVec 6
  mask : BitVec 3
  fn : BitVec 5
  ty : BitVec 4
deriving DecidableEq, Repr

/-- R61: the fields of a word. -/
def FormatVs.read (w : InsnWord) : FormatVs :=
  ⟨w.extractLsb' 22 4, w.extractLsb' 18 4, w.extractLsb' 12 6, w.extractLsb' 9 3, w.extractLsb' 4 5, w.extractLsb' 0 4⟩

/-- R61: the word of an opcode and fields. -/
def FormatWord.vs (op : BitVec 6) (f : FormatVs) : InsnWord :=
  op ++ f.vd ++ f.va ++ f.s ++ f.mask ++ f.fn ++ f.ty

/-- R62: format Ms, without its opcode. -/
structure FormatMs where
  d : BitVec 6
  base : BitVec 6
  ty : BitVec 4
  fn : BitVec 2
  off : BitVec 8
deriving DecidableEq, Repr

/-- R62: the fields of a word. -/
def FormatMs.read (w : InsnWord) : FormatMs :=
  ⟨w.extractLsb' 20 6, w.extractLsb' 14 6, w.extractLsb' 10 4, w.extractLsb' 8 2, w.extractLsb' 0 8⟩

/-- R62: the word of an opcode and fields. -/
def FormatWord.ms (op : BitVec 6) (f : FormatMs) : InsnWord :=
  op ++ f.d ++ f.base ++ f.ty ++ f.fn ++ f.off

/-- R62: format Mv, without its opcode. -/
structure FormatMv where
  vd : BitVec 4
  mask : BitVec 3
  base : BitVec 6
  ty : BitVec 4
  fn : BitVec 2
  x : BitVec 7
deriving DecidableEq, Repr

/-- R62: the fields of a word. -/
def FormatMv.read (w : InsnWord) : FormatMv :=
  ⟨w.extractLsb' 22 4, w.extractLsb' 19 3, w.extractLsb' 13 6, w.extractLsb' 9 4, w.extractLsb' 7 2, w.extractLsb' 0 7⟩

/-- R62: the word of an opcode and fields. -/
def FormatWord.mv (op : BitVec 6) (f : FormatMv) : InsnWord :=
  op ++ f.vd ++ f.mask ++ f.base ++ f.ty ++ f.fn ++ f.x

/-- R63: format X, without its opcode. -/
structure FormatX where
  fn : BitVec 3
  a : BitVec 6
  b : BitVec 6
  c : BitVec 6
  g : BitVec 5
deriving DecidableEq, Repr

/-- R63: the fields of a word. -/
def FormatX.read (w : InsnWord) : FormatX :=
  ⟨w.extractLsb' 23 3, w.extractLsb' 17 6, w.extractLsb' 11 6, w.extractLsb' 5 6, w.extractLsb' 0 5⟩

/-- R63: the word of an opcode and fields. -/
def FormatWord.x (op : BitVec 6) (f : FormatX) : InsnWord :=
  op ++ f.fn ++ f.a ++ f.b ++ f.c ++ f.g

/-- R67: format H, without its opcode. -/
structure FormatH where
  kind : BitVec 2
  payload : BitVec 24
deriving DecidableEq, Repr

/-- R67: the fields of a word. -/
def FormatH.read (w : InsnWord) : FormatH :=
  ⟨w.extractLsb' 24 2, w.extractLsb' 0 24⟩

/-- R67: the word of an opcode and fields. -/
def FormatWord.h (op : BitVec 6) (f : FormatH) : InsnWord :=
  op ++ f.kind ++ f.payload

/-- R53: the register of an operand specifier. -/
def Src.ofCode (v : BitVec 6) : Src :=
  if v.extractLsb' 4 2 = 0#2 then .a (v.extractLsb' 0 4).toFin
  else if v.extractLsb' 4 2 = 3#2 then .k (v.extractLsb' 0 4).toFin
  else .n (v - 16#6 |>.extractLsb' 0 5).toFin

/-- R53. -/
def Src.code : Src → BitVec 6
  | .a i => BitVec.ofNat 6 i.val
  | .n i => BitVec.ofNat 6 (16 + i.val)
  | .k i => BitVec.ofNat 6 (48 + i.val)

/-- R54: the destination of a specifier. -/
def Dst.ofCode (v : BitVec 6) : Except DecodeError Dst :=
  if v = 0#6 then .ok .push
  else if v.extractLsb' 4 2 = 0#2 || v.extractLsb' 4 2 = 3#2 then .error .badDestination
  else .ok (.n (v - 16#6 |>.extractLsb' 0 5).toFin)

/-- R54. -/
def Dst.code : Dst → BitVec 6
  | .push => 0#6
  | .n i => BitVec.ofNat 6 (16 + i.val)

/-- R28, R31: the type of a code; 0xE and 0xF are illegal (R55). -/
def Ty.ofCode (v : BitVec 4) : Except DecodeError Ty :=
  match v.toNat with
  | 0 => .ok .s32 | 1 => .ok .n32 | 2 => .ok .s64 | 3 => .ok .n64 | 4 => .ok .f32 | 5 => .ok .f64 | 6 => .ok .f16 | 7 => .ok .bf16
  | 8 => .ok .b32 | 9 => .ok .b64 | 10 => .ok .s16 | 11 => .ok .n16 | 12 => .ok .s8 | 13 => .ok .n8
  | _ => .error .reservedType

/-- R28, R31. -/
def Ty.code : Ty → BitVec 4
  | .s32 => 0#4 | .n32 => 1#4 | .s64 => 2#4 | .n64 => 3#4 | .f32 => 4#4 | .f64 => 5#4 | .f16 => 6#4 | .bf16 => 7#4
  | .b32 => 8#4 | .b64 => 9#4 | .s16 => 10#4 | .n16 => 11#4 | .s8 => 12#4 | .n8 => 13#4

/-- R55: the 2-bit type field of format T. -/
def FTy.ofCode (v : BitVec 2) : FTy :=
  if v = 0#2 then .f32 else if v = 1#2 then .f64 else if v = 2#2 then .f16 else .bf16

/-- R55. -/
def FTy.code : FTy → BitVec 2
  | .f32 => 0#2 | .f64 => 1#2 | .f16 => 2#2 | .bf16 => 3#2

/-- A one-bit field. -/
def boolOfCode (v : BitVec 1) : Bool := v == 1#1

/-- A one-bit field. -/
def boolCode (b : Bool) : BitVec 1 := if b then 1#1 else 0#1

/-- An unsigned field. -/
def finOfCode {w : Nat} (v : BitVec w) : Fin (2 ^ w) := v.toFin

/-- An unsigned field. -/
def finCode {w : Nat} (i : Fin (2 ^ w)) : BitVec w := BitVec.ofFin i

/-- R60: a mask register in a four-bit field; m8-m15 do not exist. -/
def maskOfField (v : BitVec 4) : Except DecodeError MReg :=
  if v.extractLsb' 3 1 = 0#1 then .ok (v.extractLsb' 0 3).toFin else .error .badMaskField

/-- R60. -/
def maskField (m : MReg) : BitVec 4 := BitVec.ofNat 4 m.val

/-- R92: the selector of a special value. -/
def SpecialValue.ofCode (v : BitVec 4) : SpecialValue :=
  match v.toNat with
  | 0 => .sp | 1 => .fp | 2 => .fid | 3 => .fxyz | 4 => .gx | 5 => .gy | 6 => .gz | 7 => .launch
  | 8 => .ms | 9 => .rkey | 10 => .rctr | 11 => .rep | 12 => .flags | 13 => .preds | 14 => .cvi | _ => .clock

/-- R92. -/
def SpecialValue.code : SpecialValue → BitVec 4
  | .sp => 0#4 | .fp => 1#4 | .fid => 2#4 | .fxyz => 3#4 | .gx => 4#4 | .gy => 5#4 | .gz => 6#4 | .launch => 7#4
  | .ms => 8#4 | .rkey => 9#4 | .rctr => 10#4 | .rep => 11#4 | .flags => 12#4 | .preds => 13#4 | .cvi => 14#4 | .clock => 15#4

/-- R32: the rounding mode of a code. -/
def Rnd.ofCode (v : BitVec 2) : Rnd :=
  if v = 0#2 then .rn else if v = 1#2 then .rz else if v = 2#2 then .rp else .rm

/-- R32. -/
def Rnd.code : Rnd → BitVec 2
  | .rn => 0#2 | .rz => 1#2 | .rp => 2#2 | .rm => 3#2

/-- R72: the cache policy of a code. -/
def CachePolicy.ofCode (v : BitVec 2) : CachePolicy :=
  if v = 0#2 then .default else if v = 1#2 then .stream else if v = 2#2 then .keep else .nol1

/-- R72. -/
def CachePolicy.code : CachePolicy → BitVec 2
  | .default => 0#2 | .stream => 1#2 | .keep => 2#2 | .nol1 => 3#2

/-- R126, R135: the format code of `vcvt.sx`. -/
def SxFmt.ofConvertCode (v : BitVec 4) : Except DecodeError SxFmt :=
  if v = 4#4 then .ok .sx4 else if v = 6#4 then .ok .sx6 else if v = 8#4 then .ok .sx8 else .error .badBlockFormat

/-- R126, R135. -/
def SxFmt.convertCode : SxFmt → BitVec 4
  | .sx4 => 4#4 | .sx6 => 6#4 | .sx8 => 8#4

/-- R188, R197: the format code of `ldq` and `stq`. -/
def SxFmt.ofBlockCode (v : BitVec 2) : Except DecodeError SxFmt :=
  if v = 0#2 then .ok .sx4 else if v = 1#2 then .ok .sx6 else if v = 2#2 then .ok .sx8 else .error .badBlockFormat

/-- R188, R197. -/
def SxFmt.blockCode : SxFmt → BitVec 2
  | .sx4 => 0#2 | .sx6 => 1#2 | .sx8 => 2#2

/-- R63: the guard of a code. -/
def guardOfCode (v : BitVec 5) : Except DecodeError Guard :=
  if v = 0#5 then .ok none
  else if v.extractLsb' 4 1 = 1#1 then .ok (some (v.extractLsb' 0 4).toFin)
  else .error .badGuard

/-- R63. -/
def guardCode : Guard → BitVec 5
  | none => 0#5
  | some i => BitVec.ofNat 5 (16 + i.val)

/-- R55: a field whose value the owning chapter fixes. -/
def fixed {n : Nat} (v c : BitVec n) (e : DecodeError) : Except DecodeError Unit :=
  if v = c then .ok () else .error e


-- The compiler of this Lean holds at most 245 constructors of one type; the definitions below build more of them, and are for the kernel alone.
/-- R65: major opcode 0x01, format S. -/
def decodeOp01 (f : FormatS) : Except DecodeError Instr :=
  match f.fn.toNat with
  | 0 => do return .add (← Dst.ofCode f.dst) (Src.ofCode f.a) (Src.ofCode f.b) (← Ty.ofCode f.ty)
  | 1 => do return .sub (← Dst.ofCode f.dst) (Src.ofCode f.a) (Src.ofCode f.b) (← Ty.ofCode f.ty)
  | 2 => do return .mul (← Dst.ofCode f.dst) (Src.ofCode f.a) (Src.ofCode f.b) (← Ty.ofCode f.ty)
  | 3 => do return .mulh (← Dst.ofCode f.dst) (Src.ofCode f.a) (Src.ofCode f.b) (← Ty.ofCode f.ty)
  | 4 => do return .div (← Dst.ofCode f.dst) (Src.ofCode f.a) (Src.ofCode f.b) (← Ty.ofCode f.ty)
  | 5 => do return .rem (← Dst.ofCode f.dst) (Src.ofCode f.a) (Src.ofCode f.b) (← Ty.ofCode f.ty)
  | 6 => do return .min (← Dst.ofCode f.dst) (Src.ofCode f.a) (Src.ofCode f.b) (← Ty.ofCode f.ty)
  | 7 => do return .max (← Dst.ofCode f.dst) (Src.ofCode f.a) (Src.ofCode f.b) (← Ty.ofCode f.ty)
  | 8 => do fixed f.b 0#6 .unusedField; return .neg (← Dst.ofCode f.dst) (Src.ofCode f.a) (← Ty.ofCode f.ty)
  | 9 => do fixed f.b 0#6 .unusedField; return .abs (← Dst.ofCode f.dst) (Src.ofCode f.a) (← Ty.ofCode f.ty)
  | _ => .error .unassignedFunction

/-- R65: major opcode 0x02, format S. -/
def decodeOp02 (f : FormatS) : Except DecodeError Instr :=
  match f.fn.toNat with
  | 0 => do return .and (← Dst.ofCode f.dst) (Src.ofCode f.a) (Src.ofCode f.b) (← Ty.ofCode f.ty)
  | 1 => do return .or (← Dst.ofCode f.dst) (Src.ofCode f.a) (Src.ofCode f.b) (← Ty.ofCode f.ty)
  | 2 => do return .xor (← Dst.ofCode f.dst) (Src.ofCode f.a) (Src.ofCode f.b) (← Ty.ofCode f.ty)
  | 3 => do fixed f.b 0#6 .unusedField; return .not (← Dst.ofCode f.dst) (Src.ofCode f.a) (← Ty.ofCode f.ty)
  | 4 => do return .shl (← Dst.ofCode f.dst) (Src.ofCode f.a) (Src.ofCode f.b) (← Ty.ofCode f.ty)
  | 5 => do return .shr (← Dst.ofCode f.dst) (Src.ofCode f.a) (Src.ofCode f.b) (← Ty.ofCode f.ty)
  | 6 => do return .sra (← Dst.ofCode f.dst) (Src.ofCode f.a) (Src.ofCode f.b) (← Ty.ofCode f.ty)
  | 7 => do return .ror (← Dst.ofCode f.dst) (Src.ofCode f.a) (Src.ofCode f.b) (← Ty.ofCode f.ty)
  | 8 => do fixed f.b 0#6 .unusedField; return .pcnt (← Dst.ofCode f.dst) (Src.ofCode f.a) (← Ty.ofCode f.ty)
  | 9 => do fixed f.b 0#6 .unusedField; return .clz (← Dst.ofCode f.dst) (Src.ofCode f.a) (← Ty.ofCode f.ty)
  | 10 => do fixed f.b 0#6 .unusedField; return .ctz (← Dst.ofCode f.dst) (Src.ofCode f.a) (← Ty.ofCode f.ty)
  | 11 => do fixed f.b 0#6 .unusedField; return .brev (← Dst.ofCode f.dst) (Src.ofCode f.a) (← Ty.ofCode f.ty)
  | _ => .error .unassignedFunction

/-- R65: major opcode 0x03, format S. -/
def decodeOp03 (f : FormatS) : Except DecodeError Instr :=
  match f.fn.toNat with
  | 0 => do return .mad (← Dst.ofCode f.dst) (Src.ofCode f.a) (Src.ofCode f.b) (← Ty.ofCode f.ty)
  | 1 => do return .bfx (← Dst.ofCode f.dst) (Src.ofCode f.a) (Src.ofCode f.b) (← Ty.ofCode f.ty)
  | 2 => do return .bfi (← Dst.ofCode f.dst) (Src.ofCode f.a) (Src.ofCode f.b) (← Ty.ofCode f.ty)
  | 3 => do fixed f.b 0#6 .unusedField; return .mov (← Dst.ofCode f.dst) (Src.ofCode f.a) (← Ty.ofCode f.ty)
  | _ => .error .unassignedFunction

/-- R65: major opcode 0x04, format S. -/
def decodeOp04 (f : FormatS) : Except DecodeError Instr :=
  do fixed f.ty 3#4 .reservedType; return .lea (← Dst.ofCode f.dst) (Src.ofCode f.a) (Src.ofCode f.b) (finOfCode f.fn)

/-- R65: major opcode 0x05, format S. -/
def decodeOp05 (f : FormatS) : Except DecodeError Instr :=
  do return .sel (← Dst.ofCode f.dst) (Src.ofCode f.a) (Src.ofCode f.b) (boolOfCode (f.fn.extractLsb' 3 1)) (finOfCode (f.fn.extractLsb' 0 3)) (← Ty.ofCode f.ty)

/-- R65: major opcode 0x06, format S. -/
def decodeOp06 (f : FormatS) : Except DecodeError Instr :=
  if f.fn.extractLsb' 3 1 = 0#1 then do fixed f.dst 0#6 .unusedField; return .setpEq (Src.ofCode f.a) (Src.ofCode f.b) (finOfCode (f.fn.extractLsb' 0 3)) (← Ty.ofCode f.ty)
  else do fixed f.dst 0#6 .unusedField; return .setpLt (Src.ofCode f.a) (Src.ofCode f.b) (finOfCode (f.fn.extractLsb' 0 3)) (← Ty.ofCode f.ty)

/-- R65: major opcode 0x07, format S. -/
def decodeOp07 (f : FormatS) : Except DecodeError Instr :=
  if f.fn.extractLsb' 3 1 = 0#1 then do fixed f.dst 0#6 .unusedField; return .setpLe (Src.ofCode f.a) (Src.ofCode f.b) (finOfCode (f.fn.extractLsb' 0 3)) (← Ty.ofCode f.ty)
  else do fixed f.dst 0#6 .unusedField; return .setpNe (Src.ofCode f.a) (Src.ofCode f.b) (finOfCode (f.fn.extractLsb' 0 3)) (← Ty.ofCode f.ty)

/-- R65: major opcode 0x08, format I. -/
def decodeOp08 (f : FormatI) : Except DecodeError Instr :=
  do return .addImm (← Dst.ofCode f.dst) (Src.ofCode f.a) f.imm

/-- R65: major opcode 0x09, format I. -/
def decodeOp09 (f : FormatI) : Except DecodeError Instr :=
  do return .andImm (← Dst.ofCode f.dst) (Src.ofCode f.a) f.imm

/-- R65: major opcode 0x0A, format I. -/
def decodeOp0A (f : FormatI) : Except DecodeError Instr :=
  do return .orImm (← Dst.ofCode f.dst) (Src.ofCode f.a) f.imm

/-- R65: major opcode 0x0B, format I. -/
def decodeOp0B (f : FormatI) : Except DecodeError Instr :=
  do return .xorImm (← Dst.ofCode f.dst) (Src.ofCode f.a) f.imm

/-- R65: major opcode 0x0C, format I. -/
def decodeOp0C (f : FormatI) : Except DecodeError Instr :=
  do return .shlImm (← Dst.ofCode f.dst) (Src.ofCode f.a) f.imm

/-- R65: major opcode 0x0D, format I. -/
def decodeOp0D (f : FormatI) : Except DecodeError Instr :=
  do return .shrImm (← Dst.ofCode f.dst) (Src.ofCode f.a) f.imm

/-- R65: major opcode 0x0E, format I. -/
def decodeOp0E (f : FormatI) : Except DecodeError Instr :=
  do return .sraImm (← Dst.ofCode f.dst) (Src.ofCode f.a) f.imm

/-- R65: major opcode 0x0F, format I. -/
def decodeOp0F (f : FormatI) : Except DecodeError Instr :=
  do fixed f.a 0#6 .unusedField; return .movImm (← Dst.ofCode f.dst) f.imm

/-- R65: major opcode 0x10, format S. -/
def decodeOp10 (f : FormatS) : Except DecodeError Instr :=
  match f.fn.toNat with
  | 0 => do return .fadd (← Dst.ofCode f.dst) (Src.ofCode f.a) (Src.ofCode f.b) (← Ty.ofCode f.ty)
  | 1 => do return .fsub (← Dst.ofCode f.dst) (Src.ofCode f.a) (Src.ofCode f.b) (← Ty.ofCode f.ty)
  | 2 => do return .fmul (← Dst.ofCode f.dst) (Src.ofCode f.a) (Src.ofCode f.b) (← Ty.ofCode f.ty)
  | 3 => do return .fmin (← Dst.ofCode f.dst) (Src.ofCode f.a) (Src.ofCode f.b) (← Ty.ofCode f.ty)
  | 4 => do return .fmax (← Dst.ofCode f.dst) (Src.ofCode f.a) (Src.ofCode f.b) (← Ty.ofCode f.ty)
  | 8 => do fixed f.b 0#6 .unusedField; return .sfnRcp (← Dst.ofCode f.dst) (Src.ofCode f.a) (← Ty.ofCode f.ty)
  | 9 => do fixed f.b 0#6 .unusedField; return .sfnRsq (← Dst.ofCode f.dst) (Src.ofCode f.a) (← Ty.ofCode f.ty)
  | 10 => do fixed f.b 0#6 .unusedField; return .sfnSqrt (← Dst.ofCode f.dst) (Src.ofCode f.a) (← Ty.ofCode f.ty)
  | 11 => do fixed f.b 0#6 .unusedField; return .sfnExp2 (← Dst.ofCode f.dst) (Src.ofCode f.a) (← Ty.ofCode f.ty)
  | 12 => do fixed f.b 0#6 .unusedField; return .sfnLog2 (← Dst.ofCode f.dst) (Src.ofCode f.a) (← Ty.ofCode f.ty)
  | 13 => do fixed f.b 0#6 .unusedField; return .sfnSin (← Dst.ofCode f.dst) (Src.ofCode f.a) (← Ty.ofCode f.ty)
  | 14 => do fixed f.b 0#6 .unusedField; return .sfnCos (← Dst.ofCode f.dst) (Src.ofCode f.a) (← Ty.ofCode f.ty)
  | 15 => do fixed f.b 0#6 .unusedField; return .sfnTanh (← Dst.ofCode f.dst) (Src.ofCode f.a) (← Ty.ofCode f.ty)
  | _ => .error .unassignedFunction

/-- R65: major opcode 0x11, format S. -/
def decodeOp11 (f : FormatS) : Except DecodeError Instr :=
  do fixed f.b 0#6 .unusedField; return .fcvt (← Dst.ofCode f.dst) (Src.ofCode f.a) (← Ty.ofCode f.fn) (← Ty.ofCode f.ty)

/-- R65: major opcode 0x12, format S. -/
def decodeOp12 (f : FormatS) : Except DecodeError Instr :=
  if f.fn.extractLsb' 3 1 = 0#1 then do fixed f.dst 0#6 .unusedField; return .fsetpEq (Src.ofCode f.a) (Src.ofCode f.b) (finOfCode (f.fn.extractLsb' 0 3)) (← Ty.ofCode f.ty)
  else do fixed f.dst 0#6 .unusedField; return .fsetpLt (Src.ofCode f.a) (Src.ofCode f.b) (finOfCode (f.fn.extractLsb' 0 3)) (← Ty.ofCode f.ty)

/-- R65: major opcode 0x13, format S. -/
def decodeOp13 (f : FormatS) : Except DecodeError Instr :=
  if f.fn.extractLsb' 3 1 = 0#1 then do fixed f.dst 0#6 .unusedField; return .fsetpLe (Src.ofCode f.a) (Src.ofCode f.b) (finOfCode (f.fn.extractLsb' 0 3)) (← Ty.ofCode f.ty)
  else do fixed f.dst 0#6 .unusedField; return .fsetpUn (Src.ofCode f.a) (Src.ofCode f.b) (finOfCode (f.fn.extractLsb' 0 3)) (← Ty.ofCode f.ty)

/-- R65: major opcode 0x14, format T. -/
def decodeOp14 (f : FormatT) : Except DecodeError Instr :=
  do return .ffma (← Dst.ofCode f.dst) (Src.ofCode f.a) (Src.ofCode f.b) (Src.ofCode f.c) (FTy.ofCode f.ty)

/-- R65: major opcode 0x18, format B. -/
def decodeOp18 (f : FormatB) : Except DecodeError Instr :=
  do fixed f.sense 0#1 .unusedField; fixed f.pred 0#3 .unusedField; return .bra f.off

/-- R65: major opcode 0x19, format B. -/
def decodeOp19 (f : FormatB) : Except DecodeError Instr :=
  .ok (.brp (boolOfCode f.sense) (finOfCode f.pred) f.off)

/-- R65: major opcode 0x1A, format B. -/
def decodeOp1A (f : FormatB) : Except DecodeError Instr :=
  do fixed f.sense 0#1 .unusedField; fixed f.pred 0#3 .unusedField; return .call f.off

/-- R65: major opcode 0x1C, format S. -/
def decodeOp1C (f : FormatS) : Except DecodeError Instr :=
  match f.fn.toNat with
  | 0 => do fixed f.dst 0#6 .unusedField; fixed f.b 0#6 .unusedField; fixed f.ty 0#4 .unusedField; return .jmpi (Src.ofCode f.a)
  | 1 => do fixed f.dst 0#6 .unusedField; fixed f.b 0#6 .unusedField; fixed f.ty 0#4 .unusedField; return .calli (Src.ofCode f.a)
  | 2 => do fixed f.dst 0#6 .unusedField; fixed f.b 0#6 .unusedField; fixed f.ty 0#4 .unusedField; return .ret (Src.ofCode f.a)
  | 3 => do fixed f.dst 0#6 .unusedField; fixed f.a 0#6 .unusedField; fixed f.b 0#6 .unusedField; fixed f.ty 0#4 .unusedField; return .exit
  | _ => .error .unassignedFunction

/-- R65: major opcode 0x1D, format S. -/
def decodeOp1D (f : FormatS) : Except DecodeError Instr :=
  match f.fn.toNat with
  | 0 => do fixed f.dst 0#6 .unusedField; fixed f.a 0#6 .unusedField; fixed f.b 0#6 .unusedField; fixed f.ty 0#4 .unusedField; return .nop
  | 1 => do fixed f.dst 0#6 .unusedField; fixed f.ty 0#4 .unusedField; return .pset (Src.ofCode f.a) (Src.ofCode f.b)
  | 2 => do fixed f.dst 0#6 .unusedField; fixed f.b 0#6 .unusedField; fixed f.ty 0#4 .unusedField; return .pushmN (Src.ofCode f.a)
  | 3 => do fixed f.dst 0#6 .unusedField; fixed f.b 0#6 .unusedField; fixed f.ty 0#4 .unusedField; return .pushmV (Src.ofCode f.a)
  | 4 => do fixed f.dst 0#6 .unusedField; fixed f.b 0#6 .unusedField; fixed f.ty 0#4 .unusedField; return .pushmM (Src.ofCode f.a)
  | 5 => do fixed f.dst 0#6 .unusedField; fixed f.b 0#6 .unusedField; fixed f.ty 0#4 .unusedField; return .popmN (Src.ofCode f.a)
  | 6 => do fixed f.dst 0#6 .unusedField; fixed f.b 0#6 .unusedField; fixed f.ty 0#4 .unusedField; return .popmV (Src.ofCode f.a)
  | 7 => do fixed f.dst 0#6 .unusedField; fixed f.b 0#6 .unusedField; fixed f.ty 0#4 .unusedField; return .popmM (Src.ofCode f.a)
  | _ => .error .unassignedFunction

/-- R65: major opcode 0x1E, format S. -/
def decodeOp1E (f : FormatS) : Except DecodeError Instr :=
  do fixed f.a 0#6 .unusedField; fixed f.b 0#6 .unusedField; fixed f.ty 0#4 .unusedField; return .getsv (← Dst.ofCode f.dst) (SpecialValue.ofCode f.fn)

/-- R65: major opcode 0x1F, format S. -/
def decodeOp1F (f : FormatS) : Except DecodeError Instr :=
  do fixed f.dst 0#6 .unusedField; fixed f.b 0#6 .unusedField; fixed f.ty 0#4 .unusedField; return .setsv (Src.ofCode f.a) (SpecialValue.ofCode f.fn)

/-- R65: major opcode 0x20, format V. -/
def decodeOp20 (f : FormatV) : Except DecodeError Instr :=
  match f.fn.toNat with
  | 0 => do fixed f.res 0#1 .reservedBit; return .vadd (finOfCode f.vd) (finOfCode f.va) (finOfCode f.vb) (finOfCode f.mask) (← Ty.ofCode f.ty) (boolOfCode f.c)
  | 1 => do fixed f.res 0#1 .reservedBit; return .vsub (finOfCode f.vd) (finOfCode f.va) (finOfCode f.vb) (finOfCode f.mask) (← Ty.ofCode f.ty) (boolOfCode f.c)
  | 2 => do fixed f.res 0#1 .reservedBit; return .vmul (finOfCode f.vd) (finOfCode f.va) (finOfCode f.vb) (finOfCode f.mask) (← Ty.ofCode f.ty) (boolOfCode f.c)
  | 3 => do fixed f.res 0#1 .reservedBit; return .vdiv (finOfCode f.vd) (finOfCode f.va) (finOfCode f.vb) (finOfCode f.mask) (← Ty.ofCode f.ty) (boolOfCode f.c)
  | 4 => do fixed f.res 0#1 .reservedBit; return .vmin (finOfCode f.vd) (finOfCode f.va) (finOfCode f.vb) (finOfCode f.mask) (← Ty.ofCode f.ty) (boolOfCode f.c)
  | 5 => do fixed f.res 0#1 .reservedBit; return .vmax (finOfCode f.vd) (finOfCode f.va) (finOfCode f.vb) (finOfCode f.mask) (← Ty.ofCode f.ty) (boolOfCode f.c)
  | 6 => do fixed f.vb 0#4 .unusedField; fixed f.res 0#1 .reservedBit; return .vabs (finOfCode f.vd) (finOfCode f.va) (finOfCode f.mask) (← Ty.ofCode f.ty) (boolOfCode f.c)
  | 7 => do fixed f.vb 0#4 .unusedField; fixed f.res 0#1 .reservedBit; return .vneg (finOfCode f.vd) (finOfCode f.va) (finOfCode f.mask) (← Ty.ofCode f.ty) (boolOfCode f.c)
  | 8 => do fixed f.res 0#1 .reservedBit; return .vfma (finOfCode f.vd) (finOfCode f.va) (finOfCode f.vb) (finOfCode f.mask) (← Ty.ofCode f.ty) (boolOfCode f.c)
  | _ => .error .unassignedFunction

/-- R65: major opcode 0x21, format V. -/
def decodeOp21 (f : FormatV) : Except DecodeError Instr :=
  match f.fn.toNat with
  | 0 => do fixed f.res 0#1 .reservedBit; return .vand (finOfCode f.vd) (finOfCode f.va) (finOfCode f.vb) (finOfCode f.mask) (← Ty.ofCode f.ty) (boolOfCode f.c)
  | 1 => do fixed f.res 0#1 .reservedBit; return .vor (finOfCode f.vd) (finOfCode f.va) (finOfCode f.vb) (finOfCode f.mask) (← Ty.ofCode f.ty) (boolOfCode f.c)
  | 2 => do fixed f.res 0#1 .reservedBit; return .vxor (finOfCode f.vd) (finOfCode f.va) (finOfCode f.vb) (finOfCode f.mask) (← Ty.ofCode f.ty) (boolOfCode f.c)
  | 3 => do fixed f.res 0#1 .reservedBit; return .vshl (finOfCode f.vd) (finOfCode f.va) (finOfCode f.vb) (finOfCode f.mask) (← Ty.ofCode f.ty) (boolOfCode f.c)
  | 4 => do fixed f.res 0#1 .reservedBit; return .vshr (finOfCode f.vd) (finOfCode f.va) (finOfCode f.vb) (finOfCode f.mask) (← Ty.ofCode f.ty) (boolOfCode f.c)
  | 5 => do fixed f.res 0#1 .reservedBit; return .vsra (finOfCode f.vd) (finOfCode f.va) (finOfCode f.vb) (finOfCode f.mask) (← Ty.ofCode f.ty) (boolOfCode f.c)
  | _ => .error .unassignedFunction

/-- R65: major opcode 0x22, format V. -/
def decodeOp22 (f : FormatV) : Except DecodeError Instr :=
  match f.fn.toNat with
  | 0 => do fixed f.res 0#1 .reservedBit; return .vcmpEq (← maskOfField f.vd) (finOfCode f.va) (finOfCode f.vb) (finOfCode f.mask) (← Ty.ofCode f.ty) (boolOfCode f.c)
  | 1 => do fixed f.res 0#1 .reservedBit; return .vcmpNe (← maskOfField f.vd) (finOfCode f.va) (finOfCode f.vb) (finOfCode f.mask) (← Ty.ofCode f.ty) (boolOfCode f.c)
  | 2 => do fixed f.res 0#1 .reservedBit; return .vcmpLt (← maskOfField f.vd) (finOfCode f.va) (finOfCode f.vb) (finOfCode f.mask) (← Ty.ofCode f.ty) (boolOfCode f.c)
  | 3 => do fixed f.res 0#1 .reservedBit; return .vcmpLe (← maskOfField f.vd) (finOfCode f.va) (finOfCode f.vb) (finOfCode f.mask) (← Ty.ofCode f.ty) (boolOfCode f.c)
  | 4 => do fixed f.res 0#1 .reservedBit; return .vcmpUn (← maskOfField f.vd) (finOfCode f.va) (finOfCode f.vb) (finOfCode f.mask) (← Ty.ofCode f.ty) (boolOfCode f.c)
  | _ => .error .unassignedFunction

/-- R65: major opcode 0x23, format V. -/
def decodeOp23 (f : FormatV) : Except DecodeError Instr :=
  match f.fn.toNat with
  | 0 => do fixed f.ty 0#4 .unusedField; fixed f.res 0#1 .reservedBit; return .vsel (finOfCode f.vd) (finOfCode f.va) (finOfCode f.vb) (finOfCode f.mask) (boolOfCode f.c)
  | 1 => do fixed f.vb 0#4 .unusedField; fixed f.ty 0#4 .unusedField; fixed f.res 0#1 .reservedBit; return .vmov (finOfCode f.vd) (finOfCode f.va) (finOfCode f.mask) (boolOfCode f.c)
  | 2 => do fixed f.vb 0#4 .unusedField; fixed f.mask 0#3 .unusedField; fixed f.ty 0#4 .unusedField; fixed f.c 0#1 .unusedField; fixed f.res 0#1 .reservedBit; return .vcoal (finOfCode f.vd) (finOfCode f.va)
  | _ => .error .unassignedFunction

/-- R65: major opcode 0x24, format V. -/
def decodeOp24 (f : FormatV) : Except DecodeError Instr :=
  do fixed f.res 0#1 .reservedBit; return .vcvt (finOfCode f.vd) (finOfCode f.va) (finOfCode f.vb) (finOfCode f.mask) (boolOfCode (f.fn.extractLsb' 4 1)) (← Ty.ofCode (f.fn.extractLsb' 0 4)) (← Ty.ofCode f.ty) (boolOfCode f.c)

/-- R65: major opcode 0x25, format V. -/
def decodeOp25 (f : FormatV) : Except DecodeError Instr :=
  do fixed f.res 0#1 .reservedBit; return .vcvtSx (finOfCode f.vd) (finOfCode f.va) (finOfCode f.vb) (finOfCode f.mask) (boolOfCode (f.fn.extractLsb' 4 1)) (← SxFmt.ofConvertCode (f.fn.extractLsb' 0 4)) (← Ty.ofCode f.ty) (boolOfCode f.c)

/-- R65: major opcode 0x26, format V. -/
def decodeOp26 (f : FormatV) : Except DecodeError Instr :=
  match f.fn.toNat with
  | 0 => do fixed f.vb 0#4 .unusedField; fixed f.c 0#1 .unusedField; fixed f.res 0#1 .reservedBit; return .vsfnRcp (finOfCode f.vd) (finOfCode f.va) (finOfCode f.mask) (← Ty.ofCode f.ty)
  | 1 => do fixed f.vb 0#4 .unusedField; fixed f.c 0#1 .unusedField; fixed f.res 0#1 .reservedBit; return .vsfnRsq (finOfCode f.vd) (finOfCode f.va) (finOfCode f.mask) (← Ty.ofCode f.ty)
  | 2 => do fixed f.vb 0#4 .unusedField; fixed f.c 0#1 .unusedField; fixed f.res 0#1 .reservedBit; return .vsfnSqrt (finOfCode f.vd) (finOfCode f.va) (finOfCode f.mask) (← Ty.ofCode f.ty)
  | 3 => do fixed f.vb 0#4 .unusedField; fixed f.c 0#1 .unusedField; fixed f.res 0#1 .reservedBit; return .vsfnExp2 (finOfCode f.vd) (finOfCode f.va) (finOfCode f.mask) (← Ty.ofCode f.ty)
  | 4 => do fixed f.vb 0#4 .unusedField; fixed f.c 0#1 .unusedField; fixed f.res 0#1 .reservedBit; return .vsfnLog2 (finOfCode f.vd) (finOfCode f.va) (finOfCode f.mask) (← Ty.ofCode f.ty)
  | 5 => do fixed f.vb 0#4 .unusedField; fixed f.c 0#1 .unusedField; fixed f.res 0#1 .reservedBit; return .vsfnSin (finOfCode f.vd) (finOfCode f.va) (finOfCode f.mask) (← Ty.ofCode f.ty)
  | 6 => do fixed f.vb 0#4 .unusedField; fixed f.c 0#1 .unusedField; fixed f.res 0#1 .reservedBit; return .vsfnCos (finOfCode f.vd) (finOfCode f.va) (finOfCode f.mask) (← Ty.ofCode f.ty)
  | 7 => do fixed f.vb 0#4 .unusedField; fixed f.c 0#1 .unusedField; fixed f.res 0#1 .reservedBit; return .vsfnTanh (finOfCode f.vd) (finOfCode f.va) (finOfCode f.mask) (← Ty.ofCode f.ty)
  | _ => .error .unassignedFunction

/-- R65: major opcode 0x27, format V. -/
def decodeOp27 (f : FormatV) : Except DecodeError Instr :=
  match f.fn.toNat with
  | 0 => do fixed f.ty 0#4 .unusedField; fixed f.res 0#1 .reservedBit; return .mand (← maskOfField f.vd) (← maskOfField f.va) (← maskOfField f.vb) (finOfCode f.mask) (boolOfCode f.c)
  | 1 => do fixed f.ty 0#4 .unusedField; fixed f.res 0#1 .reservedBit; return .mor (← maskOfField f.vd) (← maskOfField f.va) (← maskOfField f.vb) (finOfCode f.mask) (boolOfCode f.c)
  | 2 => do fixed f.ty 0#4 .unusedField; fixed f.res 0#1 .reservedBit; return .mxor (← maskOfField f.vd) (← maskOfField f.va) (← maskOfField f.vb) (finOfCode f.mask) (boolOfCode f.c)
  | 3 => do fixed f.vb 0#4 .unusedField; fixed f.ty 0#4 .unusedField; fixed f.res 0#1 .reservedBit; return .mnot (← maskOfField f.vd) (← maskOfField f.va) (finOfCode f.mask) (boolOfCode f.c)
  | _ => .error .unassignedFunction

/-- R65: major opcode 0x28, format VS. -/
def decodeOp28 (f : FormatVs) : Except DecodeError Instr :=
  match f.fn.toNat with
  | 0 => do return .vaddS (finOfCode f.vd) (finOfCode f.va) (Src.ofCode f.s) (finOfCode f.mask) (← Ty.ofCode f.ty)
  | 1 => do return .vsubS (finOfCode f.vd) (finOfCode f.va) (Src.ofCode f.s) (finOfCode f.mask) (← Ty.ofCode f.ty)
  | 2 => do return .vmulS (finOfCode f.vd) (finOfCode f.va) (Src.ofCode f.s) (finOfCode f.mask) (← Ty.ofCode f.ty)
  | 3 => do return .vdivS (finOfCode f.vd) (finOfCode f.va) (Src.ofCode f.s) (finOfCode f.mask) (← Ty.ofCode f.ty)
  | 4 => do return .vminS (finOfCode f.vd) (finOfCode f.va) (Src.ofCode f.s) (finOfCode f.mask) (← Ty.ofCode f.ty)
  | 5 => do return .vmaxS (finOfCode f.vd) (finOfCode f.va) (Src.ofCode f.s) (finOfCode f.mask) (← Ty.ofCode f.ty)
  | 8 => do return .vfmaS (finOfCode f.vd) (finOfCode f.va) (Src.ofCode f.s) (finOfCode f.mask) (← Ty.ofCode f.ty)
  | _ => .error .unassignedFunction

/-- R65: major opcode 0x29, format VS. -/
def decodeOp29 (f : FormatVs) : Except DecodeError Instr :=
  match f.fn.toNat with
  | 0 => do return .vandS (finOfCode f.vd) (finOfCode f.va) (Src.ofCode f.s) (finOfCode f.mask) (← Ty.ofCode f.ty)
  | 1 => do return .vorS (finOfCode f.vd) (finOfCode f.va) (Src.ofCode f.s) (finOfCode f.mask) (← Ty.ofCode f.ty)
  | 2 => do return .vxorS (finOfCode f.vd) (finOfCode f.va) (Src.ofCode f.s) (finOfCode f.mask) (← Ty.ofCode f.ty)
  | 3 => do return .vshlS (finOfCode f.vd) (finOfCode f.va) (Src.ofCode f.s) (finOfCode f.mask) (← Ty.ofCode f.ty)
  | 4 => do return .vshrS (finOfCode f.vd) (finOfCode f.va) (Src.ofCode f.s) (finOfCode f.mask) (← Ty.ofCode f.ty)
  | 5 => do return .vsraS (finOfCode f.vd) (finOfCode f.va) (Src.ofCode f.s) (finOfCode f.mask) (← Ty.ofCode f.ty)
  | _ => .error .unassignedFunction

/-- R65: major opcode 0x2A, format VS. -/
def decodeOp2A (f : FormatVs) : Except DecodeError Instr :=
  match f.fn.toNat with
  | 0 => do fixed f.vd 0#4 .unusedField; fixed f.mask 0#3 .unusedField; fixed f.ty 0#4 .unusedField; return .vlen (finOfCode f.va) (← Dst.ofCode f.s)
  | 1 => do fixed f.vd 0#4 .unusedField; fixed f.mask 0#3 .unusedField; fixed f.ty 0#4 .unusedField; return .vruns (finOfCode f.va) (← Dst.ofCode f.s)
  | 2 => do fixed f.vd 0#4 .unusedField; fixed f.mask 0#3 .unusedField; fixed f.ty 0#4 .unusedField; return .mpop (← maskOfField f.va) (← Dst.ofCode f.s)
  | 3 => do fixed f.vd 0#4 .unusedField; fixed f.mask 0#3 .unusedField; fixed f.ty 0#4 .unusedField; return .mfirst (← maskOfField f.va) (← Dst.ofCode f.s)
  | _ => .error .unassignedFunction

/-- R65: major opcode 0x2B, format VS. -/
def decodeOp2B (f : FormatVs) : Except DecodeError Instr :=
  match f.fn.toNat with
  | 0 => do fixed f.va 0#4 .unusedField; return .vidx (finOfCode f.vd) (Src.ofCode f.s) (finOfCode f.mask) (← Ty.ofCode f.ty)
  | 1 => do return .vsplat (finOfCode f.vd) (finOfCode f.va) (Src.ofCode f.s) (finOfCode f.mask) (← Ty.ofCode f.ty)
  | 2 => do fixed f.va 0#4 .unusedField; fixed f.mask 0#3 .unusedField; fixed f.ty 0#4 .unusedField; return .vsetl (finOfCode f.vd) (Src.ofCode f.s)
  | _ => .error .unassignedFunction

/-- R65: major opcode 0x2C, format V. -/
def decodeOp2C (f : FormatV) : Except DecodeError Instr :=
  match f.fn.toNat with
  | 0 => do fixed f.vb 0#4 .unusedField; fixed f.mask 0#3 .unusedField; fixed f.ty 0#4 .unusedField; fixed f.res 0#1 .reservedBit; return .vilv2 (finOfCode f.vd) (finOfCode f.va) (boolOfCode f.c)
  | 1 => do fixed f.vb 0#4 .unusedField; fixed f.mask 0#3 .unusedField; fixed f.ty 0#4 .unusedField; fixed f.res 0#1 .reservedBit; return .vilv3 (finOfCode f.vd) (finOfCode f.va) (boolOfCode f.c)
  | 2 => do fixed f.vb 0#4 .unusedField; fixed f.mask 0#3 .unusedField; fixed f.ty 0#4 .unusedField; fixed f.res 0#1 .reservedBit; return .vilv4 (finOfCode f.vd) (finOfCode f.va) (boolOfCode f.c)
  | 3 => do fixed f.vb 0#4 .unusedField; fixed f.mask 0#3 .unusedField; fixed f.ty 0#4 .unusedField; fixed f.res 0#1 .reservedBit; return .vdilv2 (finOfCode f.vd) (finOfCode f.va) (boolOfCode f.c)
  | 4 => do fixed f.vb 0#4 .unusedField; fixed f.mask 0#3 .unusedField; fixed f.ty 0#4 .unusedField; fixed f.res 0#1 .reservedBit; return .vdilv3 (finOfCode f.vd) (finOfCode f.va) (boolOfCode f.c)
  | 5 => do fixed f.vb 0#4 .unusedField; fixed f.mask 0#3 .unusedField; fixed f.ty 0#4 .unusedField; fixed f.res 0#1 .reservedBit; return .vdilv4 (finOfCode f.vd) (finOfCode f.va) (boolOfCode f.c)
  | 6 => do fixed f.ty 0#4 .unusedField; fixed f.res 0#1 .reservedBit; return .vperm (finOfCode f.vd) (finOfCode f.va) (finOfCode f.vb) (finOfCode f.mask) (boolOfCode f.c)
  | 7 => do fixed f.vb 0#4 .unusedField; fixed f.ty 0#4 .unusedField; fixed f.res 0#1 .reservedBit; return .vrev (finOfCode f.vd) (finOfCode f.va) (finOfCode f.mask) (boolOfCode f.c)
  | 8 => do fixed f.vb 0#4 .unusedField; fixed f.mask 0#3 .unusedField; fixed f.res 0#1 .reservedBit; return .vsort (finOfCode f.vd) (finOfCode f.va) (← Ty.ofCode f.ty) (boolOfCode f.c)
  | 9 => do fixed f.vb 0#4 .unusedField; fixed f.mask 0#3 .unusedField; fixed f.res 0#1 .reservedBit; return .vtopk (finOfCode f.vd) (finOfCode f.va) (← Ty.ofCode f.ty) (boolOfCode f.c)
  | 10 => do fixed f.vb 0#4 .unusedField; fixed f.mask 0#3 .unusedField; fixed f.c 0#1 .unusedField; fixed f.res 0#1 .reservedBit; return .vtopkI (finOfCode f.vd) (finOfCode f.va) (← Ty.ofCode f.ty)
  | _ => .error .unassignedFunction

/-- R65: major opcode 0x2D, format V. -/
def decodeOp2D (f : FormatV) : Except DecodeError Instr :=
  match f.fn.toNat with
  | 0 => do fixed f.vb 0#4 .unusedField; fixed f.c 0#1 .unusedField; fixed f.res 0#1 .reservedBit; return .vredAdd (finOfCode f.vd) (finOfCode f.va) (finOfCode f.mask) (← Ty.ofCode f.ty)
  | 1 => do fixed f.vb 0#4 .unusedField; fixed f.c 0#1 .unusedField; fixed f.res 0#1 .reservedBit; return .vredMin (finOfCode f.vd) (finOfCode f.va) (finOfCode f.mask) (← Ty.ofCode f.ty)
  | 2 => do fixed f.vb 0#4 .unusedField; fixed f.c 0#1 .unusedField; fixed f.res 0#1 .reservedBit; return .vredMax (finOfCode f.vd) (finOfCode f.va) (finOfCode f.mask) (← Ty.ofCode f.ty)
  | 3 => do fixed f.vb 0#4 .unusedField; fixed f.c 0#1 .unusedField; fixed f.res 0#1 .reservedBit; return .vredAnd (finOfCode f.vd) (finOfCode f.va) (finOfCode f.mask) (← Ty.ofCode f.ty)
  | 4 => do fixed f.vb 0#4 .unusedField; fixed f.c 0#1 .unusedField; fixed f.res 0#1 .reservedBit; return .vredOr (finOfCode f.vd) (finOfCode f.va) (finOfCode f.mask) (← Ty.ofCode f.ty)
  | 5 => do fixed f.vb 0#4 .unusedField; fixed f.c 0#1 .unusedField; fixed f.res 0#1 .reservedBit; return .vredXor (finOfCode f.vd) (finOfCode f.va) (finOfCode f.mask) (← Ty.ofCode f.ty)
  | 8 => do fixed f.vb 0#4 .unusedField; fixed f.res 0#1 .reservedBit; return .vscanAdd (finOfCode f.vd) (finOfCode f.va) (finOfCode f.mask) (← Ty.ofCode f.ty) (boolOfCode f.c)
  | 9 => do fixed f.vb 0#4 .unusedField; fixed f.res 0#1 .reservedBit; return .vscanMin (finOfCode f.vd) (finOfCode f.va) (finOfCode f.mask) (← Ty.ofCode f.ty) (boolOfCode f.c)
  | 10 => do fixed f.vb 0#4 .unusedField; fixed f.res 0#1 .reservedBit; return .vscanMax (finOfCode f.vd) (finOfCode f.va) (finOfCode f.mask) (← Ty.ofCode f.ty) (boolOfCode f.c)
  | 11 => do fixed f.vb 0#4 .unusedField; fixed f.res 0#1 .reservedBit; return .vscanAnd (finOfCode f.vd) (finOfCode f.va) (finOfCode f.mask) (← Ty.ofCode f.ty) (boolOfCode f.c)
  | 12 => do fixed f.vb 0#4 .unusedField; fixed f.res 0#1 .reservedBit; return .vscanOr (finOfCode f.vd) (finOfCode f.va) (finOfCode f.mask) (← Ty.ofCode f.ty) (boolOfCode f.c)
  | 13 => do fixed f.vb 0#4 .unusedField; fixed f.res 0#1 .reservedBit; return .vscanXor (finOfCode f.vd) (finOfCode f.va) (finOfCode f.mask) (← Ty.ofCode f.ty) (boolOfCode f.c)
  | _ => .error .unassignedFunction

/-- R65: major opcode 0x2E, format VS. -/
def decodeOp2E (f : FormatVs) : Except DecodeError Instr :=
  match f.mask.toNat with
  | 0 => do fixed f.ty 0#4 .unusedField; return .shflIdx (finOfCode f.vd) (finOfCode f.va) (Src.ofCode f.s) (finOfCode f.fn)
  | 1 => do fixed f.ty 0#4 .unusedField; return .shflUp (finOfCode f.vd) (finOfCode f.va) (Src.ofCode f.s) (finOfCode f.fn)
  | 2 => do fixed f.ty 0#4 .unusedField; return .shflDown (finOfCode f.vd) (finOfCode f.va) (Src.ofCode f.s) (finOfCode f.fn)
  | 3 => do fixed f.ty 0#4 .unusedField; return .shflXor (finOfCode f.vd) (finOfCode f.va) (Src.ofCode f.s) (finOfCode f.fn)
  | _ => .error .unassignedFunction

/-- R65: major opcode 0x2F, format VS. -/
def decodeOp2F (f : FormatVs) : Except DecodeError Instr :=
  match f.fn.toNat with
  | 0 => do fixed (f.vd.extractLsb' 3 1) 0#1 .unusedField; fixed f.mask 0#3 .unusedField; fixed f.ty 0#4 .unusedField; return .voteAny (finOfCode (f.vd.extractLsb' 0 3)) (boolOfCode (f.va.extractLsb' 3 1)) (finOfCode (f.va.extractLsb' 0 3)) (Src.ofCode f.s)
  | 1 => do fixed (f.vd.extractLsb' 3 1) 0#1 .unusedField; fixed f.mask 0#3 .unusedField; fixed f.ty 0#4 .unusedField; return .voteAll (finOfCode (f.vd.extractLsb' 0 3)) (boolOfCode (f.va.extractLsb' 3 1)) (finOfCode (f.va.extractLsb' 0 3)) (Src.ofCode f.s)
  | 2 => do fixed f.mask 0#3 .unusedField; fixed f.ty 0#4 .unusedField; return .voteBallot (← maskOfField f.vd) (boolOfCode (f.va.extractLsb' 3 1)) (finOfCode (f.va.extractLsb' 0 3)) (Src.ofCode f.s)
  | 4 => do fixed f.mask 0#3 .unusedField; return .xredAdd (finOfCode f.vd) (finOfCode f.va) (Src.ofCode f.s) (← Ty.ofCode f.ty)
  | 5 => do fixed f.mask 0#3 .unusedField; return .xredMin (finOfCode f.vd) (finOfCode f.va) (Src.ofCode f.s) (← Ty.ofCode f.ty)
  | 6 => do fixed f.mask 0#3 .unusedField; return .xredMax (finOfCode f.vd) (finOfCode f.va) (Src.ofCode f.s) (← Ty.ofCode f.ty)
  | 7 => do fixed f.mask 0#3 .unusedField; return .xredAnd (finOfCode f.vd) (finOfCode f.va) (Src.ofCode f.s) (← Ty.ofCode f.ty)
  | 8 => do fixed f.mask 0#3 .unusedField; return .xredOr (finOfCode f.vd) (finOfCode f.va) (Src.ofCode f.s) (← Ty.ofCode f.ty)
  | 9 => do fixed f.mask 0#3 .unusedField; return .xredXor (finOfCode f.vd) (finOfCode f.va) (Src.ofCode f.s) (← Ty.ofCode f.ty)
  | 12 => do fixed f.ty 0#4 .unusedField; return .vslideUp (finOfCode f.vd) (finOfCode f.va) (Src.ofCode f.s) (finOfCode f.mask)
  | 13 => do fixed f.ty 0#4 .unusedField; return .vslideDown (finOfCode f.vd) (finOfCode f.va) (Src.ofCode f.s) (finOfCode f.mask)
  | 14 => do fixed f.vd 0#4 .unusedField; fixed f.mask 0#3 .unusedField; fixed f.ty 0#4 .unusedField; return .vext (finOfCode f.va) (Src.ofCode f.s)
  | 15 => do fixed f.mask 0#3 .unusedField; fixed f.ty 0#4 .unusedField; return .vins (finOfCode f.vd) (finOfCode f.va) (Src.ofCode f.s)
  | 16 => do fixed (f.vd.extractLsb' 2 2) 0#2 .unusedField; fixed f.va 0#4 .unusedField; fixed f.mask 0#3 .unusedField; fixed f.ty 0#4 .unusedField; return .qbind (finOfCode (f.vd.extractLsb' 0 2)) (Src.ofCode f.s)
  | 17 => do fixed (f.vd.extractLsb' 2 2) 0#2 .unusedField; fixed f.va 0#4 .unusedField; fixed f.s 0#6 .unusedField; fixed f.mask 0#3 .unusedField; fixed f.ty 0#4 .unusedField; return .qfree (finOfCode (f.vd.extractLsb' 0 2))
  | _ => .error .unassignedFunction

/-- R65: major opcode 0x30, format Ms. -/
def decodeOp30 (f : FormatMs) : Except DecodeError Instr :=
  do fixed f.fn 0#2 .unusedField; return .ld (← Dst.ofCode f.d) (Src.ofCode f.base) (← Ty.ofCode f.ty) f.off

/-- R65: major opcode 0x31, format Ms. -/
def decodeOp31 (f : FormatMs) : Except DecodeError Instr :=
  do fixed f.fn 0#2 .unusedField; return .st (Src.ofCode f.d) (Src.ofCode f.base) (← Ty.ofCode f.ty) f.off

/-- R65: major opcode 0x32, format Mv. -/
def decodeOp32 (f : FormatMv) : Except DecodeError Instr :=
  match f.fn.toNat with
  | 0 => do return .vld (finOfCode f.vd) (finOfCode f.mask) (Src.ofCode f.base) (← Ty.ofCode f.ty) f.x
  | 1 => do return .vldg (finOfCode f.vd) (finOfCode f.mask) (Src.ofCode f.base) (← Ty.ofCode f.ty) (finOfCode (f.x.extractLsb' 3 4)) (finOfCode (f.x.extractLsb' 0 3))
  | _ => .error .unassignedFunction

/-- R65: major opcode 0x33, format Mv. -/
def decodeOp33 (f : FormatMv) : Except DecodeError Instr :=
  match f.fn.toNat with
  | 0 => do return .vst (finOfCode f.vd) (finOfCode f.mask) (Src.ofCode f.base) (← Ty.ofCode f.ty) f.x
  | 1 => do return .vstg (finOfCode f.vd) (finOfCode f.mask) (Src.ofCode f.base) (← Ty.ofCode f.ty) (finOfCode (f.x.extractLsb' 3 4)) (finOfCode (f.x.extractLsb' 0 3))
  | _ => .error .unassignedFunction

/-- R65: major opcode 0x34, format Mv. -/
def decodeOp34 (f : FormatMv) : Except DecodeError Instr :=
  match f.fn.toNat with
  | 0 => do fixed (f.x.extractLsb' 0 5) 0#5 .unusedField; return .ldq (finOfCode f.vd) (finOfCode f.mask) (Src.ofCode f.base) (← Ty.ofCode f.ty) (← SxFmt.ofBlockCode (f.x.extractLsb' 5 2))
  | 1 => do fixed f.mask 0#3 .unusedField; return .stq (finOfCode f.vd) (Src.ofCode f.base) (← Ty.ofCode f.ty) (← SxFmt.ofBlockCode (f.x.extractLsb' 5 2)) (boolOfCode (f.x.extractLsb' 4 1)) (finOfCode (f.x.extractLsb' 0 4))
  | _ => .error .unassignedFunction

/-- R65: major opcode 0x35, format Ms. -/
def decodeOp35 (f : FormatMs) : Except DecodeError Instr :=
  match f.fn.toNat with
  | 0 => do return .ldt (← Dst.ofCode f.d) (Src.ofCode f.base) (← Ty.ofCode f.ty) f.off
  | 1 => do fixed f.d 0#6 .unusedField; fixed f.ty 0#4 .unusedField; return .pref (Src.ofCode f.base) f.off
  | 2 => do fixed f.d 0#6 .unusedField; fixed f.base 0#6 .unusedField; fixed f.ty 0#4 .unusedField; fixed f.off 0#8 .unusedField; return .pfence
  | 3 => do fixed f.d 0#6 .unusedField; fixed f.base 0#6 .unusedField; fixed f.ty 0#4 .unusedField; fixed f.off 0#8 .unusedField; return .pfenceDie
  | _ => .error .unassignedFunction

/-- R65: major opcode 0x36, format S. -/
def decodeOp36 (f : FormatS) : Except DecodeError Instr :=
  match f.fn.toNat with
  | 0 => do fixed f.dst 0#6 .unusedField; fixed f.ty 0#4 .unusedField; return .spawn (Src.ofCode f.a) (Src.ofCode f.b)
  | 1 => do fixed f.dst 0#6 .unusedField; fixed f.a 0#6 .unusedField; fixed f.b 0#6 .unusedField; fixed f.ty 0#4 .unusedField; return .await
  | 2 => do fixed f.dst 0#6 .unusedField; fixed f.a 0#6 .unusedField; fixed f.b 0#6 .unusedField; fixed f.ty 0#4 .unusedField; return .awaitStay
  | _ => .error .unassignedFunction

/-- R65: major opcode 0x37, format S. -/
def decodeOp37 (f : FormatS) : Except DecodeError Instr :=
  match f.fn.toNat with
  | 0 => do return .atomAdd (← Dst.ofCode f.dst) (Src.ofCode f.a) (Src.ofCode f.b) (← Ty.ofCode f.ty)
  | 1 => do return .atomMin (← Dst.ofCode f.dst) (Src.ofCode f.a) (Src.ofCode f.b) (← Ty.ofCode f.ty)
  | 2 => do return .atomMax (← Dst.ofCode f.dst) (Src.ofCode f.a) (Src.ofCode f.b) (← Ty.ofCode f.ty)
  | 3 => do return .atomAnd (← Dst.ofCode f.dst) (Src.ofCode f.a) (Src.ofCode f.b) (← Ty.ofCode f.ty)
  | 4 => do return .atomOr (← Dst.ofCode f.dst) (Src.ofCode f.a) (Src.ofCode f.b) (← Ty.ofCode f.ty)
  | 5 => do return .atomXor (← Dst.ofCode f.dst) (Src.ofCode f.a) (Src.ofCode f.b) (← Ty.ofCode f.ty)
  | 6 => do return .atomExch (← Dst.ofCode f.dst) (Src.ofCode f.a) (Src.ofCode f.b) (← Ty.ofCode f.ty)
  | 7 => do return .atomCas (← Dst.ofCode f.dst) (Src.ofCode f.a) (Src.ofCode f.b) (← Ty.ofCode f.ty)
  | 8 => do fixed f.dst 0#6 .unusedField; return .aredAdd (Src.ofCode f.a) (Src.ofCode f.b) (← Ty.ofCode f.ty)
  | 9 => do fixed f.dst 0#6 .unusedField; return .aredMin (Src.ofCode f.a) (Src.ofCode f.b) (← Ty.ofCode f.ty)
  | 10 => do fixed f.dst 0#6 .unusedField; return .aredMax (Src.ofCode f.a) (Src.ofCode f.b) (← Ty.ofCode f.ty)
  | 11 => do fixed f.dst 0#6 .unusedField; return .aredAnd (Src.ofCode f.a) (Src.ofCode f.b) (← Ty.ofCode f.ty)
  | 12 => do fixed f.dst 0#6 .unusedField; return .aredOr (Src.ofCode f.a) (Src.ofCode f.b) (← Ty.ofCode f.ty)
  | 13 => do fixed f.b 0#6 .unusedField; fixed f.ty 0#4 .unusedField; return .atomwLd (← Dst.ofCode f.dst) (Src.ofCode f.a)
  | 14 => do fixed f.ty 0#4 .unusedField; return .atomwExch (← Dst.ofCode f.dst) (Src.ofCode f.a) (Src.ofCode f.b)
  | 15 => do fixed f.ty 0#4 .unusedField; return .atomwCas (← Dst.ofCode f.dst) (Src.ofCode f.a) (Src.ofCode f.b)
  | _ => .error .unassignedFunction

/-- R65: major opcode 0x38, format S. -/
def decodeOp38 (f : FormatS) : Except DecodeError Instr :=
  if f.fn.extractLsb' 3 1 = 0#1 then do fixed f.ty 0#4 .unusedField; return .elect (← Dst.ofCode f.dst) (Src.ofCode f.a) (Src.ofCode f.b) (finOfCode (f.fn.extractLsb' 0 3))
  else if f.fn = 8#4 then do fixed f.dst 0#6 .unusedField; fixed (f.b.extractLsb' 4 2) 3#2 .badField; fixed f.ty 0#4 .unusedField; return .kst (Src.ofCode f.a) (finOfCode (f.b.extractLsb' 0 4))
  else .error .unassignedFunction

/-- R65: major opcode 0x39, format X. -/
def decodeOp39 (f : FormatX) : Except DecodeError Instr :=
  match f.fn.toNat with
  | 0 => do fixed f.b 0#6 .unusedField; fixed f.c 0#6 .unusedField; fixed f.g 0#5 .unusedField; return .bar (finOfCode f.a)
  | 1 => do fixed f.b 0#6 .unusedField; fixed f.c 0#6 .unusedField; fixed f.g 0#5 .unusedField; return .barm (Src.ofCode f.a)
  | 2 => do fixed f.c 0#6 .unusedField; fixed f.g 0#5 .unusedField; return .swinit (Src.ofCode f.a) (Src.ofCode f.b)
  | 3 => do fixed f.c 0#6 .unusedField; fixed f.g 0#5 .unusedField; return .swadd (Src.ofCode f.a) (Src.ofCode f.b)
  | 4 => do fixed f.g 0#5 .unusedField; return .swwait (Src.ofCode f.a) (Src.ofCode f.b) (← Dst.ofCode f.c)
  | _ => .error .unassignedFunction

/-- R65: major opcode 0x3A, format X. -/
def decodeOp3A (f : FormatX) : Except DecodeError Instr :=
  match f.fn.toNat with
  | 0 => do fixed f.c 0#6 .unusedField; return .kick (Src.ofCode f.a) (Src.ofCode f.b) (← guardOfCode f.g)
  | 1 => do fixed f.g 0#5 .unusedField; return .wait (finOfCode f.a) (finOfCode f.b) (finOfCode f.c)
  | 2 => do fixed f.c 0#6 .unusedField; fixed f.g 0#5 .unusedField; return .waitMxRy (finOfCode f.a) (finOfCode f.b)
  | 3 => do fixed f.c 0#6 .unusedField; fixed f.g 0#5 .unusedField; return .gset (finOfCode f.a) (Src.ofCode f.b)
  | 4 => do fixed f.b 0#6 .unusedField; fixed f.c 0#6 .unusedField; fixed f.g 0#5 .unusedField; return .gsetOpen (finOfCode f.a)
  | _ => .error .unassignedFunction

/-- R65: major opcode 0x3B, format X. -/
def decodeOp3B (f : FormatX) : Except DecodeError Instr :=
  match f.fn.toNat with
  | 0 => do return .mma (Src.ofCode f.a) (Src.ofCode f.b) (Src.ofCode f.c) (← guardOfCode f.g)
  | 1 => do fixed f.b 0#6 .unusedField; fixed f.c 0#6 .unusedField; return .mzero (Src.ofCode f.a) (← guardOfCode f.g)
  | 2 => do return .mld (Src.ofCode f.a) (Src.ofCode f.b) (Src.ofCode f.c) (← guardOfCode f.g)
  | 3 => do return .mst (Src.ofCode f.a) (Src.ofCode f.b) (Src.ofCode f.c) (← guardOfCode f.g)
  | 4 => do return .mqnt (Src.ofCode f.a) (Src.ofCode f.b) (Src.ofCode f.c) (← guardOfCode f.g)
  | 5 => do fixed f.c 0#6 .unusedField; return .mew (Src.ofCode f.a) (Src.ofCode f.b) (← guardOfCode f.g)
  | 6 => do fixed f.a 0#6 .unusedField; fixed f.b 0#6 .unusedField; fixed f.c 0#6 .unusedField; fixed f.g 0#5 .unusedField; return .mrdy
  | 7 => do fixed f.b 0#6 .unusedField; fixed f.c 0#6 .unusedField; fixed f.g 0#5 .unusedField; return .mwait (Src.ofCode f.a)
  | _ => .error .unassignedFunction

noncomputable section

/-- R65: major opcode 0x3C, format X. -/
def decodeOp3C (f : FormatX) : Except DecodeError Instr :=
  match f.fn.toNat with
  | 0 =>
    match f.c.toNat with
    | 0 => do fixed f.g 0#5 .unusedField; return .trace (Src.ofCode f.a) (Src.ofCode f.b)
    | 1 => do fixed f.g 0#5 .unusedField; return .traceR (Src.ofCode f.a) (Src.ofCode f.b)
    | _ => .error .unusedField
  | 1 =>
    match f.c.toNat with
    | 0 => do fixed f.g 0#5 .unusedField; return .tracea (Src.ofCode f.a) (Src.ofCode f.b)
    | 1 => do fixed f.g 0#5 .unusedField; return .traceaR (Src.ofCode f.a) (Src.ofCode f.b)
    | _ => .error .unusedField
  | 2 => do fixed f.g 0#5 .unusedField; return .hitld (← Dst.ofCode f.a) (Src.ofCode f.b) (finOfCode f.c)
  | 3 => do fixed f.g 0#5 .unusedField; return .lwalk (← Dst.ofCode f.a) (Src.ofCode f.b) (Src.ofCode f.c)
  | 4 => do fixed f.g 0#5 .unusedField; return .tex (Src.ofCode f.a) (Src.ofCode f.b) (Src.ofCode f.c)
  | 5 => do fixed f.g 0#5 .unusedField; return .texq (← Dst.ofCode f.a) (Src.ofCode f.b) (Src.ofCode f.c)
  | _ => .error .unassignedFunction

/-- R65: major opcode 0x3D, format S. -/
def decodeOp3D (f : FormatS) : Except DecodeError Instr :=
  match f.fn.toNat with
  | 0 => do fixed f.dst 0#6 .unusedField; fixed f.ty 0#4 .unusedField; return .rngkey (Src.ofCode f.a) (Src.ofCode f.b)
  | 1 => do fixed f.dst 0#6 .unusedField; fixed f.ty 0#4 .unusedField; return .rngset (Src.ofCode f.a) (Src.ofCode f.b)
  | 2 => do fixed f.a 0#6 .unusedField; fixed f.b 0#6 .unusedField; fixed f.ty 0#4 .unusedField; return .rng (← Dst.ofCode f.dst)
  | 3 => do fixed (f.dst.extractLsb' 4 2) 0#2 .unusedField; fixed f.b 0#6 .unusedField; fixed f.ty 0#4 .unusedField; return .rngV (finOfCode (f.dst.extractLsb' 0 4)) (Src.ofCode f.a)
  | 4 => do fixed f.b 0#6 .unusedField; fixed f.ty 0#4 .unusedField; return .rsinit (← Dst.ofCode f.dst) (Src.ofCode f.a)
  | 5 => do fixed f.ty 0#4 .unusedField; return .rsadd (← Dst.ofCode f.dst) (Src.ofCode f.a) (Src.ofCode f.b)
  | 6 => do fixed f.ty 0#4 .unusedField; return .rsmerge (← Dst.ofCode f.dst) (Src.ofCode f.a) (Src.ofCode f.b)
  | 7 => do fixed f.a 0#6 .unusedField; fixed f.b 0#6 .unusedField; fixed f.ty 0#4 .unusedField; return .rsnorm (← Dst.ofCode f.dst)
  | 8 => do fixed f.b 0#6 .unusedField; fixed f.ty 0#4 .unusedField; return .rsld (← Dst.ofCode f.dst) (Src.ofCode f.a)
  | 9 => do fixed f.dst 0#6 .unusedField; fixed f.ty 0#4 .unusedField; return .rsst (Src.ofCode f.a) (Src.ofCode f.b)
  | 10 => do fixed f.dst 0#6 .unusedField; fixed f.b 0#6 .unusedField; fixed f.ty 0#4 .unusedField; return .reuse (Src.ofCode f.a)
  | 11 => do fixed f.ty 0#4 .unusedField; return .tcall (← Dst.ofCode f.dst) (Src.ofCode f.a) (Src.ofCode f.b)
  | 12 => do fixed f.dst 0#6 .unusedField; fixed f.b 0#6 .unusedField; fixed f.ty 0#4 .unusedField; return .tret (Src.ofCode f.a)
  | _ => .error .unassignedFunction

/-- R65: major opcode 0x3E, format S. -/
def decodeOp3E (f : FormatS) : Except DecodeError Instr :=
  match f.fn.toNat with
  | 0 => do fixed f.b 0#6 .unusedField; fixed f.ty 0#4 .unusedField; return .launch (← Dst.ofCode f.dst) (Src.ofCode f.a)
  | 1 => do fixed f.dst 0#6 .unusedField; fixed f.ty 0#4 .unusedField; return .shape (Src.ofCode f.a) (Src.ofCode f.b)
  | 2 => do fixed f.ty 0#4 .unusedField; return .xalloc (← Dst.ofCode f.dst) (Src.ofCode f.a) (Src.ofCode f.b)
  | 3 => do fixed f.dst 0#6 .unusedField; fixed f.b 0#6 .unusedField; fixed f.ty 0#4 .unusedField; return .xfree (Src.ofCode f.a)
  | 4 =>
    match f.ty.toNat with
    | 0 => do fixed f.b 0#6 .unusedField; return .trapRd (← Dst.ofCode f.dst) (finOfCode f.a)
    | 1 => do fixed f.dst 0#6 .unusedField; return .trapWr (finOfCode f.a) (Src.ofCode f.b)
    | 2 => do fixed f.dst 0#6 .unusedField; fixed f.a 0#6 .unusedField; fixed f.b 0#6 .unusedField; return .trapRet
    | _ => .error .reservedType
  | 5 => do fixed f.ty 0#4 .unusedField; return .sys (← Dst.ofCode f.dst) (Src.ofCode f.a) (Src.ofCode f.b)
  | 6 => do fixed f.dst 0#6 .unusedField; fixed f.b 0#6 .unusedField; fixed f.ty 0#4 .unusedField; return .brk (finOfCode f.a)
  | 7 => do fixed f.dst 0#6 .unusedField; fixed f.ty 0#4 .unusedField; return .pinval (Src.ofCode f.a) (Src.ofCode f.b)
  | 8 => do fixed f.dst 0#6 .unusedField; fixed f.ty 0#4 .unusedField; return .metaz (Src.ofCode f.a) (Src.ofCode f.b)
  | 9 => do fixed f.dst 0#6 .unusedField; fixed f.ty 0#4 .unusedField; return .decomp (Src.ofCode f.a) (Src.ofCode f.b)
  | 10 => do fixed f.b 0#6 .unusedField; fixed f.ty 0#4 .unusedField; return .pquery (← Dst.ofCode f.dst) (Src.ofCode f.a)
  | 11 => do fixed f.dst 0#6 .unusedField; fixed f.b 0#6 .unusedField; fixed f.ty 0#4 .unusedField; return .bxsum (Src.ofCode f.a)
  | 12 =>
    match f.ty.toNat with
    | 0 => do fixed f.dst 0#6 .unusedField; return .markOpen (Src.ofCode f.a) (Src.ofCode f.b)
    | 1 => do fixed f.dst 0#6 .unusedField; fixed f.a 0#6 .unusedField; fixed f.b 0#6 .unusedField; return .markClose
    | 2 => do fixed f.dst 0#6 .unusedField; fixed f.b 0#6 .unusedField; return .markTrace (Src.ofCode f.a)
    | _ => .error .reservedType
  | _ => .error .unassignedFunction

/-- R65: major opcode 0x3F, format H. -/
def decodeOp3F (f : FormatH) : Except DecodeError Instr :=
  match f.kind.toNat with
  | 0 => .ok (.wideImmediateHint f.payload)
  | 1 => do fixed (f.payload.extractLsb' 0 14) 0#14 .reservedBit; return .repeatPrefix (finOfCode (f.payload.extractLsb' 18 6)) (boolOfCode (f.payload.extractLsb' 17 1)) (boolOfCode (f.payload.extractLsb' 16 1)) (boolOfCode (f.payload.extractLsb' 15 1)) (boolOfCode (f.payload.extractLsb' 14 1))
  | 2 =>
    match f.payload.toNat with
    | 0 => .ok .hintNone
    | 1 => .ok .hintYield
    | 2 => .ok .hintJoin
    | 3 => .ok .hintLong
    | _ => .error .badHintPayload
  | _ => do fixed (f.payload.extractLsb' 0 18) 0#18 .reservedBit; return .rareModifierHint (boolOfCode (f.payload.extractLsb' 23 1)) (Rnd.ofCode (f.payload.extractLsb' 21 2)) (boolOfCode (f.payload.extractLsb' 20 1)) (CachePolicy.ofCode (f.payload.extractLsb' 18 2))

/-- R51, R65: the instruction or hint that a word encodes. Every other word is rejected by name (R73). -/
def decode (w : InsnWord) : Except DecodeError Instr :=
  match (opcodeOf w).toNat with
  | 0x01 => decodeOp01 (FormatS.read w)
  | 0x02 => decodeOp02 (FormatS.read w)
  | 0x03 => decodeOp03 (FormatS.read w)
  | 0x04 => decodeOp04 (FormatS.read w)
  | 0x05 => decodeOp05 (FormatS.read w)
  | 0x06 => decodeOp06 (FormatS.read w)
  | 0x07 => decodeOp07 (FormatS.read w)
  | 0x08 => decodeOp08 (FormatI.read w)
  | 0x09 => decodeOp09 (FormatI.read w)
  | 0x0A => decodeOp0A (FormatI.read w)
  | 0x0B => decodeOp0B (FormatI.read w)
  | 0x0C => decodeOp0C (FormatI.read w)
  | 0x0D => decodeOp0D (FormatI.read w)
  | 0x0E => decodeOp0E (FormatI.read w)
  | 0x0F => decodeOp0F (FormatI.read w)
  | 0x10 => decodeOp10 (FormatS.read w)
  | 0x11 => decodeOp11 (FormatS.read w)
  | 0x12 => decodeOp12 (FormatS.read w)
  | 0x13 => decodeOp13 (FormatS.read w)
  | 0x14 => decodeOp14 (FormatT.read w)
  | 0x18 => decodeOp18 (FormatB.read w)
  | 0x19 => decodeOp19 (FormatB.read w)
  | 0x1A => decodeOp1A (FormatB.read w)
  | 0x1C => decodeOp1C (FormatS.read w)
  | 0x1D => decodeOp1D (FormatS.read w)
  | 0x1E => decodeOp1E (FormatS.read w)
  | 0x1F => decodeOp1F (FormatS.read w)
  | 0x20 => decodeOp20 (FormatV.read w)
  | 0x21 => decodeOp21 (FormatV.read w)
  | 0x22 => decodeOp22 (FormatV.read w)
  | 0x23 => decodeOp23 (FormatV.read w)
  | 0x24 => decodeOp24 (FormatV.read w)
  | 0x25 => decodeOp25 (FormatV.read w)
  | 0x26 => decodeOp26 (FormatV.read w)
  | 0x27 => decodeOp27 (FormatV.read w)
  | 0x28 => decodeOp28 (FormatVs.read w)
  | 0x29 => decodeOp29 (FormatVs.read w)
  | 0x2A => decodeOp2A (FormatVs.read w)
  | 0x2B => decodeOp2B (FormatVs.read w)
  | 0x2C => decodeOp2C (FormatV.read w)
  | 0x2D => decodeOp2D (FormatV.read w)
  | 0x2E => decodeOp2E (FormatVs.read w)
  | 0x2F => decodeOp2F (FormatVs.read w)
  | 0x30 => decodeOp30 (FormatMs.read w)
  | 0x31 => decodeOp31 (FormatMs.read w)
  | 0x32 => decodeOp32 (FormatMv.read w)
  | 0x33 => decodeOp33 (FormatMv.read w)
  | 0x34 => decodeOp34 (FormatMv.read w)
  | 0x35 => decodeOp35 (FormatMs.read w)
  | 0x36 => decodeOp36 (FormatS.read w)
  | 0x37 => decodeOp37 (FormatS.read w)
  | 0x38 => decodeOp38 (FormatS.read w)
  | 0x39 => decodeOp39 (FormatX.read w)
  | 0x3A => decodeOp3A (FormatX.read w)
  | 0x3B => decodeOp3B (FormatX.read w)
  | 0x3C => decodeOp3C (FormatX.read w)
  | 0x3D => decodeOp3D (FormatS.read w)
  | 0x3E => decodeOp3E (FormatS.read w)
  | 0x3F => decodeOp3F (FormatH.read w)
  | _ => .error .unassignedOpcode

/-- R56-R63, R67: the word of an instruction or hint; none for a step of the device, which has no encoding. -/
def encode : Instr → Option InsnWord
  | .add d a b t => some (FormatWord.s 1#6 ⟨Dst.code d, Src.code a, Src.code b, 0#4, Ty.code t⟩)
  | .sub d a b t => some (FormatWord.s 1#6 ⟨Dst.code d, Src.code a, Src.code b, 1#4, Ty.code t⟩)
  | .mul d a b t => some (FormatWord.s 1#6 ⟨Dst.code d, Src.code a, Src.code b, 2#4, Ty.code t⟩)
  | .mulh d a b t => some (FormatWord.s 1#6 ⟨Dst.code d, Src.code a, Src.code b, 3#4, Ty.code t⟩)
  | .div d a b t => some (FormatWord.s 1#6 ⟨Dst.code d, Src.code a, Src.code b, 4#4, Ty.code t⟩)
  | .rem d a b t => some (FormatWord.s 1#6 ⟨Dst.code d, Src.code a, Src.code b, 5#4, Ty.code t⟩)
  | .min d a b t => some (FormatWord.s 1#6 ⟨Dst.code d, Src.code a, Src.code b, 6#4, Ty.code t⟩)
  | .max d a b t => some (FormatWord.s 1#6 ⟨Dst.code d, Src.code a, Src.code b, 7#4, Ty.code t⟩)
  | .neg d a t => some (FormatWord.s 1#6 ⟨Dst.code d, Src.code a, 0#6, 8#4, Ty.code t⟩)
  | .abs d a t => some (FormatWord.s 1#6 ⟨Dst.code d, Src.code a, 0#6, 9#4, Ty.code t⟩)
  | .and d a b t => some (FormatWord.s 2#6 ⟨Dst.code d, Src.code a, Src.code b, 0#4, Ty.code t⟩)
  | .or d a b t => some (FormatWord.s 2#6 ⟨Dst.code d, Src.code a, Src.code b, 1#4, Ty.code t⟩)
  | .xor d a b t => some (FormatWord.s 2#6 ⟨Dst.code d, Src.code a, Src.code b, 2#4, Ty.code t⟩)
  | .not d a t => some (FormatWord.s 2#6 ⟨Dst.code d, Src.code a, 0#6, 3#4, Ty.code t⟩)
  | .shl d a b t => some (FormatWord.s 2#6 ⟨Dst.code d, Src.code a, Src.code b, 4#4, Ty.code t⟩)
  | .shr d a b t => some (FormatWord.s 2#6 ⟨Dst.code d, Src.code a, Src.code b, 5#4, Ty.code t⟩)
  | .sra d a b t => some (FormatWord.s 2#6 ⟨Dst.code d, Src.code a, Src.code b, 6#4, Ty.code t⟩)
  | .ror d a b t => some (FormatWord.s 2#6 ⟨Dst.code d, Src.code a, Src.code b, 7#4, Ty.code t⟩)
  | .pcnt d a t => some (FormatWord.s 2#6 ⟨Dst.code d, Src.code a, 0#6, 8#4, Ty.code t⟩)
  | .clz d a t => some (FormatWord.s 2#6 ⟨Dst.code d, Src.code a, 0#6, 9#4, Ty.code t⟩)
  | .ctz d a t => some (FormatWord.s 2#6 ⟨Dst.code d, Src.code a, 0#6, 10#4, Ty.code t⟩)
  | .brev d a t => some (FormatWord.s 2#6 ⟨Dst.code d, Src.code a, 0#6, 11#4, Ty.code t⟩)
  | .mad d a b t => some (FormatWord.s 3#6 ⟨Dst.code d, Src.code a, Src.code b, 0#4, Ty.code t⟩)
  | .bfx d a b t => some (FormatWord.s 3#6 ⟨Dst.code d, Src.code a, Src.code b, 1#4, Ty.code t⟩)
  | .bfi d a b t => some (FormatWord.s 3#6 ⟨Dst.code d, Src.code a, Src.code b, 2#4, Ty.code t⟩)
  | .mov d a t => some (FormatWord.s 3#6 ⟨Dst.code d, Src.code a, 0#6, 3#4, Ty.code t⟩)
  | .lea d a b sh => some (FormatWord.s 4#6 ⟨Dst.code d, Src.code a, Src.code b, (finCode (w := 4) sh), 3#4⟩)
  | .sel d a b neg p t => some (FormatWord.s 5#6 ⟨Dst.code d, Src.code a, Src.code b, ((boolCode neg) ++ (finCode (w := 3) p)), Ty.code t⟩)
  | .setpEq a b p t => some (FormatWord.s 6#6 ⟨0#6, Src.code a, Src.code b, (0#1 ++ (finCode (w := 3) p)), Ty.code t⟩)
  | .setpLt a b p t => some (FormatWord.s 6#6 ⟨0#6, Src.code a, Src.code b, (1#1 ++ (finCode (w := 3) p)), Ty.code t⟩)
  | .setpLe a b p t => some (FormatWord.s 7#6 ⟨0#6, Src.code a, Src.code b, (0#1 ++ (finCode (w := 3) p)), Ty.code t⟩)
  | .setpNe a b p t => some (FormatWord.s 7#6 ⟨0#6, Src.code a, Src.code b, (1#1 ++ (finCode (w := 3) p)), Ty.code t⟩)
  | .addImm d a imm => some (FormatWord.i 8#6 ⟨Dst.code d, Src.code a, imm⟩)
  | .andImm d a imm => some (FormatWord.i 9#6 ⟨Dst.code d, Src.code a, imm⟩)
  | .orImm d a imm => some (FormatWord.i 10#6 ⟨Dst.code d, Src.code a, imm⟩)
  | .xorImm d a imm => some (FormatWord.i 11#6 ⟨Dst.code d, Src.code a, imm⟩)
  | .shlImm d a imm => some (FormatWord.i 12#6 ⟨Dst.code d, Src.code a, imm⟩)
  | .shrImm d a imm => some (FormatWord.i 13#6 ⟨Dst.code d, Src.code a, imm⟩)
  | .sraImm d a imm => some (FormatWord.i 14#6 ⟨Dst.code d, Src.code a, imm⟩)
  | .movImm d imm => some (FormatWord.i 15#6 ⟨Dst.code d, 0#6, imm⟩)
  | .fadd d a b t => some (FormatWord.s 16#6 ⟨Dst.code d, Src.code a, Src.code b, 0#4, Ty.code t⟩)
  | .fsub d a b t => some (FormatWord.s 16#6 ⟨Dst.code d, Src.code a, Src.code b, 1#4, Ty.code t⟩)
  | .fmul d a b t => some (FormatWord.s 16#6 ⟨Dst.code d, Src.code a, Src.code b, 2#4, Ty.code t⟩)
  | .fmin d a b t => some (FormatWord.s 16#6 ⟨Dst.code d, Src.code a, Src.code b, 3#4, Ty.code t⟩)
  | .fmax d a b t => some (FormatWord.s 16#6 ⟨Dst.code d, Src.code a, Src.code b, 4#4, Ty.code t⟩)
  | .sfnRcp d a t => some (FormatWord.s 16#6 ⟨Dst.code d, Src.code a, 0#6, 8#4, Ty.code t⟩)
  | .sfnRsq d a t => some (FormatWord.s 16#6 ⟨Dst.code d, Src.code a, 0#6, 9#4, Ty.code t⟩)
  | .sfnSqrt d a t => some (FormatWord.s 16#6 ⟨Dst.code d, Src.code a, 0#6, 10#4, Ty.code t⟩)
  | .sfnExp2 d a t => some (FormatWord.s 16#6 ⟨Dst.code d, Src.code a, 0#6, 11#4, Ty.code t⟩)
  | .sfnLog2 d a t => some (FormatWord.s 16#6 ⟨Dst.code d, Src.code a, 0#6, 12#4, Ty.code t⟩)
  | .sfnSin d a t => some (FormatWord.s 16#6 ⟨Dst.code d, Src.code a, 0#6, 13#4, Ty.code t⟩)
  | .sfnCos d a t => some (FormatWord.s 16#6 ⟨Dst.code d, Src.code a, 0#6, 14#4, Ty.code t⟩)
  | .sfnTanh d a t => some (FormatWord.s 16#6 ⟨Dst.code d, Src.code a, 0#6, 15#4, Ty.code t⟩)
  | .fcvt d a dt t => some (FormatWord.s 17#6 ⟨Dst.code d, Src.code a, 0#6, Ty.code dt, Ty.code t⟩)
  | .fsetpEq a b p t => some (FormatWord.s 18#6 ⟨0#6, Src.code a, Src.code b, (0#1 ++ (finCode (w := 3) p)), Ty.code t⟩)
  | .fsetpLt a b p t => some (FormatWord.s 18#6 ⟨0#6, Src.code a, Src.code b, (1#1 ++ (finCode (w := 3) p)), Ty.code t⟩)
  | .fsetpLe a b p t => some (FormatWord.s 19#6 ⟨0#6, Src.code a, Src.code b, (0#1 ++ (finCode (w := 3) p)), Ty.code t⟩)
  | .fsetpUn a b p t => some (FormatWord.s 19#6 ⟨0#6, Src.code a, Src.code b, (1#1 ++ (finCode (w := 3) p)), Ty.code t⟩)
  | .ffma d a b c t => some (FormatWord.t 20#6 ⟨Dst.code d, Src.code a, Src.code b, Src.code c, FTy.code t⟩)
  | .bra off => some (FormatWord.b 24#6 ⟨0#1, 0#3, off⟩)
  | .brp neg p off => some (FormatWord.b 25#6 ⟨boolCode neg, (finCode (w := 3) p), off⟩)
  | .call off => some (FormatWord.b 26#6 ⟨0#1, 0#3, off⟩)
  | .jmpi a => some (FormatWord.s 28#6 ⟨0#6, Src.code a, 0#6, 0#4, 0#4⟩)
  | .calli a => some (FormatWord.s 28#6 ⟨0#6, Src.code a, 0#6, 1#4, 0#4⟩)
  | .ret a => some (FormatWord.s 28#6 ⟨0#6, Src.code a, 0#6, 2#4, 0#4⟩)
  | .exit => some (FormatWord.s 28#6 ⟨0#6, 0#6, 0#6, 3#4, 0#4⟩)
  | .nop => some (FormatWord.s 29#6 ⟨0#6, 0#6, 0#6, 0#4, 0#4⟩)
  | .pset a b => some (FormatWord.s 29#6 ⟨0#6, Src.code a, Src.code b, 1#4, 0#4⟩)
  | .pushmN a => some (FormatWord.s 29#6 ⟨0#6, Src.code a, 0#6, 2#4, 0#4⟩)
  | .pushmV a => some (FormatWord.s 29#6 ⟨0#6, Src.code a, 0#6, 3#4, 0#4⟩)
  | .pushmM a => some (FormatWord.s 29#6 ⟨0#6, Src.code a, 0#6, 4#4, 0#4⟩)
  | .popmN a => some (FormatWord.s 29#6 ⟨0#6, Src.code a, 0#6, 5#4, 0#4⟩)
  | .popmV a => some (FormatWord.s 29#6 ⟨0#6, Src.code a, 0#6, 6#4, 0#4⟩)
  | .popmM a => some (FormatWord.s 29#6 ⟨0#6, Src.code a, 0#6, 7#4, 0#4⟩)
  | .getsv d sv => some (FormatWord.s 30#6 ⟨Dst.code d, 0#6, 0#6, SpecialValue.code sv, 0#4⟩)
  | .setsv a sv => some (FormatWord.s 31#6 ⟨0#6, Src.code a, 0#6, SpecialValue.code sv, 0#4⟩)
  | .wideImmediateHint p => some (FormatWord.h 63#6 ⟨0#2, p⟩)
  | .repeatPrefix countM1 sd sa sb sc => some (FormatWord.h 63#6 ⟨1#2, ((finCode (w := 6) countM1) ++ (boolCode sd) ++ (boolCode sa) ++ (boolCode sb) ++ (boolCode sc) ++ 0#14)⟩)
  | .hintNone => some (FormatWord.h 63#6 ⟨2#2, 0#24⟩)
  | .hintYield => some (FormatWord.h 63#6 ⟨2#2, 1#24⟩)
  | .hintJoin => some (FormatWord.h 63#6 ⟨2#2, 2#24⟩)
  | .hintLong => some (FormatWord.h 63#6 ⟨2#2, 3#24⟩)
  | .rareModifierHint rndEn rnd sat cache => some (FormatWord.h 63#6 ⟨3#2, ((boolCode rndEn) ++ (Rnd.code rnd) ++ (boolCode sat) ++ (CachePolicy.code cache) ++ 0#18)⟩)
  | .vadd vd va vb mk t c => some (FormatWord.v 32#6 ⟨(finCode (w := 4) vd), (finCode (w := 4) va), (finCode (w := 4) vb), (finCode (w := 3) mk), 0#5, Ty.code t, boolCode c, 0#1⟩)
  | .vsub vd va vb mk t c => some (FormatWord.v 32#6 ⟨(finCode (w := 4) vd), (finCode (w := 4) va), (finCode (w := 4) vb), (finCode (w := 3) mk), 1#5, Ty.code t, boolCode c, 0#1⟩)
  | .vmul vd va vb mk t c => some (FormatWord.v 32#6 ⟨(finCode (w := 4) vd), (finCode (w := 4) va), (finCode (w := 4) vb), (finCode (w := 3) mk), 2#5, Ty.code t, boolCode c, 0#1⟩)
  | .vdiv vd va vb mk t c => some (FormatWord.v 32#6 ⟨(finCode (w := 4) vd), (finCode (w := 4) va), (finCode (w := 4) vb), (finCode (w := 3) mk), 3#5, Ty.code t, boolCode c, 0#1⟩)
  | .vmin vd va vb mk t c => some (FormatWord.v 32#6 ⟨(finCode (w := 4) vd), (finCode (w := 4) va), (finCode (w := 4) vb), (finCode (w := 3) mk), 4#5, Ty.code t, boolCode c, 0#1⟩)
  | .vmax vd va vb mk t c => some (FormatWord.v 32#6 ⟨(finCode (w := 4) vd), (finCode (w := 4) va), (finCode (w := 4) vb), (finCode (w := 3) mk), 5#5, Ty.code t, boolCode c, 0#1⟩)
  | .vabs vd va mk t c => some (FormatWord.v 32#6 ⟨(finCode (w := 4) vd), (finCode (w := 4) va), 0#4, (finCode (w := 3) mk), 6#5, Ty.code t, boolCode c, 0#1⟩)
  | .vneg vd va mk t c => some (FormatWord.v 32#6 ⟨(finCode (w := 4) vd), (finCode (w := 4) va), 0#4, (finCode (w := 3) mk), 7#5, Ty.code t, boolCode c, 0#1⟩)
  | .vfma vd va vb mk t c => some (FormatWord.v 32#6 ⟨(finCode (w := 4) vd), (finCode (w := 4) va), (finCode (w := 4) vb), (finCode (w := 3) mk), 8#5, Ty.code t, boolCode c, 0#1⟩)
  | .vand vd va vb mk t c => some (FormatWord.v 33#6 ⟨(finCode (w := 4) vd), (finCode (w := 4) va), (finCode (w := 4) vb), (finCode (w := 3) mk), 0#5, Ty.code t, boolCode c, 0#1⟩)
  | .vor vd va vb mk t c => some (FormatWord.v 33#6 ⟨(finCode (w := 4) vd), (finCode (w := 4) va), (finCode (w := 4) vb), (finCode (w := 3) mk), 1#5, Ty.code t, boolCode c, 0#1⟩)
  | .vxor vd va vb mk t c => some (FormatWord.v 33#6 ⟨(finCode (w := 4) vd), (finCode (w := 4) va), (finCode (w := 4) vb), (finCode (w := 3) mk), 2#5, Ty.code t, boolCode c, 0#1⟩)
  | .vshl vd va vb mk t c => some (FormatWord.v 33#6 ⟨(finCode (w := 4) vd), (finCode (w := 4) va), (finCode (w := 4) vb), (finCode (w := 3) mk), 3#5, Ty.code t, boolCode c, 0#1⟩)
  | .vshr vd va vb mk t c => some (FormatWord.v 33#6 ⟨(finCode (w := 4) vd), (finCode (w := 4) va), (finCode (w := 4) vb), (finCode (w := 3) mk), 4#5, Ty.code t, boolCode c, 0#1⟩)
  | .vsra vd va vb mk t c => some (FormatWord.v 33#6 ⟨(finCode (w := 4) vd), (finCode (w := 4) va), (finCode (w := 4) vb), (finCode (w := 3) mk), 5#5, Ty.code t, boolCode c, 0#1⟩)
  | .vcmpEq md va vb mk t c => some (FormatWord.v 34#6 ⟨maskField md, (finCode (w := 4) va), (finCode (w := 4) vb), (finCode (w := 3) mk), 0#5, Ty.code t, boolCode c, 0#1⟩)
  | .vcmpNe md va vb mk t c => some (FormatWord.v 34#6 ⟨maskField md, (finCode (w := 4) va), (finCode (w := 4) vb), (finCode (w := 3) mk), 1#5, Ty.code t, boolCode c, 0#1⟩)
  | .vcmpLt md va vb mk t c => some (FormatWord.v 34#6 ⟨maskField md, (finCode (w := 4) va), (finCode (w := 4) vb), (finCode (w := 3) mk), 2#5, Ty.code t, boolCode c, 0#1⟩)
  | .vcmpLe md va vb mk t c => some (FormatWord.v 34#6 ⟨maskField md, (finCode (w := 4) va), (finCode (w := 4) vb), (finCode (w := 3) mk), 3#5, Ty.code t, boolCode c, 0#1⟩)
  | .vcmpUn md va vb mk t c => some (FormatWord.v 34#6 ⟨maskField md, (finCode (w := 4) va), (finCode (w := 4) vb), (finCode (w := 3) mk), 4#5, Ty.code t, boolCode c, 0#1⟩)
  | .vsel vd va vb ms c => some (FormatWord.v 35#6 ⟨(finCode (w := 4) vd), (finCode (w := 4) va), (finCode (w := 4) vb), (finCode (w := 3) ms), 0#5, 0#4, boolCode c, 0#1⟩)
  | .vmov vd va mk c => some (FormatWord.v 35#6 ⟨(finCode (w := 4) vd), (finCode (w := 4) va), 0#4, (finCode (w := 3) mk), 1#5, 0#4, boolCode c, 0#1⟩)
  | .vcoal vd va => some (FormatWord.v 35#6 ⟨(finCode (w := 4) vd), (finCode (w := 4) va), 0#4, 0#3, 2#5, 0#4, 0#1, 0#1⟩)
  | .vcvt vd va vb mk sr dt t c => some (FormatWord.v 36#6 ⟨(finCode (w := 4) vd), (finCode (w := 4) va), (finCode (w := 4) vb), (finCode (w := 3) mk), ((boolCode sr) ++ (Ty.code dt)), Ty.code t, boolCode c, 0#1⟩)
  | .vcvtSx vd va vb mk sr fmt t c => some (FormatWord.v 37#6 ⟨(finCode (w := 4) vd), (finCode (w := 4) va), (finCode (w := 4) vb), (finCode (w := 3) mk), ((boolCode sr) ++ (SxFmt.convertCode fmt)), Ty.code t, boolCode c, 0#1⟩)
  | .vsfnRcp vd va mk t => some (FormatWord.v 38#6 ⟨(finCode (w := 4) vd), (finCode (w := 4) va), 0#4, (finCode (w := 3) mk), 0#5, Ty.code t, 0#1, 0#1⟩)
  | .vsfnRsq vd va mk t => some (FormatWord.v 38#6 ⟨(finCode (w := 4) vd), (finCode (w := 4) va), 0#4, (finCode (w := 3) mk), 1#5, Ty.code t, 0#1, 0#1⟩)
  | .vsfnSqrt vd va mk t => some (FormatWord.v 38#6 ⟨(finCode (w := 4) vd), (finCode (w := 4) va), 0#4, (finCode (w := 3) mk), 2#5, Ty.code t, 0#1, 0#1⟩)
  | .vsfnExp2 vd va mk t => some (FormatWord.v 38#6 ⟨(finCode (w := 4) vd), (finCode (w := 4) va), 0#4, (finCode (w := 3) mk), 3#5, Ty.code t, 0#1, 0#1⟩)
  | .vsfnLog2 vd va mk t => some (FormatWord.v 38#6 ⟨(finCode (w := 4) vd), (finCode (w := 4) va), 0#4, (finCode (w := 3) mk), 4#5, Ty.code t, 0#1, 0#1⟩)
  | .vsfnSin vd va mk t => some (FormatWord.v 38#6 ⟨(finCode (w := 4) vd), (finCode (w := 4) va), 0#4, (finCode (w := 3) mk), 5#5, Ty.code t, 0#1, 0#1⟩)
  | .vsfnCos vd va mk t => some (FormatWord.v 38#6 ⟨(finCode (w := 4) vd), (finCode (w := 4) va), 0#4, (finCode (w := 3) mk), 6#5, Ty.code t, 0#1, 0#1⟩)
  | .vsfnTanh vd va mk t => some (FormatWord.v 38#6 ⟨(finCode (w := 4) vd), (finCode (w := 4) va), 0#4, (finCode (w := 3) mk), 7#5, Ty.code t, 0#1, 0#1⟩)
  | .mand md ma mb mk c => some (FormatWord.v 39#6 ⟨maskField md, maskField ma, maskField mb, (finCode (w := 3) mk), 0#5, 0#4, boolCode c, 0#1⟩)
  | .mor md ma mb mk c => some (FormatWord.v 39#6 ⟨maskField md, maskField ma, maskField mb, (finCode (w := 3) mk), 1#5, 0#4, boolCode c, 0#1⟩)
  | .mxor md ma mb mk c => some (FormatWord.v 39#6 ⟨maskField md, maskField ma, maskField mb, (finCode (w := 3) mk), 2#5, 0#4, boolCode c, 0#1⟩)
  | .mnot md ma mk c => some (FormatWord.v 39#6 ⟨maskField md, maskField ma, 0#4, (finCode (w := 3) mk), 3#5, 0#4, boolCode c, 0#1⟩)
  | .vaddS vd va s mk t => some (FormatWord.vs 40#6 ⟨(finCode (w := 4) vd), (finCode (w := 4) va), Src.code s, (finCode (w := 3) mk), 0#5, Ty.code t⟩)
  | .vsubS vd va s mk t => some (FormatWord.vs 40#6 ⟨(finCode (w := 4) vd), (finCode (w := 4) va), Src.code s, (finCode (w := 3) mk), 1#5, Ty.code t⟩)
  | .vmulS vd va s mk t => some (FormatWord.vs 40#6 ⟨(finCode (w := 4) vd), (finCode (w := 4) va), Src.code s, (finCode (w := 3) mk), 2#5, Ty.code t⟩)
  | .vdivS vd va s mk t => some (FormatWord.vs 40#6 ⟨(finCode (w := 4) vd), (finCode (w := 4) va), Src.code s, (finCode (w := 3) mk), 3#5, Ty.code t⟩)
  | .vminS vd va s mk t => some (FormatWord.vs 40#6 ⟨(finCode (w := 4) vd), (finCode (w := 4) va), Src.code s, (finCode (w := 3) mk), 4#5, Ty.code t⟩)
  | .vmaxS vd va s mk t => some (FormatWord.vs 40#6 ⟨(finCode (w := 4) vd), (finCode (w := 4) va), Src.code s, (finCode (w := 3) mk), 5#5, Ty.code t⟩)
  | .vfmaS vd va s mk t => some (FormatWord.vs 40#6 ⟨(finCode (w := 4) vd), (finCode (w := 4) va), Src.code s, (finCode (w := 3) mk), 8#5, Ty.code t⟩)
  | .vandS vd va s mk t => some (FormatWord.vs 41#6 ⟨(finCode (w := 4) vd), (finCode (w := 4) va), Src.code s, (finCode (w := 3) mk), 0#5, Ty.code t⟩)
  | .vorS vd va s mk t => some (FormatWord.vs 41#6 ⟨(finCode (w := 4) vd), (finCode (w := 4) va), Src.code s, (finCode (w := 3) mk), 1#5, Ty.code t⟩)
  | .vxorS vd va s mk t => some (FormatWord.vs 41#6 ⟨(finCode (w := 4) vd), (finCode (w := 4) va), Src.code s, (finCode (w := 3) mk), 2#5, Ty.code t⟩)
  | .vshlS vd va s mk t => some (FormatWord.vs 41#6 ⟨(finCode (w := 4) vd), (finCode (w := 4) va), Src.code s, (finCode (w := 3) mk), 3#5, Ty.code t⟩)
  | .vshrS vd va s mk t => some (FormatWord.vs 41#6 ⟨(finCode (w := 4) vd), (finCode (w := 4) va), Src.code s, (finCode (w := 3) mk), 4#5, Ty.code t⟩)
  | .vsraS vd va s mk t => some (FormatWord.vs 41#6 ⟨(finCode (w := 4) vd), (finCode (w := 4) va), Src.code s, (finCode (w := 3) mk), 5#5, Ty.code t⟩)
  | .vlen va d => some (FormatWord.vs 42#6 ⟨0#4, (finCode (w := 4) va), Dst.code d, 0#3, 0#5, 0#4⟩)
  | .vruns va d => some (FormatWord.vs 42#6 ⟨0#4, (finCode (w := 4) va), Dst.code d, 0#3, 1#5, 0#4⟩)
  | .mpop ma d => some (FormatWord.vs 42#6 ⟨0#4, maskField ma, Dst.code d, 0#3, 2#5, 0#4⟩)
  | .mfirst ma d => some (FormatWord.vs 42#6 ⟨0#4, maskField ma, Dst.code d, 0#3, 3#5, 0#4⟩)
  | .vidx vd s mk t => some (FormatWord.vs 43#6 ⟨(finCode (w := 4) vd), 0#4, Src.code s, (finCode (w := 3) mk), 0#5, Ty.code t⟩)
  | .vsplat vd va s mk t => some (FormatWord.vs 43#6 ⟨(finCode (w := 4) vd), (finCode (w := 4) va), Src.code s, (finCode (w := 3) mk), 1#5, Ty.code t⟩)
  | .vsetl vd s => some (FormatWord.vs 43#6 ⟨(finCode (w := 4) vd), 0#4, Src.code s, 0#3, 2#5, 0#4⟩)
  | .vilv2 vd va c => some (FormatWord.v 44#6 ⟨(finCode (w := 4) vd), (finCode (w := 4) va), 0#4, 0#3, 0#5, 0#4, boolCode c, 0#1⟩)
  | .vilv3 vd va c => some (FormatWord.v 44#6 ⟨(finCode (w := 4) vd), (finCode (w := 4) va), 0#4, 0#3, 1#5, 0#4, boolCode c, 0#1⟩)
  | .vilv4 vd va c => some (FormatWord.v 44#6 ⟨(finCode (w := 4) vd), (finCode (w := 4) va), 0#4, 0#3, 2#5, 0#4, boolCode c, 0#1⟩)
  | .vdilv2 vd va c => some (FormatWord.v 44#6 ⟨(finCode (w := 4) vd), (finCode (w := 4) va), 0#4, 0#3, 3#5, 0#4, boolCode c, 0#1⟩)
  | .vdilv3 vd va c => some (FormatWord.v 44#6 ⟨(finCode (w := 4) vd), (finCode (w := 4) va), 0#4, 0#3, 4#5, 0#4, boolCode c, 0#1⟩)
  | .vdilv4 vd va c => some (FormatWord.v 44#6 ⟨(finCode (w := 4) vd), (finCode (w := 4) va), 0#4, 0#3, 5#5, 0#4, boolCode c, 0#1⟩)
  | .vperm vd va vb mk c => some (FormatWord.v 44#6 ⟨(finCode (w := 4) vd), (finCode (w := 4) va), (finCode (w := 4) vb), (finCode (w := 3) mk), 6#5, 0#4, boolCode c, 0#1⟩)
  | .vrev vd va mk c => some (FormatWord.v 44#6 ⟨(finCode (w := 4) vd), (finCode (w := 4) va), 0#4, (finCode (w := 3) mk), 7#5, 0#4, boolCode c, 0#1⟩)
  | .vsort vd va t c => some (FormatWord.v 44#6 ⟨(finCode (w := 4) vd), (finCode (w := 4) va), 0#4, 0#3, 8#5, Ty.code t, boolCode c, 0#1⟩)
  | .vtopk vd va t c => some (FormatWord.v 44#6 ⟨(finCode (w := 4) vd), (finCode (w := 4) va), 0#4, 0#3, 9#5, Ty.code t, boolCode c, 0#1⟩)
  | .vtopkI vd va t => some (FormatWord.v 44#6 ⟨(finCode (w := 4) vd), (finCode (w := 4) va), 0#4, 0#3, 10#5, Ty.code t, 0#1, 0#1⟩)
  | .vredAdd vd va mk t => some (FormatWord.v 45#6 ⟨(finCode (w := 4) vd), (finCode (w := 4) va), 0#4, (finCode (w := 3) mk), 0#5, Ty.code t, 0#1, 0#1⟩)
  | .vredMin vd va mk t => some (FormatWord.v 45#6 ⟨(finCode (w := 4) vd), (finCode (w := 4) va), 0#4, (finCode (w := 3) mk), 1#5, Ty.code t, 0#1, 0#1⟩)
  | .vredMax vd va mk t => some (FormatWord.v 45#6 ⟨(finCode (w := 4) vd), (finCode (w := 4) va), 0#4, (finCode (w := 3) mk), 2#5, Ty.code t, 0#1, 0#1⟩)
  | .vredAnd vd va mk t => some (FormatWord.v 45#6 ⟨(finCode (w := 4) vd), (finCode (w := 4) va), 0#4, (finCode (w := 3) mk), 3#5, Ty.code t, 0#1, 0#1⟩)
  | .vredOr vd va mk t => some (FormatWord.v 45#6 ⟨(finCode (w := 4) vd), (finCode (w := 4) va), 0#4, (finCode (w := 3) mk), 4#5, Ty.code t, 0#1, 0#1⟩)
  | .vredXor vd va mk t => some (FormatWord.v 45#6 ⟨(finCode (w := 4) vd), (finCode (w := 4) va), 0#4, (finCode (w := 3) mk), 5#5, Ty.code t, 0#1, 0#1⟩)
  | .vscanAdd vd va mk t c => some (FormatWord.v 45#6 ⟨(finCode (w := 4) vd), (finCode (w := 4) va), 0#4, (finCode (w := 3) mk), 8#5, Ty.code t, boolCode c, 0#1⟩)
  | .vscanMin vd va mk t c => some (FormatWord.v 45#6 ⟨(finCode (w := 4) vd), (finCode (w := 4) va), 0#4, (finCode (w := 3) mk), 9#5, Ty.code t, boolCode c, 0#1⟩)
  | .vscanMax vd va mk t c => some (FormatWord.v 45#6 ⟨(finCode (w := 4) vd), (finCode (w := 4) va), 0#4, (finCode (w := 3) mk), 10#5, Ty.code t, boolCode c, 0#1⟩)
  | .vscanAnd vd va mk t c => some (FormatWord.v 45#6 ⟨(finCode (w := 4) vd), (finCode (w := 4) va), 0#4, (finCode (w := 3) mk), 11#5, Ty.code t, boolCode c, 0#1⟩)
  | .vscanOr vd va mk t c => some (FormatWord.v 45#6 ⟨(finCode (w := 4) vd), (finCode (w := 4) va), 0#4, (finCode (w := 3) mk), 12#5, Ty.code t, boolCode c, 0#1⟩)
  | .vscanXor vd va mk t c => some (FormatWord.v 45#6 ⟨(finCode (w := 4) vd), (finCode (w := 4) va), 0#4, (finCode (w := 3) mk), 13#5, Ty.code t, boolCode c, 0#1⟩)
  | .shflIdx vd va s dist => some (FormatWord.vs 46#6 ⟨(finCode (w := 4) vd), (finCode (w := 4) va), Src.code s, 0#3, (finCode (w := 5) dist), 0#4⟩)
  | .shflUp vd va s dist => some (FormatWord.vs 46#6 ⟨(finCode (w := 4) vd), (finCode (w := 4) va), Src.code s, 1#3, (finCode (w := 5) dist), 0#4⟩)
  | .shflDown vd va s dist => some (FormatWord.vs 46#6 ⟨(finCode (w := 4) vd), (finCode (w := 4) va), Src.code s, 2#3, (finCode (w := 5) dist), 0#4⟩)
  | .shflXor vd va s dist => some (FormatWord.vs 46#6 ⟨(finCode (w := 4) vd), (finCode (w := 4) va), Src.code s, 3#3, (finCode (w := 5) dist), 0#4⟩)
  | .voteAny pd neg ps s => some (FormatWord.vs 47#6 ⟨(0#1 ++ (finCode (w := 3) pd)), ((boolCode neg) ++ (finCode (w := 3) ps)), Src.code s, 0#3, 0#5, 0#4⟩)
  | .voteAll pd neg ps s => some (FormatWord.vs 47#6 ⟨(0#1 ++ (finCode (w := 3) pd)), ((boolCode neg) ++ (finCode (w := 3) ps)), Src.code s, 0#3, 1#5, 0#4⟩)
  | .voteBallot md neg ps s => some (FormatWord.vs 47#6 ⟨maskField md, ((boolCode neg) ++ (finCode (w := 3) ps)), Src.code s, 0#3, 2#5, 0#4⟩)
  | .xredAdd vd va s t => some (FormatWord.vs 47#6 ⟨(finCode (w := 4) vd), (finCode (w := 4) va), Src.code s, 0#3, 4#5, Ty.code t⟩)
  | .xredMin vd va s t => some (FormatWord.vs 47#6 ⟨(finCode (w := 4) vd), (finCode (w := 4) va), Src.code s, 0#3, 5#5, Ty.code t⟩)
  | .xredMax vd va s t => some (FormatWord.vs 47#6 ⟨(finCode (w := 4) vd), (finCode (w := 4) va), Src.code s, 0#3, 6#5, Ty.code t⟩)
  | .xredAnd vd va s t => some (FormatWord.vs 47#6 ⟨(finCode (w := 4) vd), (finCode (w := 4) va), Src.code s, 0#3, 7#5, Ty.code t⟩)
  | .xredOr vd va s t => some (FormatWord.vs 47#6 ⟨(finCode (w := 4) vd), (finCode (w := 4) va), Src.code s, 0#3, 8#5, Ty.code t⟩)
  | .xredXor vd va s t => some (FormatWord.vs 47#6 ⟨(finCode (w := 4) vd), (finCode (w := 4) va), Src.code s, 0#3, 9#5, Ty.code t⟩)
  | .vslideUp vd va s mk => some (FormatWord.vs 47#6 ⟨(finCode (w := 4) vd), (finCode (w := 4) va), Src.code s, (finCode (w := 3) mk), 12#5, 0#4⟩)
  | .vslideDown vd va s mk => some (FormatWord.vs 47#6 ⟨(finCode (w := 4) vd), (finCode (w := 4) va), Src.code s, (finCode (w := 3) mk), 13#5, 0#4⟩)
  | .vext va s => some (FormatWord.vs 47#6 ⟨0#4, (finCode (w := 4) va), Src.code s, 0#3, 14#5, 0#4⟩)
  | .vins vd va s => some (FormatWord.vs 47#6 ⟨(finCode (w := 4) vd), (finCode (w := 4) va), Src.code s, 0#3, 15#5, 0#4⟩)
  | .qbind q s => some (FormatWord.vs 47#6 ⟨(0#2 ++ (finCode (w := 2) q)), 0#4, Src.code s, 0#3, 16#5, 0#4⟩)
  | .qfree q => some (FormatWord.vs 47#6 ⟨(0#2 ++ (finCode (w := 2) q)), 0#4, 0#6, 0#3, 17#5, 0#4⟩)
  | .ld d base t off => some (FormatWord.ms 48#6 ⟨Dst.code d, Src.code base, Ty.code t, 0#2, off⟩)
  | .st a base t off => some (FormatWord.ms 49#6 ⟨Src.code a, Src.code base, Ty.code t, 0#2, off⟩)
  | .vld vd mk base t off => some (FormatWord.mv 50#6 ⟨(finCode (w := 4) vd), (finCode (w := 3) mk), Src.code base, Ty.code t, 0#2, off⟩)
  | .vldg vd mk base t vx sh => some (FormatWord.mv 50#6 ⟨(finCode (w := 4) vd), (finCode (w := 3) mk), Src.code base, Ty.code t, 1#2, ((finCode (w := 4) vx) ++ (finCode (w := 3) sh))⟩)
  | .vst vd mk base t off => some (FormatWord.mv 51#6 ⟨(finCode (w := 4) vd), (finCode (w := 3) mk), Src.code base, Ty.code t, 0#2, off⟩)
  | .vstg vd mk base t vx sh => some (FormatWord.mv 51#6 ⟨(finCode (w := 4) vd), (finCode (w := 3) mk), Src.code base, Ty.code t, 1#2, ((finCode (w := 4) vx) ++ (finCode (w := 3) sh))⟩)
  | .ldq vd mk base t fmt => some (FormatWord.mv 52#6 ⟨(finCode (w := 4) vd), (finCode (w := 3) mk), Src.code base, Ty.code t, 0#2, ((SxFmt.blockCode fmt) ++ 0#5)⟩)
  | .stq vd base t fmt sr vb => some (FormatWord.mv 52#6 ⟨(finCode (w := 4) vd), 0#3, Src.code base, Ty.code t, 1#2, ((SxFmt.blockCode fmt) ++ (boolCode sr) ++ (finCode (w := 4) vb))⟩)
  | .ldt d base t off => some (FormatWord.ms 53#6 ⟨Dst.code d, Src.code base, Ty.code t, 0#2, off⟩)
  | .pref base off => some (FormatWord.ms 53#6 ⟨0#6, Src.code base, 0#4, 1#2, off⟩)
  | .pfence => some (FormatWord.ms 53#6 ⟨0#6, 0#6, 0#4, 2#2, 0#8⟩)
  | .pfenceDie => some (FormatWord.ms 53#6 ⟨0#6, 0#6, 0#4, 3#2, 0#8⟩)
  | .spawn a b => some (FormatWord.s 54#6 ⟨0#6, Src.code a, Src.code b, 0#4, 0#4⟩)
  | .await => some (FormatWord.s 54#6 ⟨0#6, 0#6, 0#6, 1#4, 0#4⟩)
  | .awaitStay => some (FormatWord.s 54#6 ⟨0#6, 0#6, 0#6, 2#4, 0#4⟩)
  | .atomAdd d a b t => some (FormatWord.s 55#6 ⟨Dst.code d, Src.code a, Src.code b, 0#4, Ty.code t⟩)
  | .atomMin d a b t => some (FormatWord.s 55#6 ⟨Dst.code d, Src.code a, Src.code b, 1#4, Ty.code t⟩)
  | .atomMax d a b t => some (FormatWord.s 55#6 ⟨Dst.code d, Src.code a, Src.code b, 2#4, Ty.code t⟩)
  | .atomAnd d a b t => some (FormatWord.s 55#6 ⟨Dst.code d, Src.code a, Src.code b, 3#4, Ty.code t⟩)
  | .atomOr d a b t => some (FormatWord.s 55#6 ⟨Dst.code d, Src.code a, Src.code b, 4#4, Ty.code t⟩)
  | .atomXor d a b t => some (FormatWord.s 55#6 ⟨Dst.code d, Src.code a, Src.code b, 5#4, Ty.code t⟩)
  | .atomExch d a b t => some (FormatWord.s 55#6 ⟨Dst.code d, Src.code a, Src.code b, 6#4, Ty.code t⟩)
  | .atomCas d a b t => some (FormatWord.s 55#6 ⟨Dst.code d, Src.code a, Src.code b, 7#4, Ty.code t⟩)
  | .aredAdd a b t => some (FormatWord.s 55#6 ⟨0#6, Src.code a, Src.code b, 8#4, Ty.code t⟩)
  | .aredMin a b t => some (FormatWord.s 55#6 ⟨0#6, Src.code a, Src.code b, 9#4, Ty.code t⟩)
  | .aredMax a b t => some (FormatWord.s 55#6 ⟨0#6, Src.code a, Src.code b, 10#4, Ty.code t⟩)
  | .aredAnd a b t => some (FormatWord.s 55#6 ⟨0#6, Src.code a, Src.code b, 11#4, Ty.code t⟩)
  | .aredOr a b t => some (FormatWord.s 55#6 ⟨0#6, Src.code a, Src.code b, 12#4, Ty.code t⟩)
  | .atomwLd d a => some (FormatWord.s 55#6 ⟨Dst.code d, Src.code a, 0#6, 13#4, 0#4⟩)
  | .atomwExch d a b => some (FormatWord.s 55#6 ⟨Dst.code d, Src.code a, Src.code b, 14#4, 0#4⟩)
  | .atomwCas d a b => some (FormatWord.s 55#6 ⟨Dst.code d, Src.code a, Src.code b, 15#4, 0#4⟩)
  | .elect d a b p => some (FormatWord.s 56#6 ⟨Dst.code d, Src.code a, Src.code b, (0#1 ++ (finCode (w := 3) p)), 0#4⟩)
  | .kst a k => some (FormatWord.s 56#6 ⟨0#6, Src.code a, (3#2 ++ (finCode (w := 4) k)), 8#4, 0#4⟩)
  | .bar id => some (FormatWord.x 57#6 ⟨0#3, (finCode (w := 6) id), 0#6, 0#6, 0#5⟩)
  | .barm a => some (FormatWord.x 57#6 ⟨1#3, Src.code a, 0#6, 0#6, 0#5⟩)
  | .swinit a b => some (FormatWord.x 57#6 ⟨2#3, Src.code a, Src.code b, 0#6, 0#5⟩)
  | .swadd a b => some (FormatWord.x 57#6 ⟨3#3, Src.code a, Src.code b, 0#6, 0#5⟩)
  | .swwait a b d => some (FormatWord.x 57#6 ⟨4#3, Src.code a, Src.code b, Dst.code d, 0#5⟩)
  | .kick a b g => some (FormatWord.x 58#6 ⟨0#3, Src.code a, Src.code b, 0#6, guardCode g⟩)
  | .wait ld st cp => some (FormatWord.x 58#6 ⟨1#3, (finCode (w := 6) ld), (finCode (w := 6) st), (finCode (w := 6) cp), 0#5⟩)
  | .waitMxRy mx ry => some (FormatWord.x 58#6 ⟨2#3, (finCode (w := 6) mx), (finCode (w := 6) ry), 0#6, 0#5⟩)
  | .gset slot b => some (FormatWord.x 58#6 ⟨3#3, (finCode (w := 6) slot), Src.code b, 0#6, 0#5⟩)
  | .gsetOpen slot => some (FormatWord.x 58#6 ⟨4#3, (finCode (w := 6) slot), 0#6, 0#6, 0#5⟩)
  | .mma a b c g => some (FormatWord.x 59#6 ⟨0#3, Src.code a, Src.code b, Src.code c, guardCode g⟩)
  | .mzero a g => some (FormatWord.x 59#6 ⟨1#3, Src.code a, 0#6, 0#6, guardCode g⟩)
  | .mld a b c g => some (FormatWord.x 59#6 ⟨2#3, Src.code a, Src.code b, Src.code c, guardCode g⟩)
  | .mst a b c g => some (FormatWord.x 59#6 ⟨3#3, Src.code a, Src.code b, Src.code c, guardCode g⟩)
  | .mqnt a b c g => some (FormatWord.x 59#6 ⟨4#3, Src.code a, Src.code b, Src.code c, guardCode g⟩)
  | .mew a b g => some (FormatWord.x 59#6 ⟨5#3, Src.code a, Src.code b, 0#6, guardCode g⟩)
  | .mrdy => some (FormatWord.x 59#6 ⟨6#3, 0#6, 0#6, 0#6, 0#5⟩)
  | .mwait a => some (FormatWord.x 59#6 ⟨7#3, Src.code a, 0#6, 0#6, 0#5⟩)
  | .trace a b => some (FormatWord.x 60#6 ⟨0#3, Src.code a, Src.code b, 0#6, 0#5⟩)
  | .traceR a b => some (FormatWord.x 60#6 ⟨0#3, Src.code a, Src.code b, 1#6, 0#5⟩)
  | .tracea a b => some (FormatWord.x 60#6 ⟨1#3, Src.code a, Src.code b, 0#6, 0#5⟩)
  | .traceaR a b => some (FormatWord.x 60#6 ⟨1#3, Src.code a, Src.code b, 1#6, 0#5⟩)
  | .hitld d b fld => some (FormatWord.x 60#6 ⟨2#3, Dst.code d, Src.code b, (finCode (w := 6) fld), 0#5⟩)
  | .lwalk d j c => some (FormatWord.x 60#6 ⟨3#3, Dst.code d, Src.code j, Src.code c, 0#5⟩)
  | .tex j b c => some (FormatWord.x 60#6 ⟨4#3, Src.code j, Src.code b, Src.code c, 0#5⟩)
  | .texq d b c => some (FormatWord.x 60#6 ⟨5#3, Dst.code d, Src.code b, Src.code c, 0#5⟩)
  | .rngkey a b => some (FormatWord.s 61#6 ⟨0#6, Src.code a, Src.code b, 0#4, 0#4⟩)
  | .rngset a b => some (FormatWord.s 61#6 ⟨0#6, Src.code a, Src.code b, 1#4, 0#4⟩)
  | .rng d => some (FormatWord.s 61#6 ⟨Dst.code d, 0#6, 0#6, 2#4, 0#4⟩)
  | .rngV vd a => some (FormatWord.s 61#6 ⟨(0#2 ++ (finCode (w := 4) vd)), Src.code a, 0#6, 3#4, 0#4⟩)
  | .rsinit j a => some (FormatWord.s 61#6 ⟨Dst.code j, Src.code a, 0#6, 4#4, 0#4⟩)
  | .rsadd j a b => some (FormatWord.s 61#6 ⟨Dst.code j, Src.code a, Src.code b, 5#4, 0#4⟩)
  | .rsmerge j a b => some (FormatWord.s 61#6 ⟨Dst.code j, Src.code a, Src.code b, 6#4, 0#4⟩)
  | .rsnorm j => some (FormatWord.s 61#6 ⟨Dst.code j, 0#6, 0#6, 7#4, 0#4⟩)
  | .rsld j a => some (FormatWord.s 61#6 ⟨Dst.code j, Src.code a, 0#6, 8#4, 0#4⟩)
  | .rsst a b => some (FormatWord.s 61#6 ⟨0#6, Src.code a, Src.code b, 9#4, 0#4⟩)
  | .reuse a => some (FormatWord.s 61#6 ⟨0#6, Src.code a, 0#6, 10#4, 0#4⟩)
  | .tcall d a b => some (FormatWord.s 61#6 ⟨Dst.code d, Src.code a, Src.code b, 11#4, 0#4⟩)
  | .tret a => some (FormatWord.s 61#6 ⟨0#6, Src.code a, 0#6, 12#4, 0#4⟩)
  | .launch d a => some (FormatWord.s 62#6 ⟨Dst.code d, Src.code a, 0#6, 0#4, 0#4⟩)
  | .shape a b => some (FormatWord.s 62#6 ⟨0#6, Src.code a, Src.code b, 1#4, 0#4⟩)
  | .xalloc d a b => some (FormatWord.s 62#6 ⟨Dst.code d, Src.code a, Src.code b, 2#4, 0#4⟩)
  | .xfree a => some (FormatWord.s 62#6 ⟨0#6, Src.code a, 0#6, 3#4, 0#4⟩)
  | .trapRd d fld => some (FormatWord.s 62#6 ⟨Dst.code d, (finCode (w := 6) fld), 0#6, 4#4, 0#4⟩)
  | .trapWr fld b => some (FormatWord.s 62#6 ⟨0#6, (finCode (w := 6) fld), Src.code b, 4#4, 1#4⟩)
  | .trapRet => some (FormatWord.s 62#6 ⟨0#6, 0#6, 0#6, 4#4, 2#4⟩)
  | .sys d a b => some (FormatWord.s 62#6 ⟨Dst.code d, Src.code a, Src.code b, 5#4, 0#4⟩)
  | .brk code => some (FormatWord.s 62#6 ⟨0#6, (finCode (w := 6) code), 0#6, 6#4, 0#4⟩)
  | .pinval a b => some (FormatWord.s 62#6 ⟨0#6, Src.code a, Src.code b, 7#4, 0#4⟩)
  | .metaz a b => some (FormatWord.s 62#6 ⟨0#6, Src.code a, Src.code b, 8#4, 0#4⟩)
  | .decomp a b => some (FormatWord.s 62#6 ⟨0#6, Src.code a, Src.code b, 9#4, 0#4⟩)
  | .pquery d a => some (FormatWord.s 62#6 ⟨Dst.code d, Src.code a, 0#6, 10#4, 0#4⟩)
  | .bxsum a => some (FormatWord.s 62#6 ⟨0#6, Src.code a, 0#6, 11#4, 0#4⟩)
  | .markOpen a b => some (FormatWord.s 62#6 ⟨0#6, Src.code a, Src.code b, 12#4, 0#4⟩)
  | .markClose => some (FormatWord.s 62#6 ⟨0#6, 0#6, 0#6, 12#4, 1#4⟩)
  | .markTrace a => some (FormatWord.s 62#6 ⟨0#6, Src.code a, 0#6, 12#4, 2#4⟩)
  | .repetition _ | .queueReadAhead _ _ | .loadDataReturn _ _ | .storeAccept _ _ | .reconciliation _ | .compressedTileWrite _ _
  | .kstTakeEffect _ | .swwaitPoll _ | .gsetTakeEffect _ | .copyCommandStart _ | .copyRecordComplete _ | .matrixCommandStart _
  | .matrixStepEnd _ | .matrixResume _ | .matrixSelfTest _ _ _ | .rayComplete _ _ | .haloExchangeComplete _ | .reuseTileStart _ _
  | .reuseTileRetire _ _ | .convoyForming _ | .convoyPass _ _ | .convoyAgePromotion _ _ | .requestAgePromotion _ | .stallClear _ | .fibreGone _
  | .groupPlacement _ | .prologueBinding _ | .prologueComplete _ | .taskStart _ | .recordSteal _ _ | .parkedFibreSave _ | .localBoundaryStep _ _
  | .stuckGroupFault _ | .jointLaunch _ | .writeThenSignal _ | .signalStep _ | .waitOnValue _ | .waitValuePoll _ | .timestamp _ | .traceOpen _
  | .traceClose _ | .traceFlush _ | .queueResetPacket _ | .marker _ | .doorbellPoll _ | .eventWrite _ | .eventAckPoll _ | .sliceEnd _
  | .contextSaved _ | .contextSchedule _ | .dumpComplete _ | .createContext _ | .destroyContext _ | .createQueue _ | .destroyQueue _
  | .resetQueue _ | .setSlice _ | .serviceReply _ | .dumpRequest _ | .readCapabilityList _ | .attestationReport _ | .mailboxUnknownCode _
  | .pageMigration _ _ _ _ | .rdmaWrite _ _ _ _ | .rdmaRead _ _ _ _ | .rdmaFetchAdd _ _ _ _ | .rdmaCmpSwap _ _ _ _ _ | .rdmaUnsupported _
  | .linkControlWrite _ | .linkEnable _ | .linkTrainingComplete _ | .linkTrainingFail _ | .laneFailure _ | .linkRetrainComplete _
  | .linkUnitLost _ | .remoteAccessRequest _ _ _ | .pathDownTimeout _ | .flushMarker _ | .flushAck _ _ | .collectiveTraffic _ _
  | .collectiveTimeout _ | .waymarkRetire _ | .traceSample _ _ | .debugStop _ | .debugResume _ | .stepByTrap _ | .stepByStop _ | .stepOff _
  | .debugDump _ | .stopComplete _ | .packageReset | .bootStepComplete _ | .junctionLimit _ | .eccError _ _ | .targetedSelfTestDone _ _
  | .illegalEncoding => none

/-- R2, R51: the bytes of a word, the least significant first. -/
def wordBytes (w : InsnWord) : List Byte :=
  [w.extractLsb' 0 8, w.extractLsb' 8 8, w.extractLsb' 16 8, w.extractLsb' 24 8]

/-- R2, R51: the word of the first four bytes and the bytes after it. -/
def wordOfBytes : List Byte → Except DecodeError (InsnWord × List Byte)
  | b0 :: b1 :: b2 :: b3 :: rest => .ok (b3 ++ b2 ++ b1 ++ b0, rest)
  | _ => .error .truncated

/-- R51: the instruction at the head of a list of bytes, and the rest of the list. -/
def decodeBytes (bs : List Byte) : Except DecodeError (Instr × List Byte) := do
  let (w, rest) ← wordOfBytes bs
  let i ← decode w
  return (i, rest)

/-- The instruction whose word holds the bits `w`, numbered from the least significant bit of the word; bits above `nbits` are zero. -/
def decodeTableWord (nbits w : Nat) : Option Instr :=
  if nbits ≤ 32 then
    match decodeBytes (wordBytes (BitVec.ofNat 32 (w % 2 ^ nbits))) with
    | .ok (i, _) => some i
    | .error _ => none
  else none

end

end Sys2Proof
end

