-- ==== Sys2Proof/Machine/Issue.lean ====
section
/-! DEFINITION. What stands before an instruction's own effect: the register fields of each instruction (R53-R63), the hint words that it accepts (R67-R72,
R99, R127, R145, R189, R222), when a unit is illegal (R73), repetitions (R70, R71), queue registers as operands (R172), what holds a unit back (R86, R191,
R215, R244), and the meanings of the hint words. -/

namespace Sys2Proof.Machine

/-- R70: the letters of a repeat prefix. -/
inductive Letter where
  | d | a | b | c
deriving DecidableEq, Repr

/-- What a field of a word names. -/
inductive FieldKind where
  /-- R53: an operand specifier -/
  | src
  /-- R54: a destination specifier -/
  | dst
  /-- R96, R226: a destination whose old value is an operand too -/
  | dstOld
  /-- R382, R397, R229: a block of n named registers, read or written -/
  | block (n : Nat) (reads writes : Bool)
  /-- R243: a constant-bank register -/
  | bank
  /-- v0-v15 -/
  | v
  /-- m0-m7 in a field of 4 bits -/
  | m
deriving DecidableEq, Repr

/-- A register field of a word: its letter, its lowest bit, what it names. -/
structure Field where
  letter : Letter
  low : Nat
  kind : FieldKind
deriving DecidableEq, Repr

/-- R56-R63: the register fields that an instruction uses, in field order. Those of the Ms format, d and then base, stand in that order too,
which R172 does not place (DESIGN CHOICE, assumption 112). -/
def fieldsOf : Sys2Proof.Instr → List Field
  | .add _ _ _ _ | .sub _ _ _ _ | .mul _ _ _ _ | .mulh _ _ _ _ | .div _ _ _ _ | .rem _ _ _ _ | .min _ _ _ _ | .max _ _ _ _ | .and _ _ _ _ | .or _ _ _ _
  | .xor _ _ _ _ | .shl _ _ _ _ | .shr _ _ _ _ | .sra _ _ _ _ | .ror _ _ _ _ | .bfx _ _ _ _ | .lea _ _ _ _ | .sel _ _ _ _ _ _ | .fadd _ _ _ _
  | .fsub _ _ _ _ | .fmul _ _ _ _ | .fmin _ _ _ _ | .fmax _ _ _ _ | .atomAdd _ _ _ _ | .atomMin _ _ _ _ | .atomMax _ _ _ _ | .atomAnd _ _ _ _
  | .atomOr _ _ _ _ | .atomXor _ _ _ _ | .atomExch _ _ _ _ | .elect _ _ _ _ | .xalloc _ _ _ | .sys _ _ _ => [⟨.d, 20, .dst⟩, ⟨.a, 14, .src⟩, ⟨.b, 8, .src⟩]
  | .neg _ _ _ | .abs _ _ _ | .not _ _ _ | .pcnt _ _ _ | .clz _ _ _ | .ctz _ _ _ | .brev _ _ _ | .mov _ _ _ | .addImm _ _ _ | .andImm _ _ _
  | .orImm _ _ _ | .xorImm _ _ _ | .shlImm _ _ _ | .shrImm _ _ _ | .sraImm _ _ _ | .sfnRcp _ _ _ | .sfnRsq _ _ _ | .sfnSqrt _ _ _ | .sfnExp2 _ _ _
  | .sfnLog2 _ _ _ | .sfnSin _ _ _ | .sfnCos _ _ _ | .sfnTanh _ _ _ | .fcvt _ _ _ _ | .ld _ _ _ _ | .ldt _ _ _ _ | .launch _ _ | .pquery _ _ => [⟨.d, 20, .dst⟩, ⟨.a, 14, .src⟩]
  | .mad _ _ _ _ | .bfi _ _ _ _ | .atomCas _ _ _ _ => [⟨.d, 20, .dstOld⟩, ⟨.a, 14, .src⟩, ⟨.b, 8, .src⟩]
  | .setpEq _ _ _ _ | .setpLt _ _ _ _ | .setpLe _ _ _ _ | .setpNe _ _ _ _ | .fsetpEq _ _ _ _ | .fsetpLt _ _ _ _ | .fsetpLe _ _ _ _ | .fsetpUn _ _ _ _
  | .pset _ _ | .spawn _ _ | .aredAdd _ _ _ | .aredMin _ _ _ | .aredMax _ _ _ | .aredAnd _ _ _ | .aredOr _ _ _ | .rngkey _ _ | .rngset _ _ | .shape _ _
  | .pinval _ _ | .metaz _ _ | .decomp _ _ | .markOpen _ _ => [⟨.a, 14, .src⟩, ⟨.b, 8, .src⟩]
  | .movImm _ _ | .getsv _ _ | .rng _ | .trapRd _ _ => [⟨.d, 20, .dst⟩]
  | .ffma _ _ _ _ _ => [⟨.d, 20, .dst⟩, ⟨.a, 14, .src⟩, ⟨.b, 8, .src⟩, ⟨.c, 2, .src⟩]
  | .bra _ | .brp _ _ _ | .call _ | .exit | .nop | .wideImmediateHint _ | .repeatPrefix _ _ _ _ _ | .hintNone | .hintYield | .hintJoin | .hintLong
  | .rareModifierHint _ _ _ _ | .repetition _ | .qfree _ | .queueReadAhead _ _ | .pfence | .pfenceDie | .loadDataReturn _ _ | .storeAccept _ _
  | .reconciliation _ | .compressedTileWrite _ _ | .await | .awaitStay | .kstTakeEffect _ | .bar _ | .swwaitPoll _ | .wait _ _ _ | .waitMxRy _ _
  | .gsetOpen _ | .gsetTakeEffect _ | .copyCommandStart _ | .copyRecordComplete _ | .mrdy | .matrixCommandStart _ | .matrixStepEnd _ | .matrixResume _
  | .matrixSelfTest _ _ _ | .rayComplete _ _ | .haloExchangeComplete _ | .reuseTileStart _ _ | .reuseTileRetire _ _ | .trapRet | .brk _ | .markClose
  | .convoyForming _ | .convoyPass _ _ | .convoyAgePromotion _ _ | .requestAgePromotion _ | .stallClear _ | .fibreGone _ | .groupPlacement _
  | .prologueBinding _ | .prologueComplete _ | .taskStart _ | .recordSteal _ _ | .parkedFibreSave _ | .localBoundaryStep _ _ | .stuckGroupFault _
  | .jointLaunch _ | .writeThenSignal _ | .signalStep _ | .waitOnValue _ | .waitValuePoll _ | .timestamp _ | .traceOpen _ | .traceClose _
  | .traceFlush _ | .queueResetPacket _ | .marker _ | .doorbellPoll _ | .eventWrite _ | .eventAckPoll _ | .sliceEnd _ | .contextSaved _
  | .contextSchedule _ | .dumpComplete _ | .createContext _ | .destroyContext _ | .createQueue _ | .destroyQueue _ | .resetQueue _ | .setSlice _
  | .serviceReply _ | .dumpRequest _ | .readCapabilityList _ | .attestationReport _ | .mailboxUnknownCode _ | .pageMigration _ _ _ _
  | .rdmaWrite _ _ _ _ | .rdmaRead _ _ _ _ | .rdmaFetchAdd _ _ _ _ | .rdmaCmpSwap _ _ _ _ _ | .rdmaUnsupported _ | .linkControlWrite _ | .linkEnable _
  | .linkTrainingComplete _ | .linkTrainingFail _ | .laneFailure _ | .linkRetrainComplete _ | .linkUnitLost _ | .remoteAccessRequest _ _ _
  | .pathDownTimeout _ | .flushMarker _ | .flushAck _ _ | .collectiveTraffic _ _ | .collectiveTimeout _ | .waymarkRetire _ | .traceSample _ _
  | .debugStop _ | .debugResume _ | .stepByTrap _ | .stepByStop _ | .stepOff _ | .debugDump _ | .stopComplete _ | .packageReset | .bootStepComplete _
  | .junctionLimit _ | .eccError _ _ | .targetedSelfTestDone _ _ | .illegalEncoding => []
  | .jmpi _ | .calli _ | .ret _ | .pushmN _ | .pushmV _ | .pushmM _ | .popmN _ | .popmV _ | .popmM _ | .setsv _ _ | .pref _ _ | .rngV _ _ | .reuse _
  | .tret _ | .xfree _ | .bxsum _ | .markTrace _ => [⟨.a, 14, .src⟩]
  | .vadd _ _ _ _ _ _ | .vsub _ _ _ _ _ _ | .vmul _ _ _ _ _ _ | .vdiv _ _ _ _ _ _ | .vmin _ _ _ _ _ _ | .vmax _ _ _ _ _ _ | .vfma _ _ _ _ _ _
  | .vand _ _ _ _ _ _ | .vor _ _ _ _ _ _ | .vxor _ _ _ _ _ _ | .vshl _ _ _ _ _ _ | .vshr _ _ _ _ _ _ | .vsra _ _ _ _ _ _ | .vsel _ _ _ _ _
  | .vperm _ _ _ _ _ => [⟨.d, 22, .v⟩, ⟨.a, 18, .v⟩, ⟨.b, 14, .v⟩]
  | .vabs _ _ _ _ _ | .vneg _ _ _ _ _ | .vmov _ _ _ _ | .vcoal _ _ | .vsfnRcp _ _ _ _ | .vsfnRsq _ _ _ _ | .vsfnSqrt _ _ _ _ | .vsfnExp2 _ _ _ _
  | .vsfnLog2 _ _ _ _ | .vsfnSin _ _ _ _ | .vsfnCos _ _ _ _ | .vsfnTanh _ _ _ _ | .vilv2 _ _ _ | .vilv3 _ _ _ | .vilv4 _ _ _ | .vdilv2 _ _ _
  | .vdilv3 _ _ _ | .vdilv4 _ _ _ | .vrev _ _ _ _ | .vsort _ _ _ _ | .vtopk _ _ _ _ | .vtopkI _ _ _ | .vredAdd _ _ _ _ | .vredMin _ _ _ _
  | .vredMax _ _ _ _ | .vredAnd _ _ _ _ | .vredOr _ _ _ _ | .vredXor _ _ _ _ | .vscanAdd _ _ _ _ _ | .vscanMin _ _ _ _ _ | .vscanMax _ _ _ _ _
  | .vscanAnd _ _ _ _ _ | .vscanOr _ _ _ _ _ | .vscanXor _ _ _ _ _ => [⟨.d, 22, .v⟩, ⟨.a, 18, .v⟩]
  | .vcmpEq _ _ _ _ _ _ | .vcmpNe _ _ _ _ _ _ | .vcmpLt _ _ _ _ _ _ | .vcmpLe _ _ _ _ _ _ | .vcmpUn _ _ _ _ _ _ => [⟨.d, 22, .m⟩, ⟨.a, 18, .v⟩, ⟨.b, 14, .v⟩]
  | .mand _ _ _ _ _ | .mor _ _ _ _ _ | .mxor _ _ _ _ _ => [⟨.d, 22, .m⟩, ⟨.a, 18, .m⟩, ⟨.b, 14, .m⟩]
  | .mnot _ _ _ _ => [⟨.d, 22, .m⟩, ⟨.a, 18, .m⟩]
  | .vaddS _ _ _ _ _ | .vsubS _ _ _ _ _ | .vmulS _ _ _ _ _ | .vdivS _ _ _ _ _ | .vminS _ _ _ _ _ | .vmaxS _ _ _ _ _ | .vfmaS _ _ _ _ _
  | .vandS _ _ _ _ _ | .vorS _ _ _ _ _ | .vxorS _ _ _ _ _ | .vshlS _ _ _ _ _ | .vshrS _ _ _ _ _ | .vsraS _ _ _ _ _ | .vsplat _ _ _ _ _
  | .shflIdx _ _ _ _ | .shflUp _ _ _ _ | .shflDown _ _ _ _ | .shflXor _ _ _ _ | .xredAdd _ _ _ _ | .xredMin _ _ _ _ | .xredMax _ _ _ _
  | .xredAnd _ _ _ _ | .xredOr _ _ _ _ | .xredXor _ _ _ _ | .vslideUp _ _ _ _ | .vslideDown _ _ _ _ | .vins _ _ _ => [⟨.d, 22, .v⟩, ⟨.a, 18, .v⟩, ⟨.b, 12, .src⟩]
  | .vlen _ _ | .vruns _ _ => [⟨.a, 18, .v⟩, ⟨.b, 12, .dst⟩]
  | .mpop _ _ | .mfirst _ _ => [⟨.a, 18, .m⟩, ⟨.b, 12, .dst⟩]
  | .vidx _ _ _ _ | .vsetl _ _ => [⟨.d, 22, .v⟩, ⟨.b, 12, .src⟩]
  | .voteAny _ _ _ _ | .voteAll _ _ _ _ | .qbind _ _ => [⟨.b, 12, .src⟩]
  | .voteBallot _ _ _ _ => [⟨.d, 22, .m⟩, ⟨.b, 12, .src⟩]
  | .vext _ _ => [⟨.a, 18, .v⟩, ⟨.b, 12, .src⟩]
  | .st _ _ _ _ => [⟨.d, 20, .src⟩, ⟨.a, 14, .src⟩]
  | .vld _ _ _ _ _ | .vldg _ _ _ _ _ _ | .vst _ _ _ _ _ | .vstg _ _ _ _ _ _ | .ldq _ _ _ _ _ | .stq _ _ _ _ _ _ => [⟨.a, 13, .src⟩]
  | .atomwLd _ _ => [⟨.d, 20, .block 2 false true⟩, ⟨.a, 14, .src⟩]
  | .atomwExch _ _ _ => [⟨.d, 20, .block 2 false true⟩, ⟨.a, 14, .src⟩, ⟨.b, 8, .block 2 true false⟩]
  | .atomwCas _ _ _ => [⟨.d, 20, .block 2 true true⟩, ⟨.a, 14, .src⟩, ⟨.b, 8, .block 2 true false⟩]
  | .kst _ _ => [⟨.a, 14, .src⟩, ⟨.b, 8, .bank⟩]
  | .barm _ | .mzero _ _ | .mwait _ => [⟨.a, 17, .src⟩]
  | .swinit _ _ | .swadd _ _ | .kick _ _ _ | .mew _ _ _ | .trace _ _ | .tracea _ _ => [⟨.a, 17, .src⟩, ⟨.b, 11, .src⟩]
  | .swwait _ _ _ => [⟨.a, 17, .src⟩, ⟨.b, 11, .src⟩, ⟨.c, 5, .dst⟩]
  | .gset _ _ => [⟨.b, 11, .src⟩]
  | .mma _ _ _ _ | .mld _ _ _ _ | .mst _ _ _ _ | .mqnt _ _ _ _ => [⟨.a, 17, .src⟩, ⟨.b, 11, .src⟩, ⟨.c, 5, .src⟩]
  | .traceR _ _ | .traceaR _ _ => [⟨.a, 17, .block 8 true false⟩, ⟨.b, 11, .src⟩]
  | .hitld _ _ _ => [⟨.a, 17, .dst⟩, ⟨.b, 11, .src⟩]
  | .lwalk _ _ _ => [⟨.a, 17, .dst⟩, ⟨.b, 11, .block 4 true false⟩, ⟨.c, 5, .src⟩]
  | .tex _ _ _ => [⟨.a, 17, .block 3 false true⟩, ⟨.b, 11, .src⟩, ⟨.c, 5, .block 2 true false⟩]
  | .texq _ _ _ => [⟨.a, 17, .dst⟩, ⟨.b, 11, .src⟩, ⟨.c, 5, .block 2 true false⟩]
  | .rsinit _ _ | .rsld _ _ => [⟨.d, 20, .block 4 false true⟩, ⟨.a, 14, .src⟩]
  | .rsadd _ _ _ => [⟨.d, 20, .block 4 true true⟩, ⟨.a, 14, .block 3 true false⟩, ⟨.b, 8, .src⟩]
  | .rsmerge _ _ _ => [⟨.d, 20, .block 4 true true⟩, ⟨.a, 14, .block 4 true false⟩, ⟨.b, 8, .src⟩]
  | .rsnorm _ => [⟨.d, 20, .block 4 true true⟩]
  | .rsst _ _ => [⟨.a, 14, .src⟩, ⟨.b, 8, .block 4 true false⟩]
  | .tcall _ _ _ => [⟨.d, 20, .dst⟩, ⟨.a, 14, .src⟩, ⟨.b, 8, .block 8 true false⟩]
  | .trapWr _ _ => [⟨.b, 8, .src⟩]
  | .vcvt _ _ _ _ sr _ _ _ | .vcvtSx _ _ _ _ sr _ _ _ =>
    if sr then [⟨.d, 22, .v⟩, ⟨.a, 18, .v⟩, ⟨.b, 14, .v⟩] else [⟨.d, 22, .v⟩, ⟨.a, 18, .v⟩]

/-- The width of a field. -/
def FieldKind.width : FieldKind → Nat
  | .src | .dst | .dstOld | .block _ _ _ | .bank => 6
  | .v | .m => 4

/-- The value of a field in a word. -/
def Field.get (fl : Field) (w : InsnWord) : Nat := w.toNat / 2 ^ fl.low % 2 ^ fl.kind.width

/-- A word with a field replaced. -/
def Field.set (fl : Field) (w : InsnWord) (v : Nat) : InsnWord := BitVec.ofNat 32 (w.toNat - fl.get w * 2 ^ fl.low + v * 2 ^ fl.low)

/-! ### Hint words -/

/-- R70: does the prefix step a letter? -/
def RepeatHint.steps (r : RepeatHint) : Letter → Bool
  | .d => r.sd
  | .a => r.sa
  | .b => r.sb
  | .c => r.sc

/-- R70: does a field hold a value that may be stepped up to `last`, in a window? -/
def steppable (kind : FieldKind) (start last window : Nat) : Bool :=
  match kind with
  | .src => (start < 16 && last < 16) || (16 ≤ start && start < 48 && last < 16 + window) || (48 ≤ start && last < 64)
  | .dst | .dstOld => 16 ≤ start && last < 16 + window
  | .block _ _ _ => false
  | .bank => last < 64
  | .v => last < 16
  | .m => last < 8

/-- R70: the steps of a prefix are legal on a word. -/
def stepsOk (r : RepeatHint) (fs : List Field) (w : InsnWord) (window : Nat) : Bool :=
  [Letter.d, .a, .b, .c].all fun l => !r.steps l || (fs.any (·.letter == l) && (fs.filter (·.letter == l)).all fun fl =>
    steppable fl.kind (fl.get w) (fl.get w + r.count - 1) window)

/-- R70: the word of repetition i. -/
def stepWord (r : RepeatHint) (fs : List Field) (w : InsnWord) (i : Nat) : InsnWord :=
  fs.foldl (fun w fl => if r.steps fl.letter then fl.set w (fl.get w + i) else w) w

/-- R94, R99, R102, R127, R145: the instructions that the chapters mark repeatable, by opcode and function. -/
def acceptsRepeat (w : InsnWord) : Bool :=
  let op := (opcodeOf w).toNat
  (0x01 ≤ op && op ≤ 0x14) || op = 0x1E || (0x20 ≤ op && op ≤ 0x2D) || (op = 0x2F && 12 ≤ w.toNat / 16 % 32 && w.toNat / 16 % 32 ≤ 15) ||
    (op = 0x38 && w.toNat / 16 % 16 = 8)

/-- R69, R99, R189: the instructions that accept a wide immediate. -/
def acceptsWide (i : Sys2Proof.Instr) (p : BitVec 24) : Bool :=
  match i with
  | .addImm _ _ _ | .andImm _ _ _ | .orImm _ _ _ | .xorImm _ _ _ | .movImm _ _ => true
  | .shlImm _ _ _ | .shrImm _ _ _ | .sraImm _ _ _ => p = 0
  | .ld _ _ _ _ | .st _ _ _ _ | .ldt _ _ _ _ | .pref _ _ | .vld _ _ _ _ _ | .vst _ _ _ _ _ => true
  | _ => false

/-- R94, R127, R145, R222: the instructions that accept `.sat`. -/
def acceptsSat (i : Sys2Proof.Instr) : Bool :=
  match i with
  | .add _ _ _ _ | .sub _ _ _ _ | .mul _ _ _ _ | .mad _ _ _ _ | .neg _ _ _ | .abs _ _ _ | .addImm _ _ _ => true
  | .vadd _ _ _ _ t _ | .vsub _ _ _ _ t _ | .vmul _ _ _ _ t _ | .vabs _ _ _ t _ | .vneg _ _ _ t _ | .vaddS _ _ _ _ t | .vsubS _ _ _ _ t
  | .vmulS _ _ _ _ t | .vredAdd _ _ _ t | .vscanAdd _ _ _ t _ | .xredAdd _ _ _ t | .atomAdd _ _ _ t | .aredAdd _ _ t => t.isInt
  | _ => false

/-- R94, R127, R145, R189, R222: the instructions that accept a rounding mode. (DEDUCED, assumption 21) -/
def acceptsRounding (i : Sys2Proof.Instr) : Bool :=
  match i with
  | .fadd _ _ _ _ | .fsub _ _ _ _ | .fmul _ _ _ _ | .fcvt _ _ _ _ | .ffma _ _ _ _ _ | .sfnRcp _ _ _ | .sfnRsq _ _ _ | .sfnSqrt _ _ _ | .sfnExp2 _ _ _
  | .sfnLog2 _ _ _ | .sfnSin _ _ _ | .sfnCos _ _ _ | .sfnTanh _ _ _ | .vsfnRcp _ _ _ _ | .vsfnRsq _ _ _ _ | .vsfnSqrt _ _ _ _ | .vsfnExp2 _ _ _ _
  | .vsfnLog2 _ _ _ _ | .vsfnSin _ _ _ _ | .vsfnCos _ _ _ _ | .vsfnTanh _ _ _ _ => true
  | .vadd _ _ _ _ t _ | .vsub _ _ _ _ t _ | .vmul _ _ _ _ t _ | .vdiv _ _ _ _ t _ | .vfma _ _ _ _ t _ | .vaddS _ _ _ _ t | .vsubS _ _ _ _ t
  | .vmulS _ _ _ _ t | .vdivS _ _ _ _ t | .vfmaS _ _ _ _ t | .vredAdd _ _ _ t | .vscanAdd _ _ _ t _ | .xredAdd _ _ _ t | .atomAdd _ _ _ t
  | .aredAdd _ _ t => t.isFloat
  | .vcvt _ _ _ _ sr _ t _ => !sr && t.isFloat
  | .vcvtSx _ _ _ _ sr _ _ _ | .stq _ _ _ _ sr _ => !sr
  | _ => false

/-- R189: the instructions that accept a cache policy. -/
def acceptsCache (i : Sys2Proof.Instr) : Bool :=
  match i with
  | .ld _ _ _ _ | .st _ _ _ _ | .pref _ _ | .vld _ _ _ _ _ | .vst _ _ _ _ _ | .vldg _ _ _ _ _ _ | .vstg _ _ _ _ _ _ | .ldq _ _ _ _ _
  | .stq _ _ _ _ _ _ => true
  | _ => false

/-- R222, R241, R247, R277, R307, R340, R361, R382, R397, R434, R439: from opcode 0x36 on an instruction accepts a rare-modifier word only where it accepts one
of its modifiers. -/
def acceptsRareWord (i : Sys2Proof.Instr) (w : InsnWord) : Bool := (opcodeOf w).toNat < 0x36 || acceptsSat i || acceptsRounding i

/-- R67, R72: the rare modifiers of a unit are accepted by its instruction. (DEDUCED, assumption 20) -/
def rareOk (h : Hints) (i : Sys2Proof.Instr) (w : InsnWord) : Bool :=
  (!h.sat || acceptsSat i) && (h.rnd.isNone || acceptsRounding i) && (h.cache = .default || acceptsCache i) &&
    (h.lastKind != some 3 || acceptsRareWord i w)

/-- R67, R70, R71: the meaning of a hint word: its kind rises and no more than three stand in one unit; else the unit is illegal. -/
def State.hintWord (s : State) (kind : Nat) (k : Hints → Hints) : Host.Outcome State Fault Refusal :=
  match s.issuing with
  | none => .fault .noIssuingFibre
  | some f =>
    match s.fibres.get? f with
    | none => .fault .noIssuingFibre
    | some x =>
      if x.hints.words < 3 && (match x.hints.lastKind with | some j => j < kind | none => true) then
        .next (s.setFibre f { x with pc := x.pc + 4, hints := { k x.hints with words := x.hints.words + 1, lastKind := some kind } })
      else .next (s.settle f x (.trap .illegal 0 0))

/-- R69. -/
def execWideImmediateHint (p : BitVec 24) (s : State) := s.hintWord 0 fun h => { h with wide := some p }
/-- R70. -/
def execRepeatPrefix (countM1 : Fin 64) (sd sa sb sc : Bool) (s : State) := s.hintWord 1 fun h => { h with rep := some ⟨countM1.val + 1, sd, sa, sb, sc⟩ }
/-- R68. (DEDUCED, assumption 10) -/
def execHintNone (s : State) := s.hintWord 2 fun h => { h with sched := some 0 }
/-- R68. -/
def execHintYield (s : State) := s.hintWord 2 fun h => { h with sched := some 1 }
/-- R68. -/
def execHintJoin (s : State) := s.hintWord 2 fun h => { h with sched := some 2 }
/-- R68. -/
def execHintLong (s : State) := s.hintWord 2 fun h => { h with sched := some 3 }
/-- R72. -/
def execRareModifierHint (en : Bool) (rnd : Rnd) (sat : Bool) (cache : CachePolicy) (s : State) :=
  s.hintWord 3 fun h => { h with rnd := if en then some rnd else none, sat := sat, cache := cache }

/-- R67: a hint word. -/
def isHint (w : InsnWord) : Bool := (opcodeOf w).toNat = 0x3F

/-! ### Legality -/

/-- R89, R170, R172, R382, R397: the registers that a field of a word names are in the window and in a class that may be read or written. (DEDUCED, assumption 16) -/
def fieldOk (x : Fibre) (fl : Field) (w : InsnWord) : Bool :=
  let c := fl.get w
  let bound (j : Nat) : Bool := 28 ≤ j && (x.queues.toList.getD (j - 28) none).isSome
  let named := 16 ≤ c && c < 48
  match fl.kind with
  | .src => (!named || (c - 16 < x.window && !(bound (c - 16) && c - 16 ≥ 30))) && (x.target.isNone || c < 48)
  | .dst => !named || (c - 16 < x.window && !(bound (c - 16) && c - 16 < 30))
  | .dstOld => !named || (c - 16 < x.window && !bound (c - 16))
  | .block n reads writes =>
    named && c - 16 + n ≤ x.window &&
      (List.range n).all fun i => !(bound (c - 16 + i)) || (!(reads && c - 16 + i ≥ 30) && !(writes && c - 16 + i < 30))
  | .bank | .v | .m => true

/-- R170: the queue register lies in the window. -/
def queueOkFor (x : Fibre) (i : Sys2Proof.Instr) : Bool :=
  match i with
  | .qbind q _ | .qfree q => 28 + q.val < x.window
  | _ => true

/-- R410: the instructions of a target program. -/
def targetOk (x : Fibre) (i : Sys2Proof.Instr) (w : InsnWord) : Bool :=
  match x.target with
  | none => true
  | some _ =>
    match i with
    | .bra _ | .brp _ _ _ | .ld _ _ _ _ | .ldt _ _ _ _ | .tret _ => true
    | _ => 0x01 ≤ (opcodeOf w).toNat && (opcodeOf w).toNat ≤ 0x14

/-- R73: the word is an instruction that the fibre may issue, as a decoder reads it. -/
def wordOkBy (dec : InsnWord → Option Sys2Proof.Instr) (x : Fibre) (w : InsnWord) : Bool :=
  match dec w with
  | none => false
  | some i => i.wf && (fieldsOf i).all (fun fl => fieldOk x fl w) && queueOkFor x i && targetOk x i w

/-- R67-R73: the unit of an instruction word is legal: the word, the hint words before it, and every repetition: one that is not makes the unit illegal before
repetition 0 (DESIGN CHOICE, assumption 101). -/
def unitOkBy (dec : InsnWord → Option Sys2Proof.Instr) (x : Fibre) (w : InsnWord) (i : Sys2Proof.Instr) : Bool :=
  wordOkBy dec x w && (match x.hints.wide with | some p => acceptsWide i p | none => true) && rareOk x.hints i w &&
    match x.hints.rep with
    | none => true
    | some r => acceptsRepeat w && stepsOk r (fieldsOf i) w x.window && (List.range r.count).all fun j => wordOkBy dec x (stepWord r (fieldsOf i) w j)

/-- R70: the word that the current repetition executes. -/
def currentWord (x : Fibre) (w : InsnWord) (i : Sys2Proof.Instr) : InsnWord :=
  match x.hints.rep with
  | none => w
  | some r => stepWord r (fieldsOf i) w x.rep

noncomputable section

/-- The decoder, without its reasons. (DEDUCED, assumption 82) -/
def decode? (w : InsnWord) : Option Sys2Proof.Instr := (decode w).toOption

/-- R73: the word is an instruction that the fibre may issue. -/
def wordOk (x : Fibre) (w : InsnWord) : Bool := wordOkBy decode? x w

/-- R67-R73: the unit of an instruction word is legal. -/
def unitOk (x : Fibre) (w : InsnWord) (i : Sys2Proof.Instr) : Bool := unitOkBy decode? x w i

end

/-- R71: the repetitions of the unit. (DEDUCED, assumption 19) -/
def Fibre.repetitions (x : Fibre) : Nat :=
  match x.hints.rep with
  | some r => r.count
  | none => 1

/-! ### Fetch -/

/-- R74, R190: fetch the word at pc. (DEDUCED, assumption 18) -/
def State.fetchWord (s : State) (f : Nat) (x : Fibre) : Except FaultCode (InsnWord × State) :=
  match s.locate f x { slice := false, detach := false } (x.pc.zeroExtend 64) 4 4 with
  | .error e => .error e
  | .ok (loc, t) =>
    if t.hasError f x 4 loc then .error .ecc
    else
      match t.readLoc f x loc 4 with
      | (none, _) => .error .decode
      | (some bs, t) => .ok (BitVec.ofNat 32 (natOfBytes bs), t)

/-! ### Queue registers as operands -/

/-- A constant register that no field of a word names, to hold an element popped (R172). -/
def spareBank (fs : List Field) (w : InsnWord) (used : List (Fin 16 × Word)) : Fin 16 :=
  match (List.finRange 16).find? fun j => !(used.any fun e => e.1 == j) && !(fs.any fun fl => fl.kind == .src && fl.get w == 48 + j.val) with
  | some j => j
  | none => 0

/-- What queue registers make of a unit that is about to issue. -/
inductive Popped where
  | ready (s : State) (x : Fibre) (w : InsnWord)
  | stall (why : Stall)
  | trap (code : FaultCode) (addr : Word)

/-- R172, R174, R175, R190: the next element of a load queue. One that has not been read ahead has not arrived; where its data cannot be read, it faults. -/
def State.nextElement (s : State) (f : Nat) (x : Fibre) (q : Fin 4) (b : QueueBinding) (k : Word → Popped) : Popped :=
  let skip := (x.pops.filter (· == q)).length
  match s.queueElement f x b skip false with
  | .error e => .trap e.1 e.2
  | .ok (loc, t) =>
    match b.ahead[skip]? with
    | some v => k v
    | none =>
      match t.elementFault f x b loc with
      | some e => .trap e loc.address
      | none => .stall (.queue q)

/-- R172, R397: a register of a block that is read: a bound load queue pops its next element there. -/
def State.popBlock (s : State) (f : Nat) (x : Fibre) (w : InsnWord) : List Nat → Popped
  | [] => .ready s x w
  | c :: cs =>
    let next (y : Fibre) : Popped := State.popBlock s f y w cs
    if c != 44 && c != 45 then next x
    else
      let q : Fin 4 := if c = 44 then 0 else 1
      match x.queues[q] with
      | none => next x
      | some b => s.nextElement f x q b fun v => next { x with named := x.named.setIfInBounds (c - 16) v, pops := x.pops ++ [q] }

/-- R172, R175: pop the elements that an operand field names. -/
def State.popField (s : State) (f : Nat) (x : Fibre) (w : InsnWord) (fs : List Field) (fl : Field) : Popped :=
  let c := fl.get w
  match fl.kind with
  | .src =>
    if c != 44 && c != 45 then .ready s x w
    else
      let q : Fin 4 := if c = 44 then 0 else 1
      match x.queues[q] with
      | none => .ready s x w
      | some b =>
        s.nextElement f x q b fun v =>
          let j := spareBank fs w x.popped
          .ready s { x with popped := x.popped ++ [(j, v)], pops := x.pops ++ [q] } (fl.set w (48 + j.val))
  | .block n true _ => s.popBlock f x w ((List.range n).map (c + ·))
  | .block _ false _ | .dst | .dstOld | .bank | .v | .m => .ready s x w

/-- R172, R269, R304: the pushes that a destination, or each register of a block that is written, makes. -/
def State.pushRegs (s : State) (f : Nat) (x : Fibre) (w : InsnWord) : List Nat → Popped
  | [] => .ready s x w
  | c :: cs =>
    if c != 46 && c != 47 then State.pushRegs s f x w cs
    else
      let q : Fin 4 := if c = 46 then 2 else 3
      match x.queues[q] with
      | none => State.pushRegs s f x w cs
      | some b =>
        if x.counts.st + x.pushing.length ≥ Config.counterLimit then .stall (.counter CountClass.st.index)
        else
          match s.queueElement f x b 0 true with
          | .error e => .trap e.1 e.2
          | .ok (loc, t) =>
            let write : List (Loc × List Byte) := [(loc, List.replicate (b.ty.width / 8) 0)]
            if !t.bufferRoom x (t.buffering f x (.store write 0)) then .trap .access loc.address
            else if t.specRoom f x write then State.pushRegs t f { x with pushing := x.pushing ++ [(q, b.ty, loc)] } w cs
            else .stall .specRoom

/-- R172: the pushes that a field names. -/
def State.pushField (s : State) (f : Nat) (x : Fibre) (w : InsnWord) (fl : Field) : Popped :=
  let c := fl.get w
  match fl.kind with
  | .dst => s.pushRegs f x w [c]
  | .block n _ true => s.pushRegs f x w ((List.range n).map (c + ·))
  | .block _ _ false | .src | .dstOld | .bank | .v | .m => .ready s x w

/-- R172: the pops and the pushes of a unit, in field order. -/
def State.queueOperands (s : State) (f : Nat) (x : Fibre) (w : InsnWord) (fs : List Field) : Popped :=
  fs.foldl
    (fun acc fl =>
      match acc with
      | .stall _ | .trap _ _ => acc
      | .ready s x w =>
        match s.popField f x w fs fl with
        | .ready s x w => s.pushField f x w fl
        | other => other)
    (.ready s x w)

/-! ### What holds a unit back -/

/-- R86: a register that an outstanding load writes. -/
def PendDest.names (d : PendDest) (c : Nat) : Bool :=
  match d with
  | .age pos => c == pos
  | .named j => c == 16 + j
  | .pair j => c == 16 + j || c == 17 + j
  | .pushAtReturn | .vec _ | .element _ _ | .none => false

/-- R191, R229, R393, R409: the registers that an outstanding operation writes, as specifiers. -/
def Pend.names (p : Pend) (c : Nat) : Bool :=
  match p.op, p.dest with
  | .value vs _, .named j => 16 + j ≤ c && c < 16 + j + Nat.max 1 vs.length
  | .rsLoad _ _, .named j => 16 + j ≤ c && c < 20 + j
  | _, d => d.names c

/-- The register specifiers that a field names. -/
def Field.specifiers (fl : Field) (w : InsnWord) : List Nat :=
  let c := fl.get w
  match fl.kind with
  | .src => [c]
  | .dst => if c = 0 then [] else [c]
  | .dstOld => [c]
  | .block n _ _ => (List.range n).map (c + ·)
  | .bank | .v | .m => []

/-- R38, R86, R109, R175, R203, R410: instructions that wait for every outstanding load: registers or flags that no field names, and writes that a read-ahead
must find. -/
def waitsForLoads (i : Sys2Proof.Instr) : Bool :=
  match i with
  | .qbind _ _ | .pushmN _ | .popmN _ | .spawn _ _ | .tcall _ _ _ | .getsv _ .flags | .setsv _ .flags => true
  | _ => false

/-- R93, R198, R212, R215: instructions that wait for the fibre's stores to be performed: release points, and uses of the flag word. (DEDUCED, assumption 25) -/
def waitsForStores (i : Sys2Proof.Instr) : Bool :=
  match i with
  | .bar _ | .barm _ | .spawn _ _ | .swadd _ _ | .kick _ _ _ | .gset _ _ | .gsetOpen _ | .launch _ _ | .shape _ _ | .xfree _ | .pinval _ _ | .sys _ _ _
  | .exit | .trace _ _ | .traceR _ _ | .tracea _ _ | .traceaR _ _ | .bxsum _ | .pfence | .pfenceDie | .reuse _ | .markOpen _ _ | .markClose
  | .mrdy | .mma _ _ _ _ | .mew _ _ _ | .qbind _ _ | .markTrace _ | .metaz _ _ | .decomp _ _ | .getsv _ .flags | .setsv _ .flags => true
  | _ => false

/-- R244, R203: the bank registers that an instruction reads. -/
def banksRead (fs : List Field) (w : InsnWord) (i : Sys2Proof.Instr) : List Nat :=
  match i with
  | .spawn _ _ => List.range 16
  | _ => fs.filterMap fun fl => if fl.kind == .src && fl.get w ≥ 48 then some (fl.get w - 48) else none

/-- R173: the queue register that `qfree` writes, as a specifier. -/
def queueWritten (i : Sys2Proof.Instr) : List Nat :=
  match i with
  | .qfree q => [44 + q.val]
  | _ => []

/-- R86, R191, R215: what the fibre waits for before a unit. (DEDUCED, assumption 26) -/
def Fibre.holdBack (x : Fibre) (w : InsnWord) (i : Sys2Proof.Instr) : Option Stall :=
  let specs := queueWritten i ++ (fieldsOf i).flatMap fun fl => fl.specifiers w
  if x.pend.any fun p => p.op.class == .ld && (p.hold || waitsForLoads i || specs.any p.names) then some .result
  else if waitsForStores i && x.pend.any fun p => p.op.class == .st then some .stores
  else none

/-- R244: has the fibre a write of its own to one of these bank registers that is not in effect? -/
def State.ownKst (s : State) (x : Fibre) (ks : List Nat) : Bool :=
  match s.groupOf x with
  | some g => g.bankWrites.any fun w => w.2.1 == x.fid && ks.contains w.2.2.1.val
  | none => false

noncomputable section

/-- The instruction word of the unit at pc and its instruction, as the fibre would reach it, when the unit is legal. -/
def State.lookAhead (s : State) (f : Nat) (x : Fibre) (fuel : Nat) : Option (InsnWord × Sys2Proof.Instr) :=
  match fuel with
  | 0 => none
  | fuel + 1 =>
    match s.fetchWord f x with
    | .error _ => none
    | .ok (w, t) =>
      if isHint w then
        match decode w with
        | .ok (.repeatPrefix n sd sa sb sc) =>
          t.lookAhead f { x with pc := x.pc + 4, hints := { x.hints with rep := some ⟨n.val + 1, sd, sa, sb, sc⟩ } } fuel
        | .ok _ => t.lookAhead f { x with pc := x.pc + 4 } fuel
        | .error _ => none
      else
        match decode w with
        | .error _ => none
        | .ok i =>
          let w' := currentWord x w i
          match decode w' with
          | .error _ => none
          | .ok j => some (w', j)

/-- R86: what a member waits for before its next unit. -/
def State.stallOf (s : State) (f : Nat) (x : Fibre) : Option Stall :=
  if !x.acquired.isEmpty then some .acquire
  else if x.pend.any fun p => p.op.class == .ld && p.hold then some .result
  else
    match s.lookAhead f x 4 with
    | none => none
    | some (w, i) =>
      match x.holdBack w i, s.queueOperands f x w (fieldsOf i) with
      | some why, _ => some why
      | none, .stall why => some why
      | none, _ => none

/-- R161, R172: a member as its pass begins, with the elements that its operands pop. -/
def State.prepared (s : State) (f : Nat) (x : Fibre) : Fibre :=
  match s.lookAhead f x 4 with
  | none => x
  | some (w, i) =>
    match s.queueOperands f x w (fieldsOf i) with
    | .ready _ y _ => y
    | .stall _ | .trap _ _ => x

/-- R244: does a pass wait for a member's own bank write? -/
def State.kstOf (s : State) (f : Nat) (x : Fibre) : Bool :=
  match s.lookAhead f x 4 with
  | none => false
  | some (w, i) => s.ownKst x (banksRead (fieldsOf i) w i)

/-- What the issuing member does with the word at its pc. -/
inductive Next where
  /-- execute an instruction -/
  | run (s : State) (i : Sys2Proof.Instr)
  /-- the next state is this one -/
  | finished (s : State)

/-- R52, R71-R74, R172, R300, R449: the issuing member f, in state x, takes the word at its pc: it is fetched, decoded and checked, and its queue operands are
made ready. -/
def State.takeWord (s : State) (f : Nat) (x : Fibre) : Next :=
  match x.bindingFault with
  | some b => .finished ((s.setFibre f { x with bindingFault := if s.trapWaits x then x.bindingFault else none }).takeTrap f x.unit x.rep .binding b.1 b.2.1 b.2.2).memberDone
  | none =>
    if x.stepDue then .finished (s.takeStep f).memberDone
    else if (match x.target with | some r => decide (256 ≤ r.units) && x.hints.words == 0 | none => false) then .finished (s.settle f x (.trap .tprogLimit 0 0))
    else
      match s.fetchWord f x with
      | .error e =>
        match x.target with
        | some _ => .finished (s.settle f x (.trap e (x.pc.zeroExtend 64) 0))
        | none => .finished (s.takeTrap f x.unit x.rep .fetch e (x.pc.zeroExtend 64) 0).memberDone
      | .ok (w, t) =>
        match decode w with
        | .error _ => .run t .illegalEncoding
        | .ok i =>
          if !i.wf then .run t .illegalEncoding
          else if isHint w then .run t i
          else if !unitOk x w i then .run t .illegalEncoding
          else if x.rep ≥ x.repetitions then .finished (t.settle f x (.done (t.setFibre f { x with rep := x.repetitions - 1 })))
          else
            match t.queueOperands f x (currentWord x w i) (fieldsOf i) with
            | .stall why => .finished (t.settle f x (.stall why))
            | .trap code addr => .finished (t.settle f x (.trap code addr 0))
            | .ready u y w' =>
              match decode w' with
              | .ok j => .run (u.setFibre f y) j
              | .error _ => .run t .illegalEncoding

end

/-- R73, R74: a word that is no assigned instruction, or a unit that is illegal, raises FLT_ILLEGAL at the unit. -/
def execIllegalEncoding (s : State) : Host.Outcome State Fault Refusal := s.issueWith fun _ _ => .trap .illegal 0 0

/-- R71: the repetition that a fibre has pending executes with its next word; as a step of its own it changes nothing more. -/
def Fibre.repetitionPending (x : Fibre) : Bool := x.rep != 0

end Sys2Proof.Machine
end

