-- ==== Sys2Proof/Machine/Reservoirs.lean ====
section
/-! DEFINITION. The generator and the reservoir record: MIX, DRAW (R395), rng and its keys (R396-R400), the record and its update arithmetic (R401-R406). -/

namespace Sys2Proof.Machine

/-! ### The generator -/

/-- R395. -/
def mixWord (x : Word) : Word :=
  let x := x ^^^ (x >>> 31)
  let x := x * 0xA3B195C72E6D4F09
  let x := x ^^^ (x >>> 29)
  let x := x * 0x5F1C7A2BD394E68B
  x ^^^ (x >>> 32)

/-- R395: DRAW. -/
def draw32 (key ctr : Word) : BitVec 32 := (mixWord (mixWord (ctr ^^^ key) ^^^ key.rotateLeft 32)).extractLsb' 32 32

/-- R399: the key of a seed and a lane word, and a counter of 0. -/
def execRngkey (a b : Src) (s : State) := s.own fun r x => { x with rkey := mixWord (r a ^^^ r b), rctr := 0 }

/-- R399. -/
def execRngset (a b : Src) (s : State) := s.own fun r x => { x with rkey := r a, rctr := r b }

/-- R400. -/
def execRng (d : Dst) (s : State) := s.own fun _ x => { x.write d ((draw32 x.rkey x.rctr).zeroExtend 64) with rctr := x.rctr + 1 }

/-- R400: the runs of L draws. -/
def drawRuns (key ctr : Word) (l : Nat) : Runs := (List.range l).map fun i => ⟨(draw32 key (ctr + BitVec.ofNat 64 i)).zeroExtend 64, 1⟩

/-- R400. -/
def execRngV (vd : VReg) (a : Src) (s : State) : Host.Outcome State Fault Refusal :=
  s.tryOwn fun r x =>
    let l := r a
    if l.toNat > 64 then .error .length
    else (x.writev (.v vd) (drawRuns x.rkey x.rctr l.toNat) 0 false).map fun y => { y with rctr := y.rctr + l }

/-! ### The record -/

/-- R401: a reservoir record. -/
structure Reservoir where
  y : BitVec 32
  aux : Word
  phat : BitVec 32
  wsum : BitVec 32
  w : BitVec 32
  m : BitVec 16
  age : Byte
  flags : Byte
  gen : BitVec 32
deriving DecidableEq, Repr

/-- R401: the null handle. -/
def nullHandle : BitVec 32 := 0xFFFFFFFF

/-- R403: a null record. -/
def Reservoir.null (gen : BitVec 32) : Reservoir := ⟨nullHandle, 0, 0, 0, 0, 0, 0, 0, gen⟩

/-- R401: the record in the words of a block; a block of three holds a candidate. -/
def Reservoir.ofWords (ws : List Word) : Reservoir :=
  let w (i : Nat) : Word := ws.getD i 0
  { y := (w 0).extractLsb' 0 32, aux := (w 1).extractLsb' 0 32 ++ (w 0).extractLsb' 32 32, phat := (w 1).extractLsb' 32 32, wsum := (w 2).extractLsb' 0 32,
    w := (w 2).extractLsb' 32 32, m := (w 3).extractLsb' 0 16, age := (w 3).extractLsb' 16 8, flags := (w 3).extractLsb' 24 8,
    gen := (w 3).extractLsb' 32 32 }

/-- R401: the words of a record. -/
def Reservoir.words (r : Reservoir) : List Word :=
  [r.aux.extractLsb' 0 32 ++ r.y, r.phat ++ r.aux.extractLsb' 32 32, r.w ++ r.wsum, r.gen ++ r.flags ++ r.age ++ r.m]

/-- R402: a NaN or a negative number reads as +0 and sets invalid; a zero is +0. -/
def amount (bits : BitVec 32) : Flagged XVal :=
  let x := exact .f32 (bits.zeroExtend 64)
  if x.isNan || (x.isNeg && !x.isZero) then (.fin false ⟨0, 0, false⟩, Flag.invalid)
  else if x.isZero then (.fin false ⟨0, 0, false⟩, 0#6)
  else (x, 0#6)

/-- RN32 of an exact value, as bits. (DEDUCED, assumption 50) -/
def rn32 (x : XVal) : Flagged (BitVec 32) := ((roundTo .f32 .rn x).1.extractLsb' 0 32, (roundTo .f32 .rn x).2)

/-- R402: the cap of a resampling word. -/
def capOf (b : Word) : Nat := if b.extractLsb' 32 16 = 0 then 65535 else (b.extractLsb' 32 16).toNat

/-- R402: the draw of a resampling word. -/
def drawField (b : Word) : Nat := (b.extractLsb' 0 32).toNat

/-- +infinity. -/
def isInf (x : XVal) : Bool := x == .inf false

/-- R404: is the candidate selected? Both products are exact. -/
def streamSelects (d : Nat) (w old ws : XVal) : Bool :=
  if isInf ws then isInf w && !isInf old
  else cmpX (mulX (exactInt d) ws).1 (mulX w (exactInt (2 ^ 32))).1 == .lt

/-- R404, R405: a candidate y, aux, p-hat of a weight is streamed; the confidence rises by `more`. -/
def Reservoir.stream (r c : Reservoir) (weight : BitVec 32) (d more cap : Nat) : Flagged (Reservoir × Bool) :=
  let w := amount weight
  let old := amount r.wsum
  let ws := rn32 (addX .rn old.1 w.1).1
  let sel := streamSelects d w.1 old.1 (exact .f32 (ws.1.zeroExtend 64))
  let r := if sel then { r with y := c.y, aux := c.aux, phat := c.phat } else r
  (({ r with wsum := ws.1, m := BitVec.ofNat 16 (Nat.min (Nat.min (r.m.toNat + more) cap) 65535), flags := r.flags &&& 0xFE }, sel), w.2 ||| old.2 ||| ws.2)

/-- R405: the weight with which a source is merged: one rounding of the exact product. -/
def Reservoir.mergeWeight (c : Reservoir) : Flagged (BitVec 32) :=
  let p := amount c.phat
  let w := amount c.w
  let v := (mulX p.1 w.1).andThen fun x => mulX x (exactInt c.m.toNat)
  let q := rn32 v.1
  (q.1, p.2 ||| w.2 ||| v.2 ||| q.2)

/-- R406: the null sample. -/
def Reservoir.nullSample (r : Reservoir) : Reservoir := { r with y := nullHandle, aux := 0, phat := 0, w := 0 }

/-- R406: normalise. -/
def Reservoir.normalise (r : Reservoir) : Flagged Reservoir :=
  let ws := amount r.wsum
  let p := amount r.phat
  let q := divX ws.1 (mulX (exactInt r.m.toNat) p.1).1
  let flags := ws.2 ||| p.2
  if ws.1.isZero || p.1.isZero || r.m = 0 then ({ r.nullSample with flags := r.flags ||| 1 }, flags)
  else if q.1.isNan then ({ r.nullSample with flags := r.flags ||| 1 }, flags ||| q.2)
  else ({ r with w := (rn32 q.1).1, flags := r.flags ||| 1 }, flags ||| q.2 ||| (rn32 q.1).2)

/-! ### The record instructions -/

/-- R397: the number of the first register of a block. -/
def blockStart : Dst → Nat
  | .n j => j.val
  | .push => 0

/-- R397: a block of n registers. -/
def Fibre.blockAt (x : Fibre) (j n : Nat) : List Word := (List.range n).map fun i => x.named.toList.getD (j + i) 0

/-- R397: the first register of a source block. -/
def sourceStart : Src → Nat
  | .n j => j.val
  | .a _ | .k _ => 0

/-- R398: an instruction that rewrites a record block. (DEDUCED, assumption 51) -/
def State.record (s : State) (j : Dst) (k : (Src → Word) → Fibre → Reservoir → Flagged Reservoir) : Host.Outcome State Fault Refusal :=
  s.own fun r x =>
    let v := k r x (Reservoir.ofWords (x.blockAt (blockStart j) 4))
    (x.setNamedFrom (blockStart j) v.1.words).orFlags v.2

/-- R403. -/
def execRsinit (j : Dst) (a : Src) (s : State) := s.record j fun r _ _ => (Reservoir.null ((r a).extractLsb' 0 32), 0#6)

/-- R404: the candidate's weight stands where a record has wsum. -/
def execRsadd (j : Dst) (a b : Src) (s : State) : Host.Outcome State Fault Refusal :=
  s.record j fun r x v =>
    let c := Reservoir.ofWords (x.blockAt (sourceStart a) 3)
    let t := v.stream c c.wsum (drawField (r b)) 1 (capOf (r b))
    (t.1.1, t.2)

/-- R405. -/
def execRsmerge (j : Dst) (a b : Src) (s : State) : Host.Outcome State Fault Refusal :=
  s.record j fun r x v =>
    let c := Reservoir.ofWords (x.blockAt (sourceStart a) 4)
    let w := c.mergeWeight
    let t := v.stream c w.1 (drawField (r b)) c.m.toNat (capOf (r b))
    (t.1.1, w.2 ||| t.2)

/-- R406. -/
def execRsnorm (j : Dst) (s : State) := s.record j fun _ _ v => v.normalise

/-! ### The store -/

/-- R409: the die and index that a store word names. -/
def State.storeWord (s : State) (c : Nat) (w : Word) : Option (Nat × Nat) :=
  let die := w.toNat / 2 ^ 24 % 2
  let index := w.toNat % 2 ^ 24
  if w.toNat / 2 ^ 25 = 0 && s.diesUp.contains die && index < s.storeRecords c then some (die, index) else none

/-- R409: counts with the loads; the block is written as the record returns. -/
def execRsld (j : Dst) (a : Src) (s : State) : Host.Outcome State Fault Refusal :=
  s.issueWith fun f x =>
    let w := x.read (s.bankOf x) a
    if x.full .ld then .stall (.counter CountClass.ld.index)
    else
      match s.storeWord x.context w with
      | none => .trap .access 0 0
      | some (die, index) => .done (s.setFibre f (x.addPend (.rsLoad die index) (.named (blockStart j)) (s.recordError x.context die index) .ld))

/-- R409: counts with the stores. -/
def execRsst (a b : Src) (s : State) : Host.Outcome State Fault Refusal :=
  s.issueWith fun f x =>
    let w := x.read (s.bankOf x) a
    if x.speculative then .stall .resolution
    else if x.full .st then .stall (.counter CountClass.st.index)
    else
      match s.storeWord x.context w with
      | none => .trap .access 0 0
      | some (die, index) => .done (s.setFibre f (x.addPend (.rsStore die index (x.blockAt (sourceStart b) 4)) .none false .st))

end Sys2Proof.Machine
end

