-- ==== Sys2Proof/Machine/Targets.lean ====
section
/-! DEFINITION. Target programs (R410-R412): `tcall` and `tret` in a fibre, and the evaluation that a reuse engine makes of the same program with the same
meanings. -/

namespace Sys2Proof.Machine

/-- R410, R411: a fibre as a target program finds it. -/
def Fibre.enterTarget (x : Fibre) (entry : BitVec 52) (rec : List Word) (d : Dst) : Fibre :=
  { x with
    target := some ⟨x.ages, x.named, x.window, x.preds, x.flags, x.pc, x.hints, d, 0⟩,
    ages := Vector.replicate 16 0, named := Vector.ofFn fun i : Fin 32 => if i.val < 8 then rec.getD i.val 0 else 0, window := 16, preds := 0, pc := entry,
    hints := {}, rep := 0 }

/-- R412: the fibre goes on inside the program; the call is over at its `tret`. -/
def execTcall (d : Dst) (a b : Src) (s : State) : Host.Outcome State Fault Refusal :=
  match s.issuing with
  | none => .fault .noIssuingFibre
  | some f =>
    match s.fibres.get? f with
    | none => .fault .noIssuingFibre
    | some x =>
      let entry := x.read (s.bankOf x) a
      if x.target.isSome then .next (s.settle f x (.trap .illegal 0 0))
      else if entry.toNat % 4 != 0 then .next (s.settle f x (.trap .align entry 0))
      else if entry.toNat ≥ 2 ^ 52 then .next (s.settle f x (.trap .translation entry 0))
      else .next (s.setFibre f (x.enterTarget (entry.setWidth 52) (x.blockAt (sourceStart b) 8) d))

/-- R397, R411: the program ends: the fibre is as its `tcall` issued, with the value in its destination. -/
def execTret (a : Src) (s : State) : Host.Outcome State Fault Refusal :=
  s.issueWith fun f x =>
    match x.target with
    | none => .trap .illegal 0 0
    | some r => .leave (s.setFibre f ((x.outOfTarget r).write r.dst (x.read (s.bankOf x) a)))

/-! ### Evaluation by an engine -/

/-- R410: the instructions of a target program, but for `tret`. -/
def targetDecode (w : InsnWord) : Option Sys2Proof.Instr :=
  (match (opcodeOf w).toNat with
    | 0x01 => decodeOp01 (FormatS.read w) | 0x02 => decodeOp02 (FormatS.read w) | 0x03 => decodeOp03 (FormatS.read w) | 0x04 => decodeOp04 (FormatS.read w)
    | 0x05 => decodeOp05 (FormatS.read w) | 0x06 => decodeOp06 (FormatS.read w) | 0x07 => decodeOp07 (FormatS.read w) | 0x08 => decodeOp08 (FormatI.read w)
    | 0x09 => decodeOp09 (FormatI.read w) | 0x0A => decodeOp0A (FormatI.read w) | 0x0B => decodeOp0B (FormatI.read w) | 0x0C => decodeOp0C (FormatI.read w)
    | 0x0D => decodeOp0D (FormatI.read w) | 0x0E => decodeOp0E (FormatI.read w) | 0x0F => decodeOp0F (FormatI.read w) | 0x10 => decodeOp10 (FormatS.read w)
    | 0x11 => decodeOp11 (FormatS.read w) | 0x12 => decodeOp12 (FormatS.read w) | 0x13 => decodeOp13 (FormatS.read w) | 0x14 => decodeOp14 (FormatT.read w)
    | 0x18 => decodeOp18 (FormatB.read w) | 0x19 => decodeOp19 (FormatB.read w) | 0x30 => decodeOp30 (FormatMs.read w) | 0x35 => decodeOp35 (FormatMs.read w)
    | _ => .error .unassignedFunction).toOption

/-- R410: the meaning of an instruction of a target program. -/
def targetExec (i : Sys2Proof.Instr) (s : State) : Host.Outcome State Fault Refusal :=
  match i with
  | .add d a b t => execAdd d a b t s
  | .sub d a b t => execSub d a b t s
  | .mul d a b t => execMul d a b t s
  | .mulh d a b t => execMulh d a b t s
  | .div d a b t => execDiv d a b t s
  | .rem d a b t => execRem d a b t s
  | .min d a b t => execMin d a b t s
  | .max d a b t => execMax d a b t s
  | .neg d a t => execNeg d a t s
  | .abs d a t => execAbs d a t s
  | .and d a b t => execAnd d a b t s
  | .or d a b t => execOr d a b t s
  | .xor d a b t => execXor d a b t s
  | .not d a t => execNot d a t s
  | .shl d a b t => execShl d a b t s
  | .shr d a b t => execShr d a b t s
  | .sra d a b t => execSra d a b t s
  | .ror d a b t => execRor d a b t s
  | .pcnt d a t => execPcnt d a t s
  | .clz d a t => execClz d a t s
  | .ctz d a t => execCtz d a t s
  | .brev d a t => execBrev d a t s
  | .mad d a b t => execMad d a b t s
  | .bfx d a b t => execBfx d a b t s
  | .bfi d a b t => execBfi d a b t s
  | .mov d a t => execMov d a t s
  | .lea d a b sh => execLea d a b sh s
  | .sel d a b neg p t => execSel d a b neg p t s
  | .setpEq a b p t => execSetpEq a b p t s
  | .setpLt a b p t => execSetpLt a b p t s
  | .setpLe a b p t => execSetpLe a b p t s
  | .setpNe a b p t => execSetpNe a b p t s
  | .addImm d a imm => execAddImm d a imm s
  | .andImm d a imm => execAndImm d a imm s
  | .orImm d a imm => execOrImm d a imm s
  | .xorImm d a imm => execXorImm d a imm s
  | .shlImm d a imm => execShlImm d a imm s
  | .shrImm d a imm => execShrImm d a imm s
  | .sraImm d a imm => execSraImm d a imm s
  | .movImm d imm => execMovImm d imm s
  | .fadd d a b t => execFadd d a b t s
  | .fsub d a b t => execFsub d a b t s
  | .fmul d a b t => execFmul d a b t s
  | .fmin d a b t => execFmin d a b t s
  | .fmax d a b t => execFmax d a b t s
  | .sfnRcp d a t => execSfnRcp d a t s
  | .sfnRsq d a t => execSfnRsq d a t s
  | .sfnSqrt d a t => execSfnSqrt d a t s
  | .sfnExp2 d a t => execSfnExp2 d a t s
  | .sfnLog2 d a t => execSfnLog2 d a t s
  | .sfnSin d a t => execSfnSin d a t s
  | .sfnCos d a t => execSfnCos d a t s
  | .sfnTanh d a t => execSfnTanh d a t s
  | .fcvt d a dt t => execFcvt d a dt t s
  | .fsetpEq a b p t => execFsetpEq a b p t s
  | .fsetpLt a b p t => execFsetpLt a b p t s
  | .fsetpLe a b p t => execFsetpLe a b p t s
  | .fsetpUn a b p t => execFsetpUn a b p t s
  | .ffma d a b c t => execFfma d a b c t s
  | .bra off => execBra off s
  | .brp neg p off => execBrp neg p off s
  | .ld d b t off => execLd d b t off s
  | .ldt d b t off => execLdt d b t off s
  | _ => s.issueWith fun _ _ => .trap .illegal 0 0

/-- R67-R72: a hint word: its kind and what it adds to the hint words of the unit; none when a reserved bit is set. -/
def hintOf (w : InsnWord) : Option (Nat × (Hints → Hints)) :=
  let p := w.toNat % 2 ^ 24
  match w.toNat / 2 ^ 24 % 4 with
  | 0 => some (0, fun h => { h with wide := some (w.extractLsb' 0 24) })
  | 1 =>
    if p % 2 ^ 14 != 0 then none
    else some (1, fun h => { h with rep := some ⟨p / 2 ^ 18 + 1, w.getLsbD 17, w.getLsbD 16, w.getLsbD 15, w.getLsbD 14⟩ })
  | 2 => if p > 3 then none else some (2, fun h => { h with sched := some p })
  | _ =>
    if p % 2 ^ 18 != 0 || (!w.getLsbD 23 && p / 2 ^ 21 % 4 != 0) then none
    else
      some (3, fun h =>
        { h with rnd := if w.getLsbD 23 then some (Rnd.ofCode (w.extractLsb' 21 2)) else none, sat := w.getLsbD 20,
                 cache := CachePolicy.ofCode (w.extractLsb' 18 2) })

/-- R397: a word is `tret`; its operand field. -/
def tretOf (w : InsnWord) : Option Field := if w.toNat &&& 0xFFF03FFF = 0xF40000C0 then some ⟨.a, 14, .src⟩ else none

/-- R411, R412: what an evaluation gives: the value with n1 and n2, or a fault and its address. -/
inductive Evaluated where
  | value (v n1 n2 : Word)
  | fault (code : Nat) (addr : Word)
deriving DecidableEq, Repr

/-- A word of the program, by the fibre that stands for the engine. -/
def State.targetStep (s : State) (f : Nat) (x : Fibre) : Except Evaluated State :=
  let fail (code : FaultCode) (addr : Word) : Except Evaluated State := .ok (s.settle f x (.trap code addr 0))
  if (match x.target with | some r => decide (256 ≤ r.units) && x.hints.words == 0 | none => false) then fail .tprogLimit 0
  else
    match s.fetchWord f x with
    | .error e => fail e (x.pc.zeroExtend 64)
    | .ok (w, _) =>
      if isHint w then
        match hintOf w with
        | none => fail .illegal 0
        | some (kind, k) =>
          if x.hints.words < 3 && (match x.hints.lastKind with | some j => j < kind | none => true) then
            .ok (s.setFibre f { x with pc := x.pc + 4, hints := { k x.hints with words := x.hints.words + 1, lastKind := some kind } })
          else fail .illegal 0
      else
        match tretOf w with
        | some fl =>
          if x.hints.wide.isSome || x.hints.rep.isSome || x.hints.lastKind = some 3 || !fieldOk x fl w then fail .illegal 0
          else .error (.value (x.read (Vector.replicate 16 0) (Src.ofCode (w.extractLsb' 14 6))) x.named[1] x.named[2])
        | none =>
          match targetDecode w with
          | none => fail .illegal 0
          | some i =>
            if !unitOkBy targetDecode x w i then fail .illegal 0
            else
              match targetDecode (currentWord x w i) with
              | none => fail .illegal 0
              | some j =>
                match targetExec j s with
                | .next t => .ok t
                | .fault _ | .refused _ => fail .illegal 0

/-- The words of a program, `fuel` of them at most: 256 units and repetitions have at most three hint words each. -/
def State.targetRun (s : State) (f fuel : Nat) : Evaluated :=
  match fuel with
  | 0 => .fault FaultCode.tprogLimit.code 0
  | fuel + 1 =>
    match s.fibres.get? f with
    | none => .fault FaultCode.illegal.code 0
    | some x =>
      if x.target.isNone then .fault (x.trap.code.toNat % 256) x.trap.addr
      else
        match s.targetStep f x with
        | .error e => e
        | .ok t => t.targetRun f fuel

/-- R412: an engine evaluates the program at an entry on an evaluation record of eight words, in a context, with the sampler of a core of its die. It works at
the homes: the core's L1 plays no part. The machine's state is as before (DESIGN CHOICE, assumption 4). -/
def State.evalTarget (s : State) (c core : Nat) (entry : Word) (rec : List Word) : Evaluated :=
  let f := s.fresh
  let x : Fibre :=
    { context := c, launch := f, group := none, core := core, fid := 0, life := .ready, pc := 0, ages := Vector.replicate 16 0, window := 16,
      named := Vector.replicate 32 0, vregs := Vector.replicate 16 [], masks := Vector.replicate 8 [], quota := 16,
      sp := BitVec.ofNat 52 stackBase, stackSize := 0, queues := Vector.replicate 4 none, bank := Vector.replicate 16 0, lineage := [], cls := 0 }
  let x := x.enterTarget (entry.setWidth 52) rec .push
  if entry.toNat % 4 != 0 then .fault FaultCode.align.code entry
  else if entry.toNat ≥ 2 ^ 52 then .fault FaultCode.translation.code entry
  else
    let k := s.core core
    let s := (s.setCore core { k with dirty := [], clean := [] }).updContext c fun k => { k with desc := { k.desc with tvec := 4 } }
    State.targetRun { s.setFibre f x with pass := some { core := core, convoy := 0, todo := [f], members := [f], snapshot := [] } } f 1100

end Sys2Proof.Machine
end

