-- ==== Sys2Proof/Machine/Reuse.lean ====
section
/-! DEFINITION. The reuse engine (R413-R420): `reuse`, the halo exchange, the tiles of a job and its end. -/

namespace Sys2Proof.Machine

/-! ### Submission -/

/-- R415: a job whose descriptor keeps the limits is accepted. -/
def State.acceptJob (s : State) (j : ReuseJob) : State × Nat := ({ s with jobs := s.jobs.put s.fresh j, fresh := s.fresh + 1 }, s.fresh)

/-- R415: how a job begins. (DEDUCED, assumption 53) -/
def State.firstState (s : State) : JobState := if bothLive s.diesUp then .exchange else .resampling

/-- R414. -/
def execReuse (a : Src) (s : State) : Host.Outcome State Fault Refusal :=
  s.issueWith fun f x =>
    let va := x.read (s.bankOf x) a
    if x.speculative then .stall .resolution
    else if va.toNat % 64 != 0 then .trap .align va 0
    else
      match fibreReader f x s va.toNat 128 with
      | .error e => .trap e.1 e.2 0
      | .ok (bs, t) =>
        if !jobOk s.diesUp (s.storeRecords x.context) bs then .trap .access va 0
        else
          let e := t.releaseOn x.core
          let root := match s.launches.get? x.launch with
            | some l => ((l.queue, l.packet), l.tag, l.slot)
            | none => ((0, 0), 0, 0)
          let j : ReuseJob :=
            { context := x.context, cls := x.cls, desc := bs, launch := some (x.launch, s.linearOf f), root := root.1, tag := root.2.1, slot := root.2.2,
              ordered := s.inOrdered x.launch, state := s.firstState, acquired := [e.2] }
          .done (e.1.acceptJob j).1

/-! ### The halo exchange -/

/-- R415: do both dies have what they need: the halo regions hold copies of records of the other die, at places that the manual leaves open. -/
def State.fillHalo (s : State) (own : Nat) (j : ReuseJob) : State :=
  let d := jobOf j.desc
  [0, 1].foldl (fun s die => (List.range (d.haloRecords s.diesUp die)).foldl (fun s i => s.blurRecord (some own) j.context die (d.haloBase + i)) s) s

/-- R415. -/
def execHaloExchangeComplete (j : Nat) (s : State) : Host.Outcome State Fault Refusal :=
  match s.jobs.get? j with
  | none => .next s
  | some k =>
    if k.state = .exchange then
      let a := s.engineAcquires k.acquired
      if a.2 then
        let s := a.1.fillHalo j k
        .next { s with jobs := s.jobs.put j { (s.jobs.get? j).getD k with state := .resampling } }
      else .next a.1
    else .next s

/-! ### One pixel -/

/-- R416: a participant: its number, its pixel, its record, and where the record lies. -/
structure Participant where
  i : Nat
  x : Nat
  y : Nat
  sample : Reservoir
  place : Nat × Nat
deriving DecidableEq, Repr

/-- For whom an engine evaluates: the job, its context, its die and the core whose caches and ray unit serve it. -/
structure Engine where
  job : JobDesc
  agent : Agent
  core : Nat
  live : List Nat

/-- R416: the key of a pixel's draws. -/
def JobDesc.key (j : JobDesc) (x y : Nat) : Word :=
  mixWord (j.seed ^^^ (j.frame.zeroExtend 64).rotateLeft 32 ^^^ (BitVec.ofNat 64 (y * j.w + x) <<< 16) ^^^ (BitVec.ofNat 64 j.pass <<< 8))

/-- R416: the offset of a neighbour in one coordinate, from a draw. -/
def JobDesc.offset (j : JobDesc) (draw : BitVec 32) : Int := ((draw.toNat * (2 * j.radius + 1) / 2 ^ 32 : Nat) : Int) - j.radius

/-- R416: is a pixel in the frame? -/
def JobDesc.inFrame (j : JobDesc) (x y : Int) : Option (Nat × Nat) :=
  if 0 ≤ x && x < j.w && 0 ≤ y && y < j.h then some (x.toNat, y.toNat) else none

/-- R416: the pixels whose records a pixel reads, with their slots, but for its own: the temporal one, and the neighbours. -/
def JobDesc.reads (j : JobDesc) (x y : Nat) (motion : List Byte) : List (Nat × Nat × Nat × Nat) :=
  let key := j.key x y
  let own := [(0, x, y, j.islot)]
  let temporal :=
    if j.temporal then
      match j.inFrame (x - signedFieldOf motion 0 2) (y - signedFieldOf motion 2 2) with
      | some q => [(1, q.1, q.2, j.hslot)]
      | none => []
    else []
  let neighbours := (List.range j.k).filterMap fun n =>
    match j.inFrame (x + j.offset (draw32 key (BitVec.ofNat 64 (2 * n)))) (y + j.offset (draw32 key (BitVec.ofNat 64 (2 * n + 1)))) with
    | some q => if q = (x, y) then none else some (2 + n, q.1, q.2, j.islot)
    | none => none
  own ++ temporal ++ neighbours

/-- R416, R418: the records read for a pixel of a die and whether a halo copy may serve one, and the participants: those whose sample is not null. -/
def State.participants (s : State) (e : Engine) (die : Nat) (rs : List (Nat × Nat × Nat × Nat)) : (List (Nat × Nat) × Bool) × List Participant :=
  let got := rs.map fun r =>
    let at_ := e.job.record e.live e.job.input r.2.1 r.2.2.1 r.2.2.2
    (⟨r.1, r.2.1, r.2.2.1, Reservoir.ofWords (s.readRecord e.agent.context at_.1 at_.2), at_⟩ : Participant)
  ((got.map (·.place), got.any fun p => p.place.1 != die && e.job.copied e.live p.x p.y), got.filter fun p => p.sample.y != nullHandle)

/-- A fault of a pixel: its code and address (R337). -/
abbrev PixelFault := Nat × Word

/-- R413: the surface record of a pixel. -/
def State.surface (s : State) (e : Engine) (x y : Nat) : Except PixelFault (List Byte) :=
  match s.engineRange e.agent (e.job.surface + 32 * (y * e.job.w + x)) 32 with
  | .error f => .error (f.1.code, f.2)
  | .ok (bs, _) => .ok bs

/-- R402: the bits of a target value as they count. -/
def saneBits (b : BitVec 32) : BitVec 32 := if (amount b).1.isZero then 0 else b

/-- R411: the target program on a sample at a pixel: p-hat, n1 and n2. -/
def State.targetAt (s : State) (e : Engine) (x y : Nat) (r : Reservoir) : Except PixelFault (BitVec 32 × Word × Word) := do
  let surface ← s.surface e x y
  let bytes := surface ++ bytesOfNat 4 r.y.toNat ++ bytesOfNat 8 r.aux.toNat ++ bytesOfNat 2 x ++ bytesOfNat 2 y ++ List.replicate 16 0
  match s.evalTarget e.agent.context e.core e.job.entry ((List.range 8).map fun i => wordFieldOf bytes (8 * i)) with
  | .fault c a => .error (c, a)
  | .value v n1 n2 => return (saneBits (v.extractLsb' 0 32), n1, n2)

/-- R416, P(j, i): the target value of participant i's sample at a participant's pixel. -/
def State.targetValue (s : State) (e : Engine) (j i : Participant) : Except PixelFault (BitVec 32) :=
  if j.i = i.i then .ok (saneBits i.sample.phat) else (s.targetAt e j.x j.y i.sample).map (·.1)

/-- R417: the visibility ray of a participant, from the receiving pixel's surface record and n1 and n2. -/
def JobDesc.visibilityRay (j : JobDesc) (surface : List Byte) (n1 n2 : Word) : List Byte :=
  surface.take 24 ++ bytesOfNat 8 n1.toNat ++ bytesOfNat 4 (n2.extractLsb' 0 32).toNat ++ (surface.drop 24).take 4 ++ bytesOfNat 4 (n2.extractLsb' 32 32).toNat ++
    [0xFF, 0, 0, 0] ++ bytesOfNat 8 j.scene ++ List.replicate 8 0

/-- R417: what a hit record says of a participant. -/
def JobDesc.visible (j : JobDesc) (hit : List Byte) (r : Reservoir) : Bool :=
  let status := fieldOf hit 24 1
  if j.vis = 1 then status = 0 else (status = 1 || status = 2) && fieldOf hit 12 4 + 2 ^ 32 * fieldOf hit 16 4 = r.aux.toNat

/-- R417: VIS: the verdict, and the fault of a ray that ended with status 5. -/
def State.visibility (s : State) (e : Engine) (x y : Nat) (p : Participant) : Except PixelFault (Bool × Option PixelFault) := do
  if p.i = 0 || e.job.vis = 0 then return (true, none)
  let (_, n1, n2) ← s.targetAt e x y p.sample
  let surface ← s.surface e x y
  match rayOf (e.job.visibilityRay surface n1 n2) with
  | none => return (false, none)
  | some r =>
    let loose := (List.range 32).map fun b => Config.looseRay s.freeCount (y * e.job.w + x) p.i b
    let hit := (traceRay (s.sceneReader { core := e.core, context := e.agent.context }) r (e.job.vis = 1) loose).1
    return (e.job.visible hit p.sample, if fieldOf hit 24 1 = 5 then some (fieldOf hit 25 1, wordFieldOf hit 4) else none)

/-- R416: the sum of M_j * P(j, i). -/
def State.balance (s : State) (e : Engine) (i : Participant) : List Participant → XVal → Except PixelFault XVal
  | [], d => .ok d
  | j :: js, d => do
    let p ← s.targetValue e j i
    State.balance s e i js (addX .rn d (mulX (exactInt j.sample.m.toNat) (amount p).1).1).1

/-- R416: the weight of a participant: one rounding of the exact quotient, and +0 where D is 0. -/
def balanceWeight (r : Reservoir) (own atP : BitVec 32) (v : Bool) (d : XVal) : BitVec 32 :=
  let num := [(amount own).1, (amount atP).1, (amount r.w).1, exactInt (if v then 1 else 0)].foldl (fun acc x => (mulX acc x).1) (exactInt r.m.toNat)
  if d.isZero then 0 else (rn32 (divX num d).1).1

/-- R416: what the streaming of a pixel's participants has come to: the record, the participant selected, the first fault, and whether the pixel is lost. -/
structure PixelRun where
  res : Reservoir
  sel : Option Participant := none
  fault : Option PixelFault := none
  lost : Bool := false

/-- The run with a fault; the first stays. -/
def PixelRun.faulted (r : PixelRun) (f : Option PixelFault) : PixelRun := { r with fault := r.fault.or f }

/-- R416: one participant is streamed. -/
def State.streamOne (s : State) (e : Engine) (x y : Nat) (g : List Participant) (run : PixelRun) (p : Participant) : PixelRun :=
  if run.lost then run
  else
    match s.visibility e x y p with
    | .error f => { run.faulted (some f) with lost := true }
    | .ok (v, f) =>
      let run := run.faulted f
      let receiver : Participant := { p with i := 0, x := x, y := y }
      let weighed : Except PixelFault (BitVec 32 × BitVec 32) := do
        let d ← s.balance e p g (exactInt 0)
        let atP ← s.targetValue e receiver p
        return (atP, balanceWeight p.sample (saneBits p.sample.phat) atP v d)
      match weighed with
      | .error f => { run.faulted (some f) with lost := true }
      | .ok (atP, w) =>
        let t := (run.res.stream { p.sample with phat := atP } w (draw32 (e.job.key x y) (BitVec.ofNat 64 (16 + p.i))).toNat 1 65535).1
        { run with res := t.1, sel := if t.2 then some p else run.sel }

/-- R416: the flags of a result. -/
def JobDesc.resultFlags (j : JobDesc) (x y : Nat) (g : List Participant) (sel : Option Participant) : Byte :=
  let bit (b : Bool) (n : Nat) : Nat := if b then n else 0
  BitVec.ofNat 8
    (1 + bit (g.any (·.i == 1)) 2 + bit (g.any fun p => p.i ≥ 2) 4 + bit (j.vis != 0) 8 +
      bit (match sel with | some p => p.x / 64 != x / 64 || p.y / 64 != y / 64 | none => false) 16)

/-- R416: the record of a pixel from its participants, after streaming. -/
def JobDesc.result (j : JobDesc) (x y : Nat) (g : List Participant) (run : PixelRun) : Reservoir :=
  let cap := if j.mcap = 0 then 65535 else j.mcap
  let q := divX (amount run.res.wsum).1 (amount run.res.phat).1
  let r := { run.res with m := BitVec.ofNat 16 (Nat.min (Nat.min (g.map fun (p : Participant) => p.sample.m.toNat).sum cap) 65535) }
  let isNull := (amount r.wsum).1.isZero || (amount r.phat).1.isZero || q.1.isNan
  let r := if isNull then r.nullSample else { r with w := (rn32 q.1).1 }
  { r with
    flags := j.resultFlags x y g run.sel,
    age := match run.sel with
      | some p => if isNull then 0 else BitVec.ofNat 8 (Nat.min (p.sample.age.toNat + 1) 255)
      | none => 0 }

/-- R416, R419: one pixel: the records read, its record, and its first fault. -/
def State.pixel (s : State) (e : Engine) (x y : Nat) : (List (Nat × Nat) × Bool) × Reservoir × Option PixelFault :=
  let own := e.job.record e.live e.job.input x y e.job.islot
  let lost := Reservoir.null e.job.frame
  let motion := if e.job.temporal then s.engineRange e.agent (e.job.motion + 4 * (y * e.job.w + x)) 4 else .ok ([], s)
  match motion with
  | .error f => (([own], false), lost, some (f.1.code, f.2))
  | .ok (mv, _) =>
    let p := s.participants e own.1 (e.job.reads x y mv)
    if p.1.1.any fun r => s.recordError e.agent.context r.1 r.2 then (p.1, lost, some (FaultCode.ecc.code, 0))
    else
    let run := p.2.foldl (fun run q => s.streamOne e x y p.2 run q) { res := lost }
    (p.1, if run.lost then lost else e.job.result x y p.2 run, run.fault)

/-! ### Tiles -/

/-- R419: the first of two faults. -/
def firstFault (a b : Option (Nat × Nat × Nat × Nat × Word)) : Option (Nat × Nat × Nat × Nat × Word) :=
  match a, b with
  | some p, some q =>
    if p.1 < q.1 || (p.1 = q.1 && (p.2.1 < q.2.1 || (p.2.1 = q.2.1 && p.2.2.1 ≤ q.2.2.1))) then some p else some q
  | some p, none => some p
  | none, q => q

/-- R415: the pixels of a tile, by frame pixel index. -/
def JobDesc.tilePixels (j : JobDesc) (tile : Nat) : List (Nat × Nat) :=
  ((List.range 8).flatMap fun dy => (List.range 8).map fun dx => (tile % j.tilesX * 8 + dx, tile / j.tilesX * 8 + dy)).filter fun p => p.1 < j.w && p.2 < j.h

/-- R413: is a tile in the range of a job? -/
def JobDesc.inRange (j : JobDesc) (tile : Nat) : Bool :=
  let tx := tile % j.tilesX
  let ty := tile / j.tilesX
  j.tx0 ≤ tx && tx < j.tx0 + j.tw && j.ty0 ≤ ty && ty < j.ty0 + j.th

/-- R416: one pixel is resampled: its record is written. -/
def State.writePixel (s : State) (k tile : Nat) (e : Engine) (p : Nat × Nat) : State :=
  let r := s.pixel e p.1 p.2
  let out := e.job.record e.live e.job.output p.1 p.2 e.job.oslot
  match s.jobs.get? k with
  | none => s
  | some j =>
    let fault := r.2.2.map fun f => (tile, p.2 * e.job.w + p.1, 0, f.1, f.2)
    let s := { s with jobs := s.jobs.put k { j with outputs := (out.1, out.2, r.1) :: j.outputs, fault := firstFault j.fault fault } }
    if j.spoilt out.1 r.1 then s.blurRecord none j.context out.1 out.2 else s.writeRecord j.context out.1 out.2 r.2.1.words

/-- R415, R16: may an engine take a tile: of a job that resamples, in its range, not yet taken, with an engine of its die free and its context running? -/
def State.tileReady (s : State) (j : ReuseJob) (tile : Nat) : Bool :=
  let d := jobOf j.desc
  let busy := (s.jobs.map fun e =>
    ((e.2.written.filter fun t => !e.2.retired.contains t).filter fun t => s.tileDie (jobOf e.2.desc) t == s.tileDie d tile).length).sum
  j.state == .resampling && d.inRange tile && !j.written.contains tile && s.contextRuns j.context && busy < 16

/-- R21: since when a tile waits for its ray unit. -/
def ReuseJob.waitsSince (j : ReuseJob) (tile : Nat) : Option Nat := (j.waits.find? fun w => w.1 == tile).map (·.2)

/-- R21: is it the turn of a tile's visibility rays at their ray unit? -/
def State.tileTurn (s : State) (j : ReuseJob) (tile : Nat) : Bool :=
  let d := jobOf j.desc
  let core := s.serving (s.tileDie d tile)
  let now := (s.core core).clock
  let since := (j.waitsSince tile).getD now
  d.vis = 0 || s.rayTurn core j.cls (now ≥ since + 1024) since

/-- R415, R21: may a tile start now? -/
def State.tileOpen (s : State) (j : ReuseJob) (tile : Nat) : Bool := s.tileReady j tile && s.tileTurn j tile

/-- R416, R21: a tile that finds its ray unit taken waits there with its age. -/
def execReuseTileStart (j tile : Nat) (s : State) : Host.Outcome State Fault Refusal :=
  match s.jobs.get? j with
  | none => .next s
  | some k =>
    if !s.tileReady k tile then .next s
    else if !s.tileTurn k tile then
      let now := (s.core (s.serving (s.tileDie (jobOf k.desc) tile))).clock
      .next (if (k.waitsSince tile).isSome then s else { s with jobs := s.jobs.put j { k with waits := k.waits ++ [(tile, now)] } })
    else
      let d := jobOf k.desc
      let die := s.tileDie d tile
      let e : Engine :=
        { job := d, agent := { die := die, context := k.context, launch := k.launch, ordered := k.ordered }, core := s.serving die, live := s.diesUp }
      let a := s.engineAcquires k.acquired
      if !a.2 then .next a.1
      else
      let s := a.1
      let s := { s with freeCount := s.freeCount + 1 }
      let s := (d.tilePixels tile).foldl (fun s p => s.writePixel j tile e p) s
      match s.jobs.get? j with
      | none => .next s
      | some k => .next { s with jobs := s.jobs.put j { k with written := tile :: k.written, waits := k.waits.filter fun w => w.1 != tile } }

/-- R332: a kind-13 event of a job. -/
def State.jobEvent (s : State) (j : ReuseJob) (code : FaultCode) : State :=
  let own := match j.packet with
    | some (q, n) => match s.queues.get? q with
      | some k => (k.packets.find? fun (p : Packet) => p.number == n).map fun (p : Packet) => (p.tag, p.identity)
      | none => none
    | none => none
  let name := own.getD (j.tag, j.slot)
  s.contextEvent j.context
    { kind := 13, status := code.code, queue := j.root.1, tag := name.1, low := BitVec.ofNat 32 name.2,
      high := BitVec.ofNat 32 (match j.launch with | some l => l.2 | none => 0), word := BitVec.ofNat 64 s.time }

/-- R419: the value of a status word. -/
def ReuseJob.statusWord (j : ReuseJob) (status : Nat) : Nat :=
  match j.fault with
  | some f => status * 2 ^ 60 + f.2.2.2.1 % 256 * 2 ^ 52 + f.2.2.2.2.toNat % 2 ^ 52
  | none => status * 2 ^ 60

/-- R415, R419, R323: a job is Done: its status word is written, and its part of a packet ends. -/
def State.endJob (s : State) (k : Nat) (j : ReuseJob) (status : Nat) : State :=
  let d := jobOf j.desc
  let ag : Agent := { die := s.diesUp.headD 0, context := j.context, launch := j.launch, ordered := j.ordered }
  let s :=
    if d.status = 0 then s
    else
      match s.engineLocate ag d.status.toNat 8 true with
      | .error e => s.jobEvent j e
      | .ok (l, t) => (t.engineWrite ag l (bytesOfNat 8 (j.statusWord status))).getD t
  let s := { s with jobs := s.jobs.del k }
  let s := match j.packet with
    | some (q, n) =>
      s.packetPart q n fun p =>
        { p with
          statuses := p.statuses ++ [if status = 3 then 5 else if status = 1 then 4 else 0], parts := { p.parts with reuse := none },
          acquired := addEdges 193 p.acquired [homeEdge] }
    | none => s
  s.restContext j.context

/-- R415: the tiles of a job's range. -/
def JobDesc.rangeTiles (j : JobDesc) : List Nat := (List.range j.th).flatMap fun dy => (List.range j.tw).map fun dx => (j.ty0 + dy) * j.tilesX + j.tx0 + dx

/-- R415, R420, R484: a tile retires: its addition is made. -/
def State.retireTile (s : State) (j tile : Nat) (k : ReuseJob) : ReuseJob × State :=
  let d := jobOf k.desc
  let die := s.tileDie d tile
  let added := if d.sync = 0 then .ok s else s.engineAdd die k.context k.ordered d.sync 2048 []
  let lowest := match d.tilePixels tile with
    | p :: _ => p.2 * d.w + p.1
    | [] => 0
  let r := match added with
    | .ok t => (t, k.fault)
    | .error e => (s, firstFault k.fault (some (tile, lowest, 1, e.code, d.sync)))
  let k := { k with retired := tile :: k.retired, fault := r.2 }
  (k, { r.1 with jobs := r.1.jobs.put j k })

/-- R415: the job is Done with its last tile. -/
def execReuseTileRetire (j tile : Nat) (s : State) : Host.Outcome State Fault Refusal :=
  match s.jobs.get? j with
  | none => .next s
  | some k =>
    if !k.written.contains tile || k.retired.contains tile then .next s
    else
      let r := s.retireTile j tile k
      if (jobOf k.desc).rangeTiles.all r.1.retired.contains then .next (r.2.endJob j r.1 (if r.1.fault.isSome then 1 else 0)) else .next r.2

/-- R329, R415, R422: a job's started tiles complete, the others are dropped, and it is Done with status 3. -/
def State.dropJob (s : State) (k : Nat) : State :=
  match s.jobs.get? k with
  | some j =>
    let r := (j.written.filter fun t => !j.retired.contains t).foldl (fun (r : ReuseJob × State) t => r.2.retireTile k t r.1) (j, s)
    r.2.endJob k r.1 3
  | none => s

end Sys2Proof.Machine
end

