-- ==== Sys2Proof/Machine/Collective.lean ====
section
/-! DEFINITION. The collective engine (R429-R434): `bxsum`, what other members send, and how a collective ends. -/

namespace Sys2Proof.Machine

/-- R429: a collective descriptor. -/
structure CollectiveDesc where
  topk : Bool
  type : Nat
  sources : Nat
  count : Nat
  tag : Nat
  k : Nat
  src : Nat
  sstride : Nat
  dst : Nat
  table : Nat
  members : Nat
  rank : Nat
  timeout : Nat
  sync : Word
  status : Word
deriving DecidableEq, Repr

/-- R429: its fields. -/
def collectiveOf (d : List Byte) : CollectiveDesc :=
  { topk := fieldOf d 0 1 = 1, type := fieldOf d 1 1, sources := fieldOf d 2 1, count := fieldOf d 4 4, tag := fieldOf d 8 4, k := fieldOf d 12 4,
    src := fieldOf d 16 8, sstride := fieldOf d 24 8, dst := fieldOf d 32 8, table := fieldOf d 40 8, members := fieldOf d 48 2, rank := fieldOf d 50 2,
    timeout := fieldOf d 52 2, sync := wordFieldOf d 56, status := wordFieldOf d 64 }

/-- R429: the element type. -/
def CollectiveDesc.ty (c : CollectiveDesc) : Ty := (tyOfCode c.type).getD .f32

/-- R429: bytes of an element. -/
def CollectiveDesc.size (c : CollectiveDesc) : Nat := c.ty.width / 8

/-- R429: the limits of a descriptor, but for the member table. -/
def collectiveOk (d : List Byte) : Bool :=
  let c := collectiveOf d
  fieldOf d 0 1 ≤ 1 && (if c.topk then c.type ≤ 5 || c.type = 8 || c.type = 9 else c.type = 4 || c.type = 5) && 1 ≤ c.sources && c.sources ≤ 16 &&
    zeroBytes d 3 1 && 1 ≤ c.count && c.count ≤ 2 ^ 28 &&
    (if c.topk then 1 ≤ c.k && c.k ≤ 65536 && c.k ≤ c.count * c.sources * c.members else c.k = 0) && c.src % c.size = 0 && c.sstride % c.size = 0 &&
    c.dst % 8 = 0 && c.table % 2 = 0 && 1 ≤ c.members && c.members ≤ 4096 && c.rank < c.members && zeroBytes d 54 2 && c.sync.toNat % 32 = 0 &&
    c.status.toNat % 8 = 0 && zeroBytes d 72 56

/-- R429: the member table: ids distinct and below the domain size, with the package's own at its rank. -/
def tableOk (domain own rank : Nat) (table : List Nat) : Bool :=
  table.all (· < domain) && (distinct table).length == table.length && table[rank]? == some own

/-- R431, R432: the parts of a result, by offset and length: the elements, and for a top-k the indices. -/
def CollectiveDesc.parts (c : CollectiveDesc) : List (Nat × Nat) :=
  if c.topk then [(0, c.k * c.size), ((c.k * c.size + 7) / 8 * 8, 8 * c.k)] else [(0, c.count * c.size)]

/-- The bytes of a result. -/
def CollectiveDesc.resultBytes (c : CollectiveDesc) : Nat := (c.parts.map (·.2)).sum

/-- The lines, or parts of lines, that a result is written to. -/
def CollectiveDesc.pieces (c : CollectiveDesc) : List (Nat × Nat) := c.parts.flatMap fun p => linePieces (p.2 / 64 + 2) (c.dst + p.1) p.2

/-- R429: the agent of a collective: the engine stands on die 0. -/
def Collective.agent (c : Collective) : Agent := { die := 0, context := c.context, launch := some (c.launch, c.group), ordered := c.ordered }

/-- R433: n elements of a source from element i on: a term that faults counts as +0, and the first fault is kept. -/
def State.sourceTerms (s : State) (ag : Agent) (size at_ : Nat) (fault : Option FaultCode) : Nat → List Word × Option FaultCode × State
  | 0 => ([], fault, s)
  | n + 1 =>
    let r := match s.engineBytes ag at_ size with
      | .ok (bs, t) => (BitVec.ofNat 64 (natOfBytes bs), fault, t)
      | .error e => (0, some (fault.getD e.1), s)
    let rest := State.sourceTerms r.2.2 ag size (at_ + size) r.2.1 n
    (r.1 :: rest.1, rest.2)

/-- R429: the terms of this member, source by source, from source j on. -/
def State.collectiveTerms (s : State) (ag : Agent) (c : CollectiveDesc) (j : Nat) (fault : Option FaultCode) : Nat → List (List Word) × Option FaultCode × State
  | 0 => ([], fault, s)
  | n + 1 =>
    let r := s.sourceTerms ag c.size ((c.src + j * c.sstride) % 2 ^ 64) fault c.count
    let rest := State.collectiveTerms r.2.2 ag c (j + 1) r.2.1 n
    (r.1 :: rest.1, rest.2)

/-- R434: does some piece of a range lie on an ordered page? -/
def State.touchesOrdered (s : State) (f : Nat) (x : Fibre) (ps : List (Nat × Nat)) : Bool :=
  ps.any fun p =>
    match s.locate f x { slice := false } (BitVec.ofNat 64 p.1) 1 1 with
    | .ok (.mem _ _ ordered _ _, _) => ordered
    | .ok (.slice _, _) | .ok (.grant _, _) | .error _ => false

/-- R433: where the sources of a collective lie in memory. -/
def State.sourceSpans (s : State) (ag : Agent) (c : CollectiveDesc) : List (Nat × Nat × Nat × Nat) :=
  (List.range c.sources).flatMap fun j =>
    let at_ := (c.src + j * c.sstride) % 2 ^ 64
    (linePieces (c.count * c.size / 64 + 2) at_ (c.count * c.size)).filterMap fun p =>
      match s.engineLocate ag p.1 p.2 false with
      | .ok (.mem pa _ _ _ _, _) => some (pa, p.2, j, p.1 - at_)
      | .ok (.slice _, _) | .ok (.grant _, _) | .error _ => none

/-- R434: the collective as the engine holds it. Its sources are read as the release leaves them (R433). -/
def State.startCollective (s : State) (f : Nat) (x : Fibre) (bs : List Byte) (table : List Nat) : State :=
  let r := s.releaseOn x.core
  let s := r.1.reconcileHome [r.2]
  let root := match s.launches.get? x.launch with
    | some l => (l.queue, l.tag, l.slot)
    | none => (0, 0, 0)
  let c : Collective :=
    { context := x.context, launch := x.launch, group := s.linearOf f, queue := root.1, tag := root.2.1, slot := root.2.2, desc := bs, table := table, started := s.time, ordered := s.inOrdered x.launch,
      acquired := [r.2] }
  let d := collectiveOf bs
  let c := { c with terms := (s.collectiveTerms c.agent d 0 none d.sources).1, spans := s.sourceSpans c.agent d }
  { s with collectives := s.collectives.put s.fresh c, fresh := s.fresh + 1 }

/-- R434. -/
def execBxsum (a : Src) (s : State) : Host.Outcome State Fault Refusal :=
  s.issueWith fun f x =>
    let va := x.read (s.bankOf x) a
    if x.speculative then .stall .resolution
    else if va.toNat % 64 != 0 then .trap .align va 0
    else
      match fibreReader f x s va.toNat 128 with
      | .error e => .trap e.1 e.2 0
      | .ok (bs, t) =>
        let c := collectiveOf bs
        if c.table % 2 != 0 then .trap .align (BitVec.ofNat 64 c.table) 0
        else
          match fibreReader f x t c.table (2 * c.members) with
          | .error e => .trap e.1 e.2 0
          | .ok (tb, u) =>
            let table := (List.range c.members).map fun i => fieldOf tb (2 * i) 2
            if !collectiveOk bs || !tableOk s.domainSize s.node c.rank table then .trap .access va 0
            else if (s.taskOf f x).isSome && u.touchesOrdered f x c.pieces then .trap .access (BitVec.ofNat 64 c.dst) 0
            else if s.collectives.length ≥ 64 then .stall .collectives
            else .done (u.startCollective f x bs table)

/-! ### Results -/

/-- R431: 1 + floor(log2 |x|) of a finite value that is not 0. -/
def topExponent (x : XVal) : Option Int :=
  match x with
  | .fin _ m => if m.isZero then none else some (m.exp + m.man.log2 + 1)
  | .inf _ | .nan _ => none

/-- R431, phase 1: the agreed exponent of a block's terms; 0 without a finite term that is not 0. -/
def blockExponent (ts : List XVal) : Int :=
  ((ts.filterMap topExponent).foldl (fun m e => match m with
    | none => some e
    | some d => some (if d < e then e else d)) (none : Option Int)).getD 0

/-- R431: BINFIX of a term that counts: 0 for one that is not finite; with inexact where it changes the value. -/
def binTerm (e : Int) (x : XVal) : Flagged Int :=
  match x with
  | .fin neg m => ((binFix x e).1, (binFix x e).2 ||| flagIf (m.roundSteps neg (e - 99) .rn).2 Flag.inexact)
  | .inf _ | .nan _ => (0, 0#6)

/-- R431, phase 2: the result at one position. -/
def binnedSum (t : Ty) (e : Int) (ts : List XVal) : Flagged Word :=
  let fixed := ts.map (binTerm e)
  let flags := fixed.foldl (fun acc v => acc ||| v.2) 0#6
  if ts.any XVal.isNan || ts.contains (.inf false) || ts.contains (.inf true) then
    let r := sumX .rn ts
    let w := roundTo t .rn r.1
    (w.1, flags ||| r.2 ||| w.2)
  else
    let total := (fixed.map (·.1)).sum
    let x : XVal := if total = 0 then .fin (!ts.isEmpty && ts.all fun v => v.isZero && v.isNeg) ⟨0, 0, false⟩ else .fin (total < 0) ⟨total.natAbs, e - 99, false⟩
    let r := roundTo t .rn x
    (r.1, flags ||| r.2)

/-- R431: the elements of a binned sum over every member's sources. -/
def sumResult (t : Ty) (count : Nat) (sources : List (List Word)) : Flagged (List Word) :=
  let at_ (i : Nat) : List XVal := sources.map fun ws => exact t (ws.getD i 0)
  let rs := (List.range count).map fun i =>
    let block := ((List.range 256).map (i / 256 * 256 + ·)).filter (· < count)
    binnedSum t (blockExponent (block.flatMap at_)) (at_ i)
  (rs.map (·.1), rs.foldl (fun acc r => acc ||| r.2) 0#6)

/-- R432: the k greatest terms and their global indices, in descending order. -/
def topkResult (t : Ty) (k : Nat) (terms : List Word) : List (Word × Nat) :=
  (sortBy (fun a b => totalKey t a.1 ≥ totalKey t b.1) (terms.zip (List.range terms.length))).take k

/-- R431, R432: the bytes of a result, part by part, with its flags. -/
def CollectiveDesc.result (c : CollectiveDesc) (sources : List (List Word)) : Flagged (List Byte) :=
  if c.topk then
    let r := topkResult c.ty c.k sources.flatten
    ((r.flatMap fun e => valueBytes c.ty e.1) ++ r.flatMap fun e => bytesOfNat 8 e.2, 0#6)
  else
    let r := sumResult c.ty c.count sources
    (r.1.flatMap (valueBytes c.ty), r.2)

/-- R433: is byte i of the result undefined, when source bytes were written, or source terms changed, between issue and completion? A sum's element depends on
its block. -/
def Collective.dependsOn (c : Collective) (after : List (List Word)) (i : Nat) : Bool :=
  let d := collectiveOf c.desc
  if d.topk then c.terms != after || !c.touched.isEmpty
  else
    let n := i / d.size / 256
    let block (ws : List Word) : List Word := (ws.drop (n * 256)).take 256
    c.terms.map block != after.map block || c.touched.any fun t => t.2 / d.size / 256 == n

/-- Some bytes of a list are free. -/
def State.blurWhere (s : State) (p : Nat → Bool) (bs : List Byte) : List Byte × State :=
  let r := s.freeBytes bs.length
  ((List.range bs.length).map fun i => if p i then r.1.getD i 0 else bs.getD i 0, r.2)

/-- R433: bytes are written line by line at their homes; the first fault is kept. -/
def State.writeResult (s : State) (ag : Agent) (bs : List Byte) (fault : Option FaultCode) : List (Nat × Nat) → Option FaultCode × State
  | [] => (fault, s)
  | p :: ps =>
    match s.engineLocate ag p.1 p.2 true with
    | .error e => State.writeResult s ag (bs.drop p.2) (some (fault.getD e)) ps
    | .ok (l, t) => State.writeResult ((t.engineWrite ag l (bs.take p.2)).getD t) ag (bs.drop p.2) fault ps

/-- R433: the value of a status word. -/
def collectiveStatus (status : Nat) (fault : Option FaultCode) (flags : FlagSet) : Nat :=
  status * 2 ^ 60 + (match fault with | some e => e.code | none => 0) * 2 ^ 52 + flags.toNat

/-- R433, R484: a collective ends: its status word is written; one that cannot be is reported by kind 13. (DEDUCED, assumption 74) -/
def State.endCollective (s : State) (k : Nat) (c : Collective) (status : Nat) (fault : Option FaultCode) (flags : FlagSet) : State :=
  let d := collectiveOf c.desc
  let s := { s with collectives := s.collectives.del k }
  if d.status = 0 then s
  else
    match s.engineLocate c.agent d.status.toNat 8 true with
    | .error e =>
      s.contextEvent c.context
        { kind := 13, status := e.code, queue := c.queue, tag := c.tag, low := BitVec.ofNat 32 c.slot, high := BitVec.ofNat 32 c.group,
          word := BitVec.ofNat 64 s.time }
    | .ok (l, t) => (t.engineWrite c.agent l (bytesOfNat 8 (collectiveStatus status fault flags))).getD t

/-- R429: the sources of every member, in the order of the table. -/
def Collective.sources (c : Collective) (own : List (List Word)) : List (List Word) :=
  (List.range c.table.length).flatMap fun r =>
    if r = (collectiveOf c.desc).rank then own
    else match c.messages.find? fun m => m.rank == r with
      | some m => m.terms
      | none => []

/-- R433: the result is written, the addition made once all of it is, and the status word written. (DEDUCED, assumption 74) -/
def State.completeCollective (s : State) (k : Nat) (c : Collective) : State :=
  let d := collectiveOf c.desc
  let r := s.collectiveTerms c.agent d 0 none d.sources
  let res := d.result (c.sources r.1)
  let b := r.2.2.blurWhere (c.dependsOn r.1) res.1
  let w := b.2.writeResult c.agent b.1 none d.pieces
  let added := if d.sync = 0 || w.1.isSome then .ok w.2 else w.2.engineAdd 0 c.context c.ordered d.sync 1 []
  let fault := match added with
    | .ok _ => r.2.1.or w.1
    | .error e => some (r.2.1.getD e)
  let s := match added with
    | .ok t => t
    | .error _ => w.2
  s.endCollective k c (if fault.isSome then 1 else 0) fault res.2

/-- R430: has every other member's part arrived? (DESIGN CHOICE, assumption 75) -/
def Collective.full (c : Collective) : Bool :=
  (List.range c.table.length).all fun r => r = (collectiveOf c.desc).rank || c.messages.any fun m => m.rank == r

/-- R430: do two members match? One that gives itself a rank of another member, or none of the table, has another table or another count. -/
def Collective.agrees (c : Collective) (m : CollectiveMessage) : Bool :=
  m.rank != (collectiveOf c.desc).rank && m.rank < (collectiveOf c.desc).members && m.match0 == c.desc.take 16 ++ (c.desc.drop 48).take 2 && m.table == c.table

/-- R430: of the collectives with a tag that lack a message, it meets the first in issue order among the same members; where there is none, the first, which it does
not match. -/
def State.collectiveFor (s : State) (m : CollectiveMessage) : Option Nat :=
  let lacking (p : Collective → Bool) : Option Nat :=
    (s.collectives.keys fun _ o => (collectiveOf o.desc).tag == m.tag && p o && !o.messages.any fun n => n.rank == m.rank).head?
  (lacking fun o => o.table == m.table).or (lacking fun _ => true)

/-- R430-R433: what another member sends arrives, and the collective completes once every part is there. Members that do not match end with status 2, and
their result bytes are undefined. Of a single member, nothing is awaited. -/
def execCollectiveTraffic (k : Nat) (m : CollectiveMessage) (s : State) : Host.Outcome State Fault Refusal :=
  match s.collectives.get? k with
  | none => .next s
  | some c =>
    let d := collectiveOf c.desc
    if c.full then
      let a := s.engineAcquires c.acquired
      .next (if a.2 then a.1.completeCollective k c else a.1)
    else if m.tag != d.tag || s.collectiveFor m != some k || !s.link.control.getLsbD 15 then .next s
    else if !c.agrees m then
      let r := s.freeBytes d.resultBytes
      let w := r.2.writeResult c.agent r.1 none d.pieces
      .next (w.2.endCollective k c 2 none 0)
    else
      let c := { c with messages := c.messages ++ [m] }
      let s := { s with collectives := s.collectives.put k c }
      let a := s.engineAcquires c.acquired
      .next (if !c.full then s else if a.2 then a.1.completeCollective k c else a.1)

/-- R430: a member has not joined within the timeout. -/
def execCollectiveTimeout (k : Nat) (s : State) : Host.Outcome State Fault Refusal :=
  match s.collectives.get? k with
  | none => .next s
  | some c =>
    let t := (collectiveOf c.desc).timeout
    if t = 0 || c.full || s.time < c.started + t * 1000000 then .next s else .next (s.endCollective k c 4 none 0)

/-- R434: an abort of a context ends its collectives with status 3. -/
def State.abortCollectives (s : State) (c : Nat) : State :=
  s.collectives.foldl (fun s e => if e.2.context = c then s.endCollective e.1 e.2 3 none 0 else s) s

end Sys2Proof.Machine
end

