-- ==== Sys2Proof/Machine/Matrix.lean ====
section
/-! DEFINITION. The matrix engine: the checks at issue (R278, R279), the steps of a command (R276, R285-R290), coverage (R280-R283), matrix
streams (R321), the end of a prologue (R233) and the self-test (R292). -/

namespace Sys2Proof.Machine

/-! ### Issue -/

/-- R437: a matrix command of a fibre is stamped. (DEDUCED, assumption 43) -/
def State.stampMatrix (s : State) (x : Fibre) : Option Nat × State :=
  match x.mark with
  | none => (none, s)
  | some k => (some k, s.updMark k fun m => { m with mx := m.mx + 1, pending := m.pending + 1, mxIssue := some (m.mxIssue.getD s.time) })

/-- R278, step 3: a record of a command, at an operand: its bytes, or the fault. -/
def State.matrixRecord (s : State) (f : Nat) (x : Fibre) (g : Group) (v : Word) : Except FaultCode (List Byte × State) :=
  let off := sliceOffset v
  if off % 16 != 0 then .error .align
  else if off + 16 > g.grant then .error .access
  else if s.hasError f x 16 (.slice off) then .error .ecc
  else .ok (s.readSlice (.fibre f) g off 16)

/-- R275, R278: a checked command joins its queue. -/
def State.joinMatrix (s : State) (f : Nat) (x : Fibre) (g : Nat) (k : Group) (c : MatrixCommand) : Issue :=
  if !c.ok k.grant k.units then .trap .access 0 0
  else if x.full .mx then .stall (.counter CountClass.mx.index)
  else if k.matrix.length ≥ 64 then .stall .matrixQueue
  else
    let m := (s.dueGuards g).stampMatrix x
    let c :=
      { c with
        number := x.issued.mx, stamped := m.1, since := (s.core x.core).clock, stale := distinct (k.uncovered.map (·.off)), writes := c.ranges k.grant k.units }
    .done ((m.2.updGroup g fun q => { q.learn [.operation f .mx c.number] (· == .fibre f) with matrix := q.matrix ++ [c] }).updFibre f fun y => y.countIssue .mx)

/-- R278: a command of function `fn` with operands a, b and c, whose records are at `recs`. -/
def State.matrixCommand (s : State) (fn : Nat) (a b c : Fibre → Word) (recs : List (Fibre → Word)) (gd : Guard) : Host.Outcome State Fault Refusal :=
  s.issueWith fun f x =>
    match x.group, s.groupOf x with
    | some g, some k =>
      let base : MatrixCommand := { fibre := some f, unit := x.unit, fn := fn, a := a x, b := b x, c := c x, guard := gd }
      match recs with
      | [] => s.joinMatrix f x g k base
      | [r] =>
        match s.matrixRecord f x k (r x) with
        | .error e => .trap e (r x) 0
        | .ok (bs, t) => t.joinMatrix f x g k { base with recA := bs }
      | r :: q :: _ =>
        match s.matrixRecord f x k (r x) with
        | .error e => .trap e (r x) 0
        | .ok (bs, t) =>
          match t.matrixRecord f x k (q x) with
          | .error e => .trap e (q x) 0
          | .ok (cs, u) => u.joinMatrix f x g k { base with recA := bs, recB := cs }
    | _, _ => .trap .detached 0 0

/-- R284. -/
def execMma (a b c : Src) (g : Guard) (s : State) : Host.Outcome State Fault Refusal :=
  let r (v : Src) (x : Fibre) : Word := x.read (s.bankOf x) v
  s.matrixCommand 0 (r a) (r b) (r c) [r a, r b] g

/-- R287. -/
def execMzero (a : Src) (g : Guard) (s : State) : Host.Outcome State Fault Refusal :=
  s.matrixCommand 1 (fun x => x.read (s.bankOf x) a) (fun _ => 0) (fun _ => 0) [] g

/-- R287. -/
def execMld (a b c : Src) (g : Guard) (s : State) : Host.Outcome State Fault Refusal :=
  let r (v : Src) (x : Fibre) : Word := x.read (s.bankOf x) v
  s.matrixCommand 2 (r a) (r b) (r c) [] g

/-- R287. -/
def execMst (a b c : Src) (g : Guard) (s : State) : Host.Outcome State Fault Refusal :=
  let r (v : Src) (x : Fibre) : Word := x.read (s.bankOf x) v
  s.matrixCommand 3 (r a) (r b) (r c) [] g

/-- R288. -/
def execMqnt (a b c : Src) (g : Guard) (s : State) : Host.Outcome State Fault Refusal :=
  let r (v : Src) (x : Fibre) : Word := x.read (s.bankOf x) v
  s.matrixCommand 4 (r a) (r b) (r c) [] g

/-- R289. -/
def execMew (a b : Src) (g : Guard) (s : State) : Host.Outcome State Fault Refusal :=
  let r (v : Src) (x : Fibre) : Word := x.read (s.bankOf x) v
  s.matrixCommand 5 (r a) (r b) (fun _ => 0) [r b] g

/-- R280: the writes that the fibre knows of are covered for commands that join later. -/
def execMrdy (s : State) : Host.Outcome State Fault Refusal :=
  s.issueWith fun f x =>
    match x.group with
    | none => .trap .detached 0 0
    | some g => .done (s.updGroup g fun k => { k with uncovered := k.uncovered.filter fun w => !w.known.contains (.fibre f) })

/-- R283. -/
def execMwait (a : Src) (s : State) : Host.Outcome State Fault Refusal :=
  s.issueWith fun f x =>
    let n := (x.read (s.bankOf x) a).toNat
    if within (some n) x.counts.mx then .done (s.acquireEngines f x none (some n) none) else .wait s (.matrix n)

/-! ### Reading operands -/

/-- The state of a command's step: the machine, the group, and the flags set. -/
structure MatrixStep where
  s : State
  k : Group
  flags : FlagSet := 0
  /-- R290: the B elements that the command has replaced so far -/
  replaced : List (Nat × Nat) := []

/-- R290, R291: a value is replaced by +0: the flag, and an entry of the error record. -/
def MatrixStep.substitute (m : MatrixStep) (c : MatrixCommand) (source i j : Nat) : MatrixStep :=
  { m with
    flags := m.flags ||| Flag.eccSub,
    k := { m.k with errorRecord := logError m.k.errorRecord (errorEntry c.unit source i j (m.s.fidOf c.fibre)) } }

/-- R280: is a byte in the 64-byte block of an offset not covered for a command? -/
def MatrixCommand.blockStale (c : MatrixCommand) (off : Nat) : Bool := c.stale.any fun o => o / 64 == off / 64

/-- R280: n bytes of the slice as a command reads them: undefined where a write that is not covered touches their block. -/
def MatrixStep.bytes (m : MatrixStep) (c : MatrixCommand) (off n : Nat) : List Byte × MatrixStep :=
  if c.blockStale off then let r := m.s.freeBytes n; (r.1, { m with s := r.2 }) else (m.k.slice.readBytes off n, m)

/-- R290: does an uncorrectable error lie in some of n bytes? -/
def MatrixStep.bad (m : MatrixStep) (off n : Nat) : Bool := m.k.badBytes.any fun o => off ≤ o && o < off + n

/-- R290: the bytes of a block that hold element e: its header, and its own. The header is the bytes before the element bytes (DEDUCED, assumption 88). -/
def OperandFmt.badElement (f : OperandFmt) (m : MatrixStep) (off e : Nat) : Bool :=
  match f with
  | .ty t => m.bad (off + e * (t.width / 8)) (t.width / 8)
  | .sx q =>
    let w := q.magWidth + 1
    m.bad off q.elementBase || m.bad (off + q.elementBase + e * w / 8) ((e * w + w - 1) / 8 - e * w / 8 + 1)

/-- R285: the exact elements of a block, each with the flags of decoding it. -/
def OperandFmt.elements (f : OperandFmt) (bs : List Byte) : List (Flagged XVal) :=
  match f with
  | .sx q => sxDecode q bs
  | .ty t => (List.range (512 / t.width)).map fun e => (exact t (place t (fieldOf bs (e * (t.width / 8)) (t.width / 8))), 0#6)

/-- R290: the elements of a block where those of some numbers are replaced by +0, which set no flag. -/
def substituted (n : Nat) (bad : List Nat) (es : List (Flagged XVal)) : Flagged (List XVal) :=
  flaggedMap (fun e => if bad.contains e then (.fin false ⟨0, 0, false⟩, 0#6) else es.getD e (.nan false, 0#6)) (List.range n)

/-- R285, R290: a block of operand `source` and row or column r: its elements, with those in error replaced. A value is replaced once, and logged then: the
columns of B, which every step reads, remember. -/
def MatrixStep.block (m : MatrixStep) (c : MatrixCommand) (f : OperandFmt) (source r off : Nat) : List XVal × MatrixStep :=
  let b := m.bytes c off 64
  let m := b.2
  let bad := (List.range f.count).filter (f.badElement m off)
  let es := substituted f.count bad (f.elements b.1)
  let m := { m with flags := m.flags ||| es.2 ||| flagIf (!bad.isEmpty) Flag.eccSub }
  let fresh := if source = 2 then bad.filter fun e => !m.replaced.contains (r, e) else bad
  let m := if source = 2 then { m with replaced := m.replaced ++ fresh.map fun e => (r, e) } else m
  (es.1, fresh.foldl (fun m e => m.substitute c source r e) m)

/-- Blocks of rows or columns, each by its number. -/
def MatrixStep.blocks (m : MatrixStep) (c : MatrixCommand) (f : OperandFmt) (source off stride : Nat) : List Nat → Tab (List XVal) × MatrixStep
  | [] => ([], m)
  | r :: rs =>
    let b := m.block c f source r (off + r * stride)
    let q := MatrixStep.blocks b.2 c f source off stride rs
    ((r, b.1) :: q.1, q.2)

/-- R280, R290: a 4-byte value that a command reads like an operand: a draw or a bias value. -/
def MatrixStep.word (m : MatrixStep) (c : MatrixCommand) (off i j : Nat) : Nat × MatrixStep :=
  let b := m.bytes c off 4
  if b.2.bad off 4 then (0, b.2.substitute c 5 i j) else (natOfBytes b.1, b.2)

/-- Several such values. -/
def MatrixStep.words (m : MatrixStep) (c : MatrixCommand) : List (Nat × Nat × Nat) → List Nat × MatrixStep
  | [] => ([], m)
  | p :: ps =>
    let b := m.word c p.1 p.2.1 p.2.2
    let q := MatrixStep.words b.2 c ps
    (b.1 :: q.1, q.2)

/-- R290: an accumulator as a command reads it. -/
def MatrixStep.accumulator (m : MatrixStep) (c : MatrixCommand) (t : Tile) (i j : Nat) : Word × MatrixStep :=
  let h := t.at i j
  if m.k.badAccumulators.contains h then (0, { m with k := m.k.setAccumulator h 0 }.substitute c 3 i j)
  else ((m.k.accumulator h).zeroExtend 64, m)

/-- Change one accumulator by a function of its value. -/
def MatrixStep.onAccumulator (m : MatrixStep) (c : MatrixCommand) (t : Tile) (i j : Nat) (f : Word → Flagged Word) : MatrixStep :=
  let a := m.accumulator c t i j
  let v := f a.1
  { a.2 with k := a.2.k.setAccumulator (t.at i j) (v.1.setWidth 32), flags := a.2.flags ||| v.2 }

/-! ### The steps of a command -/

/-- R48: the exact sum of the products of a block and an f32 accumulator, rounded once. -/
def blockDot (acc : Word) (xs ys : List XVal) : Flagged Word :=
  let ps := flaggedMap (fun p : XVal × XVal => mulX p.1 p.2) (xs.zip ys)
  let r := (sumX .rn (ps.1 ++ [exact .f32 acc])).andThen (roundTo .f32 .rn)
  (r.1, ps.2 ||| r.2)

/-- R276: the rows of step n. -/
def stepRows (n : Nat) : List Nat := (List.range 16).map (16 * n + ·)

/-- Every (row, column) of some rows. -/
def cellsOf (rows : List Nat) (cols : Nat) : List (Nat × Nat) := rows.flatMap fun i => (List.range cols).map fun j => (i, j)

/-- R285: one step of mma. -/
def stepMma (m : MatrixStep) (c : MatrixCommand) (p : Product) (n : Nat) : MatrixStep :=
  let rows := (stepRows n).filter c.c.getLsbD
  if rows.isEmpty then m
  else
    let a := m.blocks c p.fmtA 1 p.offA p.strideA rows
    let b := a.2.blocks c p.fmtB 2 p.offB p.strideB (List.range p.tile.cols)
    (cellsOf rows p.tile.cols).foldl
      (fun m q => m.onAccumulator c p.tile q.1 q.2 fun acc => blockDot acc ((a.1.get? q.1).getD []) ((b.1.get? q.2).getD [])) b.2

/-- R287: one step of mzero. -/
def stepMzero (m : MatrixStep) (t : Tile) (n : Nat) : MatrixStep :=
  { m with k := (cellsOf (stepRows n) t.cols).foldl (fun k q => k.setAccumulator (t.at q.1 q.2) 0) m.k }

/-- R287: one step of mld. A byte of the slice in error counts as a bad bias: +0, source 5 (DESIGN CHOICE, assumption 117). -/
def stepMld (m : MatrixStep) (c : MatrixCommand) (t : Tile) (n : Nat) : MatrixStep :=
  (cellsOf (stepRows n) t.cols).foldl
    (fun m q =>
      let v := m.word c (sliceOffset c.b + q.1 * c.c.toNat + 4 * q.2) q.1 q.2
      { v.2 with k := v.2.k.setAccumulator (t.at q.1 q.2) (BitVec.ofNat 32 v.1) }) m

/-- R281, R321: the party that knows what a command writes: its operation, or its stream. -/
def MatrixCommand.party (c : MatrixCommand) : Party :=
  match c.fibre, c.stream with
  | some f, _ => .operation f .mx c.number
  | none, some p => .stream p.1 p.2
  | none, none => .operation 0 .mx c.number

/-- R281: a write of a command to the slice: not yet acquired by any fibre. -/
def Group.produce (g : Group) (c : MatrixCommand) (off : Nat) (bs : List Byte) : Group :=
  let offs := (List.range bs.length).map (off + ·)
  let old := g.produced.filter fun w => !offs.contains w.off
  { g with
    slice := g.slice.writeBytes off bs, badBytes := g.badBytes.filter fun o => !offs.contains o,
    produced := old ++ offs.map fun o => ⟨o, [c.party]⟩ }

/-- R287: one step of mst. -/
def stepMst (m : MatrixStep) (c : MatrixCommand) (t : Tile) (n : Nat) : MatrixStep :=
  (cellsOf (stepRows n) t.cols).foldl
    (fun m q =>
      let a := m.accumulator c t q.1 q.2
      { a.2 with k := a.2.k.produce c (sliceOffset c.b + q.1 * c.c.toNat + 4 * q.2) (bytesOfNat 4 (a.1.toNat % 2 ^ 32)) }) m

/-- R288: the accumulators of a row, from column j on. -/
def MatrixStep.rowValues (m : MatrixStep) (c : MatrixCommand) (t : Tile) (i j : Nat) : Nat → List XVal × MatrixStep
  | 0 => ([], m)
  | left + 1 =>
    let a := m.accumulator c t i j
    let r := MatrixStep.rowValues a.2 c t i (j + 1) left
    (exact .f32 a.1 :: r.1, r.2)

/-- R288: one block of mqnt: row i, block b of the row. -/
def quantiseBlock (m : MatrixStep) (c : MatrixCommand) (t : Tile) (q : Quantise) (i b : Nat) : MatrixStep :=
  let first := b * q.fmt.elements
  let n := Nat.min q.fmt.elements (t.cols - first)
  let xs := m.rowValues c t i first n
  let ds := if q.sr then xs.2.words c ((List.range n).map fun e => (q.draws + 4 * (i * t.cols + first + e), i, first + e)) else ([], xs.2)
  let v := sxQuantise q.fmt q.scale (if q.sr then .sr else .rnd .rn) xs.1 ds.1
  { ds.2 with k := ds.2.k.produce c (sliceOffset c.b + i * q.stride + 64 * b) v.1, flags := ds.2.flags ||| v.2 }

/-- R288: one step of mqnt. -/
def stepMqnt (m : MatrixStep) (c : MatrixCommand) (t : Tile) (q : Quantise) (n : Nat) : MatrixStep :=
  (cellsOf (stepRows n) (q.blocks t.cols)).foldl (fun m p => quantiseBlock m c t q p.1 p.2) m

/-- R289: relu and the other activations of a rounded value. -/
def activate (act : Nat) (v : Word) : Flagged Word :=
  let x := exact .f32 v
  if act = 0 then (v, 0#6)
  else if act = 1 then
    match x with
    | .nan _ => (canon .f32, 0#6)
    | .inf neg => (if neg then 0 else v, 0#6)
    | .fin neg _ => (if neg then 0 else v, 0#6)
  else if act = 2 then sfnBits .tanh .f32 .rn v
  else
    match x with
    | .nan _ => (canon .f32, 0#6)
    | .inf neg => if neg then roundTo .f32 .rn (.fin true ⟨0, 0, false⟩) else (v, 0#6)
    | .fin neg m => if m.isZero then (v, 0#6) else roundTo .f32 .rn (siluX neg m)

/-- R289: one accumulator of mew, with the bias value of its column. -/
def epilogue (r : List Byte) (bias : Option Nat) (acc : Word) : Flagged Word :=
  let a := exact .f32 acc
  let scale := exact .f32 (BitVec.ofNat 64 (fieldOf r 0 4))
  let v := match bias with
    | none => (mulX scale a).andThen (roundTo .f32 .rn)
    | some b => (fmaX .rn scale a (exact .f32 (BitVec.ofNat 64 b))).andThen (roundTo .f32 .rn)
  v.andThen (activate (fieldOf r 8 1))

/-- R289: one step of mew. -/
def stepMew (m : MatrixStep) (c : MatrixCommand) (t : Tile) (n : Nat) : MatrixStep :=
  let off := fieldOf c.recA 4 4
  (cellsOf (stepRows n) t.cols).foldl
    (fun m q =>
      let b := if off = 0xFFFFFFFF then (none, m) else let w := m.word c (off + 4 * q.2) q.1 q.2; (some w.1, w.2)
      b.2.onAccumulator c t q.1 q.2 (epilogue c.recA b.1)) m

/-- R276: step n of a command, and the rows of its tile. -/
def matrixStep (m : MatrixStep) (c : MatrixCommand) (n : Nat) : MatrixStep × Nat :=
  if c.fn = 0 then
    match productOf c.recA c.recB m.k.grant m.k.units with
    | some p => (stepMma m c p n, p.tile.rows)
    | none => (m, 0)
  else
    match tileOf c.a m.k.units with
    | none => (m, 0)
    | some t =>
      (if c.fn = 1 then stepMzero m t n
       else if c.fn = 2 then stepMld m c t n
       else if c.fn = 3 then stepMst m c t n
       else if c.fn = 4 then
         match quantiseOf c.c t (sliceOffset c.b) m.k.grant with
         | some q => stepMqnt m c t q n
         | none => m
       else stepMew m c t n, t.rows)

/-! ### Running -/

/-- R321: an entry of a stream is Done; after the last the packet's sync word is advanced. -/
def State.streamStep (s : State) (k : Group) (p : Nat × Nat) : State :=
  match ((s.queues.get? p.1).bind fun q => q.packets.find? fun u => u.number == p.2).bind (·.parts.stream) with
  | none => s
  | some (left, sync) =>
    if left > 1 then s.packetPart p.1 p.2 fun u => { u with parts := { u.parts with stream := some (left - 1, sync) } }
    else
      let added := if sync = 0 then .ok s else s.engineAdd k.die k.context (s.inOrdered k.launch) sync 1 [] (some (.stream p.1 p.2))
      match added with
      | .ok t => t.packetPart p.1 p.2 fun u => { u with parts := { u.parts with stream := none }, acquired := addEdges 193 u.acquired [homeEdge] }
      | .error _ => s.packetPart p.1 p.2 fun u => { u with parts := { u.parts with stream := none }, statuses := u.statuses ++ [7] }

/-- R276: the last step of the head of a group's queue has ended. -/
def State.matrixDone (s : State) (g : Nat) (c : MatrixCommand) (flags : FlagSet) : State :=
  let s := (s.dueGuards g).updGroup g fun k =>
    { k with
      matrix := k.matrix.tail,
      doneMatrix := ⟨c, [c.party]⟩ :: k.doneMatrix }
  let s := match c.fibre with
    | some f => s.operationOver f fun x => (x.orFlags flags).countDown .mx
    | none => s
  let s := s.markMatrixDone c false
  match c.stream, s.groups.get? g with
  | some p, some k => (s.streamStep k p).retireGroup g
  | _, _ => s.retireGroup g

/-- R276: one step of the started head of a group's queue. -/
def State.runMatrixStep (s : State) (g : Nat) (k : Group) (c : MatrixCommand) (n : Nat) : State :=
  let r := matrixStep { s := s, k := k, replaced := c.replaced } c n
  let flags := c.flags ||| r.1.flags
  let c := { c with started := some (n + 1), flags := flags, replaced := r.1.replaced }
  let t := r.1.s.setGroup g { r.1.k with matrix := c :: k.matrix.tail }
  if 16 * (n + 1) ≥ r.2 then t.matrixDone g c flags else t

/-- R276: may the engine work for a group? -/
def Group.engineRuns (k : Group) : Bool := k.state == .running || k.state == .stopped

/-- R276: is some command of strictly higher class ready at the head of a queue of a core? A command is ready that the engine may start or go on with. -/
def State.higherReady (s : State) (core cls : Nat) : Bool :=
  (s.groupsOn core).any fun e =>
    e.2.cls > cls && match e.2.matrix with
      | [] => false
      | c :: _ =>
        e.2.engineRuns && (c.suspended || (c.started.isNone && s.contextRuns e.2.context &&
          (c.passed || e.2.guardTest (s.fidOf c.fibre) c.guard c.since == some true)))

/-- R21: is it the turn of a group's head among the heads that may start? -/
def State.matrixTurn (s : State) (k : Group) (c : MatrixCommand) : Bool :=
  !(s.groupsOn k.core).any fun e =>
    match e.2.matrix with
    | [] => false
    | d :: _ => d.started.isNone && (d.passed || d.guard.isNone) && requestBefore e.2.cls d.promoted d.since k.cls c.promoted c.since

/-- R276. -/
def execMatrixCommandStart (g : Nat) (s : State) : Host.Outcome State Fault Refusal :=
  let s := (s.dueGuards g).testHeads g
  match s.groups.get? g with
  | none => .next s
  | some k =>
    match k.matrix with
    | [] => .next s
    | c :: rest =>
      if s.contextRuns k.context && !s.platform.testing.contains (.core k.core) && k.engineRuns && c.started.isNone && (c.passed || c.guard.isNone) && s.matrixTurn k c then
        let s := s.setGroup g
          { k with
            matrix := { c with started := some 0, passed := true } :: rest }
        .next (match c.stamped with
          | some m => s.updMark m fun w => { w with mxStart := some (w.mxStart.getD s.time) }
          | none => s)
      else .next s

/-- R276: a step ends; the command is Done, is suspended, or goes on. -/
def execMatrixStepEnd (g : Nat) (s : State) : Host.Outcome State Fault Refusal :=
  match s.groups.get? g with
  | none => .next s
  | some k =>
    match k.matrix with
    | [] => .next s
    | c :: _ =>
      match c.started, k.engineRuns && !c.suspended with
      | some n, true =>
        let t := s.runMatrixStep g k c n
        match t.groups.get? g with
        | none => .next t
        | some k =>
          match k.matrix with
          | d :: rest =>
            if d.started == some (n + 1) && t.higherReady k.core k.cls then
              let t := t.setGroup g { k with matrix := { d with suspended := true } :: rest }
              .next (match d.stamped with
                | some m => t.updMark m fun w => { w with susp := w.susp + 1 }
                | none => t)
            else .next t
          | [] => .next t
      | _, _ => .next s

/-- R276. -/
def execMatrixResume (g : Nat) (s : State) : Host.Outcome State Fault Refusal :=
  match s.groups.get? g with
  | none => .next s
  | some k =>
    match k.matrix with
    | [] => .next s
    | c :: rest =>
      if c.suspended && !s.higherReady k.core k.cls then .next (s.setGroup g { k with matrix := { c with suspended := false } :: rest }) else .next s

/-- R276: a started command completes. `fuel` bounds its steps. (DEDUCED, assumption 45) -/
def State.finishMatrix (s : State) (g fuel : Nat) : State :=
  match fuel with
  | 0 => s
  | fuel + 1 =>
    match s.groups.get? g with
    | none => s
    | some k =>
      match k.matrix with
      | [] => s
      | c :: _ =>
        match c.started with
        | none => s
        | some n => (s.runMatrixStep g k c n).finishMatrix g fuel

/-! ### Streams and the end of a prologue -/

/-- R321: an entry of a stream, read and checked; its bytes 4 to 7 are zero (DESIGN CHOICE, assumption 122). -/
def State.streamEntry (s : State) (g : Nat) (k : Group) (p : Nat × Nat) (at_ : Nat) : Option (MatrixCommand × State) :=
  match s.engineRange { s.groupAgent g k none with group := none } at_ 32 with
  | .error _ => none
  | .ok (bs, t) =>
    let w := fieldOf bs 0 4
    let fn := w / 2 ^ 23 % 8
    if w != 0x3B * 2 ^ 26 + fn * 2 ^ 23 || fn > 5 || !zeroBytes bs 4 4 then none
    else
      let a := wordFieldOf bs 8
      let b := wordFieldOf bs 16
      let rec_ (v : Word) : Option (List Byte) :=
        let off := sliceOffset v
        if off % 16 = 0 && off + 16 ≤ k.grant && !k.badBytes.any (fun o => off ≤ o && o < off + 16) then some (k.slice.readBytes off 16) else none
      let c : MatrixCommand := { fibre := none, stream := some p, unit := 0, fn := fn, a := a, b := b, c := wordFieldOf bs 24, guard := none, since := (t.core k.core).clock }
      let full : Option MatrixCommand :=
        if fn = 0 then (rec_ a).bind fun ra => (rec_ b).map fun rb => { c with recA := ra, recB := rb }
        else if fn = 5 then (rec_ b).map fun r => { c with recA := r }
        else some c
      full.bind fun c => if c.ok k.grant k.units then some ({ c with writes := c.ranges k.grant k.units }, t) else none

/-- R321: the entries of a stream, from one on; how many of them join. -/
def State.streamEntries (s : State) (g : Nat) (k : Group) (p : Nat × Nat) (at_ : Nat) : Nat → List MatrixCommand × State
  | 0 => ([], s)
  | left + 1 =>
    match s.streamEntry g k p at_ with
    | none => ([], s)
    | some (c, t) =>
      let r := State.streamEntries t g k p (at_ + 32) left
      (c :: r.1, r.2)

/-- R321: a stream joins the queue of its group. -/
def State.joinStream (s : State) (g : Nat) (k : Group) : State :=
  match k.stream with
  | none => s
  | some (q, n, addr, count) =>
    let r := s.streamEntries g k (q, n) addr.toNat count
    let t := r.2.updGroup g fun u => { u with matrix := r.1 ++ u.matrix, stream := none }
    if r.1.length = count then t
    else
      t.packetPart q n fun u =>
        { u with parts := { u.parts with stream := if r.1.isEmpty then none else some (r.1.length, 0) }, statuses := u.statuses ++ [3] }

/-- R233, R299, R321. -/
def execPrologueComplete (g : Nat) (s : State) : Host.Outcome State Fault Refusal :=
  match s.groups.get? g with
  | none => .next s
  | some k =>
    let bindings := match s.launches.get? k.launch with
      | some l => l.bindings.length
      | none => 0
    if s.contextRuns k.context && k.state == .prologue && k.binding ≥ bindings then
      let t := (s.completePrologue g k).joinStream g k
      let t := t.traceGroup g 2
      .next (if k.dbg.stopping.isSome then t.haltGroup g else t)
    else .next s

/-! ### Fences and self-test -/

/-- R457: a targeted self-test of a unit starts. -/
def State.startTest (s : State) (u : TestUnit) : State := { s with platform := { s.platform with testing := distinct (s.platform.testing ++ [u]) } }

/-- R25, R274, R455, R457: a unit is fenced; a core none of whose sub-arrays is live is fenced with them, and its work is moved as for a test of it. -/
def State.fence (s : State) (u : TestUnit) : State :=
  let add (s : State) (u : TestUnit) : State := { s with fences := distinct (s.fences ++ [u]) }
  let s := { add s u with hostEvents := s.hostEvents ++ [.capability] }
  match u with
  | .subArray c _ _ =>
    if (List.range 4).all fun q => (List.range 4).all fun i => s.fences.contains (.subArray c q i) then (add s (.core c)).startTest (.core c) else s
  | .core _ | .slice _ _ | .memoryDevice _ _ _ => s

/-- R292: is the sequencer of a core between commands? (DEDUCED, assumption 98) -/
def State.betweenCommands (s : State) (core : Nat) : Bool :=
  (s.groupsOn core).all fun e => e.2.matrix.all fun c => c.started.isNone || c.suspended

/-- R292: a self-test of a quadrant: the sub-arrays that fail are fenced and reported with the time of the last passing test. -/
def execMatrixSelfTest (core quadrant : Nat) (failing : List Nat) (s : State) : Host.Outcome State Fault Refusal :=
  let k := s.core core
  let last := k.selfTests.toList.getD quadrant 0
  let recent := match k.tested.toList.getD quadrant none with
    | some t => k.clock < t + 65536
    | none => false
  if quadrant ≥ 4 || recent || !s.betweenCommands core then .next s
  else
    let s := s.setCore core
      { k with
        tested := k.tested.setIfInBounds quadrant (some k.clock)
        selfTests := if failing.isEmpty then k.selfTests.setIfInBounds quadrant k.clock else k.selfTests }
    .next ((distinct failing).foldl
      (fun s i => { s.fence (.subArray core quadrant i) with hostEvents := (s.fence (.subArray core quadrant i)).hostEvents ++ [.selfTestFailed core quadrant i last] }) s)

end Sys2Proof.Machine
end

