-- ==== Sys2Proof/Machine/Ending.lean ====
section
/-! DEFINITION. Work that is ended before it is done: the grids and engine commands of packets that are reset (R329) and of contexts that are aborted (R333). -/

namespace Sys2Proof.Machine

/-- R329: the started command at the head of a copy queue completes. `fuel` bounds its records. -/
def State.finishCopies (s : State) (o : CopyOwner) (fuel : Nat) : State :=
  match fuel with
  | 0 => s
  | fuel + 1 =>
    match s.copiesOf o with
    | [] => s
    | c :: rest =>
      match c.started with
      | none => s
      | some i => (s.copyRecord o c rest i).finishCopies o fuel

/-- R329: the launches of a tree of grids: a launch, and those that its fibres launched. `fuel` bounds the depth. -/
def State.descendants (s : State) (fuel : Nat) (ls : List Nat) : List Nat :=
  match fuel with
  | 0 => ls
  | fuel + 1 =>
    let more := s.launches.keys fun k l => !ls.contains k && match l.parent with
      | some p => ls.contains p.2
      | none => false
    if more.isEmpty then ls else s.descendants fuel (ls ++ more)

/-- R329: the started engine commands of a group complete. -/
def State.finishEngines (s : State) (g : Nat) : State :=
  match s.groups.get? g with
  | none => s
  | some _ => (s.finishMatrix g 4096).finishCopies (.group g) 257

/-- R329: the started copy command of a stolen continuation completes. -/
def State.finishFibre (s : State) (f : Nat) : State := s.finishCopies (.fibre f) 257

/-- R329, R437: the engine commands of a grid that have not started are discarded; a waymark whose tile has retired keeps its record to write, but not that of a
speculative group (R438), and no other waymark outlives its fibre. -/
def State.endMarks (s : State) (inside : Nat → Bool) (fs : List Nat) : State :=
  let gs := s.groups.filter fun e => inside e.2.launch
  let cs := gs.flatMap (fun e => e.2.copies) ++ fs.flatMap fun f => match s.anyFibre f with
    | some x => x.copies
    | none => []
  let s := cs.foldl (fun s c => s.markCopyDone c true false) s
  let s := (gs.flatMap fun e => e.2.matrix).foldl (fun s c => s.markMatrixDone c true) s
  { s with
    marks := s.marks.filter fun e => match e.2.speculative with
      | some p => !inside p.1
      | none => !fs.contains e.2.fibre || e.2.retired.isSome }

/-- R329: grids end where they stand: what they have written stands, started engine commands complete, and nothing else of them remains. -/
def State.endLaunches (s : State) (ls : List Nat) : State :=
  let inside (l : Nat) : Bool := ls.contains l
  let s := (s.groups.keys fun _ g => inside g.launch).foldl State.finishEngines s
  let s := (s.frames.keys fun _ r => inside r.launch).foldl State.finishFibre s
  let fs := s.frames.keys fun _ r => inside r.launch
  let s := s.endMarks inside fs
  let s := fs.foldl State.leaveConvoy s
  let s := (s.jobs.keys fun _ j => match j.launch with
    | some l => inside l.1
    | none => false).foldl State.dropJob s
  let s := s.launches.foldl
    (fun s e => if inside e.1 then
        (s.groups.filter fun g => g.2.launch == e.1 && g.2.speculative).foldl (fun s g => s.retract e.2.context e.1 g.2.linear) s
      else s) s
  { s with
    fibres := s.fibres.filter fun e => !inside e.2.launch, frames := s.frames.filter fun e => !inside e.2.launch,
    groups := s.groups.filter fun e => !inside e.2.launch, launches := s.launches.filter fun e => !inside e.1,
    contexts := s.contexts.mapAll fun _ c => { c with tickets := c.tickets.filter fun t => !fs.contains t.2 } }

/-- R329: a launch and its child grids end. (DEDUCED, assumption 41) -/
def State.endTree (s : State) (lk : Nat) : State := s.endLaunches (s.descendants 16 [lk])

/-- R329: a packet that has started ends with status 5: its grid, its unstarted engine work and its job end with it. -/
def State.endPacket (s : State) (q n : Nat) : State :=
  match (s.queues.get? q).bind fun k => k.packets.find? fun p => p.number == n with
  | none => s
  | some p =>
    let change (s : State) (f : Packet → Packet) : State :=
      s.updQueue q fun k => { k with packets := k.packets.map fun o => if o.number = n then f o else o }
    let s := change s fun o => { o with started := false }
    let s := s.finishCopies (.packet q n) 257
    let s := match p.parts.reuse with
      | some j => s.dropJob j
      | none => s
    let s := match p.parts.launch with
      | some l => s.endTree l
      | none => s
    (change s fun o => { o with started := true, statuses := [5], parts := {}, steps := 0 }).retirePacket q n

end Sys2Proof.Machine
end

