-- ==== Sys2Proof/Machine/Traces.lean ====
section
/-! DEFINITION. Trace sessions (R441-R445): their descriptors, the buffer and its tail word, and samples. -/

namespace Sys2Proof.Machine

/-- R441: a comparator: a value of n at most, or the one that stands for any. -/
def comparatorOk (v n any : Nat) : Bool := v ≤ n || v = any

/-- R441: a session descriptor that keeps the limits: queues are 0-1,023 (R312), launch identities 0-65,535 (R296), and linear indices below 2^31 - 1 (R294). -/
def sessionOf (d : List Byte) : Option TraceSession :=
  let size := fieldOf d 8 1
  let period := fieldOf d 24 4
  if fieldOf d 0 8 % 4096 = 0 && 12 ≤ size && size ≤ 34 && fieldOf d 9 1 < 8 && zeroBytes d 10 2 && zeroBytes d 22 2 && zeroBytes d 28 4 && zeroBytes d 40 24 &&
      comparatorOk (fieldOf d 12 4) 65535 0xFFFFFFFF && comparatorOk (fieldOf d 16 4) (2 ^ 31 - 2) 0xFFFFFFFF && comparatorOk (fieldOf d 20 2) 1023 0xFFFF &&
      fieldOf d 32 8 % 8 = 0 && (period = 0 || (List.range 15).any fun i => period = 2 ^ (10 + i)) then
    some
      { buffer := fieldOf d 0 8, size := size, full := (fieldOf d 9 1).testBit 0, summary := (fieldOf d 9 1).testBit 1, samples := (fieldOf d 9 1).testBit 2,
        launch := fieldOf d 12 4, group := fieldOf d 16 4, queue := fieldOf d 20 2, period := period, tailWord := fieldOf d 32 8 }
  else none

/-- For whom the command processor works in a context. -/
def commandAgent (c : Nat) : Agent := { die := 0, context := c }

/-- A write that the command processor makes under R190; none when it faults. -/
def State.commandWrite (s : State) (c va : Nat) (bs : List Byte) : Option State :=
  match s.engineLocate (commandAgent c) va bs.length true with
  | .error _ => none
  | .ok (l, t) => t.engineWrite (commandAgent c) l bs

/-- R444: one record goes into the buffer; one that cannot be written is dropped and counted. (DEDUCED, assumption 31) -/
def State.traceOut (s : State) (c : Nat) (t : TraceSession) (rec : List Byte) : State × TraceSession :=
  match s.commandWrite c (t.buffer + t.tail % 2 ^ t.size) rec with
  | some u => (u, { t with tail := t.tail + 16 })
  | none => (s, { t with lost := t.lost + 1 })

/-- R443, R444: a record, after the count of those dropped before it. -/
def State.traceRecordOut (s : State) (c : Nat) (t : TraceSession) (rec : List Byte) : State × TraceSession :=
  if t.lost = 0 then s.traceOut c t rec
  else
    let r := s.traceOut c { t with lost := 0 } (traceRecord 5 0 0 s.time t.lost)
    if r.2.lost = 0 then r.1.traceOut c r.2 rec else (r.1, { r.2 with lost := t.lost + 1 })

/-- R444: every held record is written, and some more, then the tail word. -/
def State.flushSession (s : State) (c : Nat) (t : TraceSession) (more : List (List Byte)) : State × TraceSession :=
  let r := (t.held ++ more).foldl (fun acc rec => acc.1.traceRecordOut c acc.2 rec) (s, { t with held := [] })
  ((r.1.commandWrite c t.tailWord (bytesOfNat 8 r.2.tail)).getD r.1, r.2)

/-- R444: the open session of a queue is flushed. -/
def State.flushTrace (s : State) (q : Nat) : State :=
  match s.queues.get? q with
  | none => s
  | some k =>
    match k.trace with
    | none => s
    | some t =>
      let r := s.flushSession k.context t []
      r.1.updQueue q fun k => { k with trace := some r.2 }

/-- R444, R329: the open session of a queue is closed, with an end record. -/
def State.closeTrace (s : State) (q : Nat) (reset : Bool) : State :=
  match s.queues.get? q with
  | none => s
  | some k =>
    match k.trace with
    | none => s
    | some t => (s.flushSession k.context t [traceRecord 6 0 0 s.time (if reset then 1 else 0)]).1.updQueue q fun k => { k with trace := none }

/-- R443: the state and stall cause of a sampled fibre. -/
def sampleState (x : Fibre) : Nat :=
  let cause (w : Stall) : Nat :=
    match w with
    | .result | .stores | .acquire | .rays _ | .translations | .migration | .resolution | .specRoom | .service _ _ | .saving => 1
    | .queue _ => 2
    | .counts _ _ _ _ _ | .matrix _ => 3
    | .barrier _ | .list _ _ _ => 4
    | .counter _ => 5
    | .syncWord _ _ _ => 6
    | .matrixQueue | .rayUnit _ _ | .collectives => 7
  match x.life with
  | .stalled w => 1 + 16 * cause w
  | .parked => 2
  | .stopped _ _ => 3
  | .placed | .ready | .saved _ _ | .exiting | .gone => 0

/-- R445: the fibre that a session samples in turn n: the matching groups of the core in placement order, in rotation, and each one's members by fid. -/
def State.sampled (s : State) (t : TraceSession) (core n : Nat) : Option Fibre :=
  let gs := s.traceGroups t core
  match gs[n % gs.length]? with
  | none => none
  | some g =>
    let ms := s.members g.1
    (ms[n / gs.length % ms.length]?).map (·.2)

/-- R445: one sample record of a core for a period, in rotation. -/
def execTraceSample (q core : Nat) (s : State) : Host.Outcome State Fault Refusal :=
  match s.queues.get? q with
  | none => .next s
  | some k =>
    match k.trace with
    | none => .next s
    | some t =>
      let period := (s.core core).clock / t.period
      let last := t.sampled.get? core
      if !t.samples || t.period = 0 || (match last with | some l => decide (period ≤ l.1) | none => false) then .next s
      else
        let turn := match last with
          | some l => l.2
          | none => 0
        match s.sampled t core turn with
        | none => .next s
        | some x =>
          let sample := traceRecord 3 core x.fid s.time (x.pc.toNat + 2 ^ 52 * sampleState x)
          .next (s.updQueue q fun k => { k with trace := some { t with held := t.held ++ [sample], sampled := t.sampled.put core (period, turn + 1) } })

end Sys2Proof.Machine
end

