-- ==== Sys2Proof/Machine/Queue.lean ====
section
/-! DEFINITION. The command processor (R312-R330): doorbells and allowances, packets in their order, joint launches, steps and waits, resets, and event rings. -/

namespace Sys2Proof.Machine

/-! ### Doorbells -/

/-- R315: the doorbell count as an atomic read finds it, with the releases of the additions; none where it cannot be read. -/
def State.readBell (s : State) (k : Queue) : Option (Word × List Edge × State) :=
  match s.locateWord 0 k.context false k.bell false with
  | .error _ => none
  | .ok (pa, comp, t) => (t.home.read pa 32 comp).map fun bs =>
    let r := t.blurFreed k.context k.bell.toNat bs
    (wordFieldOf r.1 0, t.edgesOf pa, r.2)

/-- R316: has C advanced by the interval since the last allowance, or reached the count? -/
def Queue.allowanceDue (k : Queue) : Bool := (k.consumed - k.allowed).toNat ≥ k.interval || k.consumed = k.bellRead

/-- R315, R316: the packets that a count announces are copied, `left` of them at most; a slot that cannot be read stays where it is. -/
def State.copyPackets (s : State) (q : Nat) (es : List Edge) (left : Nat) : State :=
  match left with
  | 0 => s
  | left + 1 =>
    match s.queues.get? q with
    | none => s
    | some k =>
      if k.consumed = k.bellRead then s
      else
        match s.engineRange (commandAgent k.context) (k.ring.toNat + 64 * (k.consumed.toNat % 2 ^ k.lsize)) 64 with
        | .error _ => s
        | .ok (bs, t) =>
          let k := { k with packets := k.packets ++ [{ number := k.consumed.toNat, bytes := bs, readAt := s.time, acquired := es }], consumed := k.consumed + 1 }
          let t := t.setQueue q k
          (if k.allowanceDue then t.writeAllowance q else t).copyPackets q es left

/-- R315, R316, R327. -/
def execDoorbellPoll (q : Nat) (s : State) : Host.Outcome State Fault Refusal :=
  match s.queues.get? q with
  | none => .next s
  | some k =>
    if k.state = .halted then .next s
    else
      match s.readBell k with
      | none => .next s
      | some (count, es, t) =>
        let pending := (count - k.consumed).toNat
        if pending > 2 ^ k.lsize then
          .next ((t.setQueue q { k with bellRead := count, state := .halted }).queueStateEvent q 6)
        else if pending = 0 then .next (t.setQueue q { k with bellRead := count })
        else
          let k := { k with bellRead := count, state := if k.state = .idle then .active else k.state }
          let r := t.engineAcquires es
          .next (if r.2 then ((r.1.setQueue q k).copyPackets q [] pending).settleQueue q else r.1)

/-! ### Starting a packet -/

/-- R318, R330: does a queue start packets now? (DEDUCED, assumption 56) -/
def State.queueOpen (s : State) (k : Queue) : Bool :=
  (match k.state with
    | .active | .blocked | .halted => true
    | .idle | .descheduled _ => false) && s.contextRuns k.context && k.events.held.length < 4096

/-- R318, R328: the packet that a queue may start, when no queue of its context with a packet to start stands before it. -/
def State.startable? (s : State) (q : Nat) : Option (Queue × Packet) :=
  match s.queues.get? q with
  | none => none
  | some k =>
    match if s.queueOpen k then k.next else none with
    | none => none
    | some p =>
      let before (e : Nat × Queue) : Bool :=
        e.1 != q && e.2.context == k.context && s.queueOpen e.2 &&
          e.2.next.any fun o => e.2.cls > k.cls || (e.2.cls = k.cls && o.readAt < p.readAt)
      if s.queues.any before then none else some (k, p)

/-- R317: does an event of the table take a packet: of its own type, or of one that does not exist? -/
def Packet.takenBy (p : Packet) (type : Nat) : Bool := p.type = type || (type != 5 && (p.type = 0 || p.type ≥ 8))

/-- R318: what a packet acquires as it starts: a wait for earlier packets acquires what they released, before anything that the packet does. -/
def Queue.startEdges (k : Queue) (p : Packet) : List Edge := if p.waitsEarlier then addEdges 193 p.acquired k.acquired else p.acquired

/-- R318: a packet starts, its edges acquired. -/
def State.startPacket (s : State) (q : Nat) (k : Queue) (p : Packet) : State :=
  s.updQueue q fun u =>
    { u with packets := u.packets.map fun o => if o.number = p.number then { o with started := true, acquired := k.startEdges p } else o }

/-- A started packet retires with a status. -/
def State.finishPacket (s : State) (q n status : Nat) : State :=
  (s.updQueue q fun u => { u with packets := u.packets.map fun o => if o.number = n then { o with statuses := o.statuses ++ [status] } else o }).retirePacket q n

/-- R317, R318: the next packet of a queue, of a type, starts and does what its type says; an illegal one retires with status 6. -/
def State.packetStep (s : State) (q type : Nat) (op : Packet → Bool) (k : State → Queue → Packet → State) : Host.Outcome State Fault Refusal :=
  match s.startable? q with
  | none => .next s
  | some (u, p) =>
    if !p.takenBy type || !(op p || !packetLegal p.bytes) then .next s
    else
      let r := s.engineAcquires (u.startEdges p)
      let t := r.1.startPacket q u p
      .next (if !r.2 then r.1 else (if packetLegal p.bytes then k t u p else t.finishPacket q p.number 6).settleQueue q)

/-- The edges that work started by a packet acquires (R318). -/
def Queue.launchEdges (u : Queue) (p : Packet) : List Edge := addEdges 193 (if p.waitsEarlier then addEdges 193 p.acquired u.acquired else p.acquired) [homeEdge]

/-! ### Joint launches -/

/-- R320: the fields of a joint launch that stand in the packet alone. -/
def jointOk (b : List Byte) : Bool :=
  let mask := fieldOf b 8 1
  let m (i : Nat) : Bool := mask.testBit i
  mask != 0 && mask < 16 && (m 0 || !m 1) && (if m 0 then fieldOf b 16 8 % 64 = 0 else zeroBytes b 16 8) &&
    (if m 1 then 1 ≤ fieldOf b 12 4 && fieldOf b 12 4 ≤ 4096 && fieldOf b 24 8 % 32 = 0 && fieldOf b 56 8 % 32 = 0
     else zeroBytes b 12 4 && zeroBytes b 24 12 && zeroBytes b 56 8) &&
    (if m 2 then 1 ≤ fieldOf b 36 4 && fieldOf b 36 4 ≤ 256 && fieldOf b 40 8 % 64 = 0 else zeroBytes b 36 12) &&
    (if m 3 then fieldOf b 48 8 % 64 = 0 else zeroBytes b 48 8)

/-- R320: the job of a joint launch, when it is read and keeps its limits. -/
def State.jointJob (s : State) (q n : Nat) (k : Queue) (addr : Nat) : Option (ReuseJob × State) :=
  match s.engineRange (commandAgent k.context) addr 128 with
  | .error _ => none
  | .ok (bs, t) =>
    if jobOk s.diesUp (s.storeRecords k.context) bs then
      some ({ context := k.context, cls := k.cls, desc := bs, packet := some (q, n), root := (q, n), state := s.firstState }, t)
    else none

/-- R303, R320: can the cell of a predicted launch be written? -/
def State.cellWritable (s : State) (c : Nat) (r : LaunchRecord) : Bool :=
  !r.predicted || match s.engineLocate (commandAgent c) r.cell.toNat 16 true with
    | .ok (.mem _ _ _ _ _, _) => true
    | .ok (.slice _, _) | .ok (.grant _, _) | .error _ => false

/-- R320, R321: the grid of a joint launch is accepted, with its stream: the launch's key. -/
def State.jointGrid (s : State) (q : Nat) (k : Queue) (p : Packet) : Option (Nat × State) :=
  match s.readPlan (engineReader (commandAgent k.context)) (engineReader (commandAgent k.context)) (fieldOf p.bytes 16 8) none false with
  | .error _ | .ok (none, _) => none
  | .ok (some plan, t) =>
    let r := plan.record
    let stream := (fieldOf p.bytes 8 1).testBit 1
    let groups := r.x * r.y * (if r.predicted then r.zmin else r.z)
    let group := fieldOf p.bytes 32 4
    if (stream && group ≥ groups) || !t.cellWritable k.context r then none
    else
      let w : Launcher := { context := k.context, cls := k.cls, depth := 0, queue := q, packet := p.number, tag := p.tag, edges := k.launchEdges p }
      match t.accept w plan with
      | none => none
      | some (lk, t) =>
        if !stream then some (lk, t)
        else
          some (lk, { t with groups := t.groups.mapAll fun _ g =>
            if g.launch = lk && g.linear = group then { g with stream := some (q, p.number, wordFieldOf p.bytes 24, fieldOf p.bytes 12 4) } else g })

/-- R320: every sub-launch of a joint launch is accepted in one step, or none is: the state, with the launch. -/
def State.acceptJoint (s : State) (q : Nat) (k : Queue) (p : Packet) : Option (State × Option Nat) :=
  let b := p.bytes
  let m (i : Nat) : Bool := (fieldOf b 8 1).testBit i
  if !jointOk b then none
  else do
    let (grid, t) ← if m 0 then (s.jointGrid q k p).map fun r => (some r.1, r.2) else some (none, s)
    let (job, t) ← if m 3 then (t.jointJob q p.number k (fieldOf b 48 8)).map fun r => (some r.1, r.2) else some (none, t)
    let (jk, t) := match job with
      | some j => let r := t.acceptJob { j with acquired := k.launchEdges p }; (some r.2, r.1)
      | none => (none, t)
    let parts : PacketParts :=
      { launch := grid,
        stream := if m 1 then some (fieldOf b 12 4, wordFieldOf b 56) else none,
        copies := if m 2 then some { fibre := none, unit := 0, list := wordFieldOf b 40, count := fieldOf b 36 4, guard := none, acquired := k.launchEdges p } else none,
        reuse := jk }
    let slot := match grid.bind t.launches.get? with
      | some l => l.slot
      | none => 0
    return (t.updQueue q fun u => { u with packets := u.packets.map fun o => if o.number = p.number then { o with parts := parts, identity := slot } else o }, grid)

/-- R320. -/
def execJointLaunch (q : Nat) (s : State) : Host.Outcome State Fault Refusal :=
  s.packetStep q 1 (fun _ => true) fun t k p =>
    match t.acceptJoint q k p with
    | none => t.finishPacket q p.number 1
    | some (u, some lk) => u.launchProgress lk
    | some (u, none) => u

/-! ### Steps, waits and times -/

/-- R324: step 1 of a type-2 packet. -/
def execWriteThenSignal (q : Nat) (s : State) : Host.Outcome State Fault Refusal :=
  s.packetStep q 2 (fun _ => true) fun t k p =>
    match t.commandWrite k.context (fieldOf p.bytes 8 8) ((p.bytes.drop 16).take 8) with
    | none => t.finishPacket q p.number 7
    | some u => u.updQueue q fun v => { v with packets := v.packets.map fun o => if o.number = p.number then { o with steps := 1 } else o }

/-- R324, R328: step 2, of a queue that is not descheduled. -/
def execSignalStep (q : Nat) (s : State) : Host.Outcome State Fault Refusal :=
  match s.queues.get? q with
  | none => .next s
  | some k =>
    match k.packets.find? fun p => p.started && p.type = 2 && p.steps = 1 with
    | none => .next s
    | some p =>
      if (match k.state with | .descheduled _ => true | .idle | .active | .blocked | .halted => false) || !s.contextRuns k.context then .next s
      else
        let sync := wordFieldOf p.bytes 24
        let added := if sync = 0 then .ok s else s.engineAdd 0 k.context false sync (fieldOf p.bytes 32 8) p.acquired
        match added with
        | .ok t => .next (t.finishPacket q p.number 0)
        | .error _ => .next (s.finishPacket q p.number 7)

/-- R325: the read of a type-3 packet that has started: it retires when the generation is reached, or when the read faults. -/
def State.waitRead (s : State) (q : Nat) (k : Queue) (p : Packet) : State :=
  match s.locateWord 0 k.context false (wordFieldOf p.bytes 8) false with
  | .error _ => s.finishPacket q p.number 7
  | .ok (pa, comp, t) =>
    if t.home.faulty pa 32 comp then s.finishPacket q p.number 7
    else
      match t.readGen k.context (fieldOf p.bytes 8 8) pa comp with
      | none => t.finishPacket q p.number 7
      | some (gen, t) =>
        if genReached gen (BitVec.ofNat 32 (fieldOf p.bytes 16 4)) then
          let r := t.engineAcquires (t.edgesOf pa)
          if r.2 then r.1.finishPacket q p.number 0 else r.1
        else t

/-- R325. -/
def execWaitOnValue (q : Nat) (s : State) : Host.Outcome State Fault Refusal := s.packetStep q 3 (fun _ => true) fun t k p => t.waitRead q k p

/-- R325. -/
def execWaitValuePoll (q : Nat) (s : State) : Host.Outcome State Fault Refusal :=
  match s.queues.get? q with
  | none => .next s
  | some k =>
    match k.packets.find? fun p => p.started && p.type = 3 with
    | none => .next s
    | some p =>
      if (match k.state with | .descheduled _ => true | .idle | .active | .blocked | .halted => false) || !s.contextRuns k.context then .next s
      else .next ((s.waitRead q k p).settleQueue q)

/-- R326: a type-4 packet. -/
def execTimestamp (q : Nat) (s : State) : Host.Outcome State Fault Refusal :=
  s.packetStep q 4 (fun _ => true) fun t k p =>
    match t.commandWrite k.context (fieldOf p.bytes 8 8) (bytesOfNat 8 s.time) with
    | none => t.finishPacket q p.number 7
    | some u => u.finishPacket q p.number 0

/-- R317: the operation of a type-5 packet. -/
def Packet.traceOp (p : Packet) (op : Nat) : Bool := fieldOf p.bytes 8 1 = op

/-- R326, R441. -/
def execTraceOpen (q : Nat) (s : State) : Host.Outcome State Fault Refusal :=
  s.packetStep q 5 (·.traceOp 0) fun t k p =>
    let at_ := fieldOf p.bytes 16 8
    if k.trace.isSome || at_ % 64 != 0 then t.finishPacket q p.number 8
    else
      match t.engineRange (commandAgent k.context) at_ 64 with
      | .error _ => t.finishPacket q p.number 8
      | .ok (bs, u) =>
        match sessionOf bs with
        | none => u.finishPacket q p.number 8
        | some session => (u.updQueue q fun v => { v with trace := some session }).finishPacket q p.number 0

/-- R326, R444. -/
def execTraceClose (q : Nat) (s : State) : Host.Outcome State Fault Refusal :=
  s.packetStep q 5 (·.traceOp 1) fun t _ p => (t.closeTrace q false).finishPacket q p.number 0

/-- R326, R444. -/
def execTraceFlush (q : Nat) (s : State) : Host.Outcome State Fault Refusal :=
  s.packetStep q 5 (·.traceOp 2) fun t _ p => (t.flushTrace q).finishPacket q p.number 0

/-- R326. -/
def execMarker (q : Nat) (s : State) : Host.Outcome State Fault Refusal := s.packetStep q 7 (fun _ => true) fun t _ p => t.finishPacket q p.number 0

/-! ### Resets -/

/-- R329: steps 1 to 4 of a reset, for the packets that a condition names: the started ones end, the others are gone. (DEDUCED, assumption 40) -/
def State.resetPackets (s : State) (q : Nat) (which : Packet → Bool) : State :=
  match s.queues.get? q with
  | none => s
  | some k =>
    let s := (k.packets.filter fun p => p.started && which p).foldl (fun s p => s.endPacket q p.number) s
    let kept (n : Nat) : Bool := k.packets.any fun p => p.number == n && !which p
    let s := (s.jobs.keys fun _ j => j.root.1 == q && !kept j.root.2).foldl State.dropJob s
    let s := s.updQueue q fun u => { u with packets := u.packets.filter fun p => !which p, state := .active }
    let s := s.closeTrace q true
    let s := (s.updQueue q fun u => { u with consumed := u.bellRead }).writeAllowance q
    (s.queueStateEvent q 5).settleQueue q

/-- R329: a type-6 packet resets the packets before it. -/
def execQueueResetPacket (q : Nat) (s : State) : Host.Outcome State Fault Refusal :=
  s.packetStep q 6 (fun _ => true) fun t k p =>
    (t.resetPackets q fun o => k.packets.findIdx (fun a => a.number = o.number) < k.packets.findIdx (fun a => a.number = p.number)).finishPacket q p.number 0

/-! ### Event rings -/

/-- R330: the ring of a queue or of a context, and the context that owns it. -/
def State.ring? (s : State) (r : RingId) : Option (Ring × Nat) :=
  match r with
  | .queue q => (s.queues.get? q).map fun k => (k.events, k.context)
  | .context c => (s.contexts.get? c).map fun k => (k.events, c)

/-- Replace a ring. -/
def State.setRing (s : State) (r : RingId) (v : Ring) : State :=
  match r with
  | .queue q => s.updQueue q fun k => { k with events := v }
  | .context c => s.updContext c fun k => { k with events := v }

/-- R330, R332, R342: bytes 0-27 of an event record. -/
def Event.body (e : Event) : List Byte :=
  [BitVec.ofNat 8 e.kind, BitVec.ofNat 8 e.status] ++ bytesOfNat 2 e.queue ++ bytesOfNat 4 e.tag.toNat ++ bytesOfNat 4 e.low.toNat ++ bytesOfNat 4 e.high.toNat ++
    bytesOfNat 8 e.word.toNat ++ [BitVec.ofNat 8 e.context, 0, 0, 0]

/-- R330: has the ring room for one more record? -/
def Ring.hasRoom (r : Ring) : Bool := (BitVec.ofNat 32 (r.seq + 1) - r.acked).toNat ≤ 2 ^ r.size

/-- R330: the oldest held event is written: what it reports reaches memory first, then bytes 0-27, then the seq. -/
def execEventWrite (r : RingId) (s : State) : Host.Outcome State Fault Refusal :=
  match s.ring? r with
  | none => .next s
  | some (v, _) =>
    match v.held with
    | [] => .next s
    | e :: rest =>
      if !v.hasRoom then .next s
      else
        let at_ := v.base.toNat + 32 * (v.seq % 2 ^ v.size)
        let a := s.engineAcquires e.acquired
        let s := { a.1 with host := (a.1.host.writeBytes at_ e.body).writeNat (at_ + 28) 4 (v.seq + 1) }
        .next (if a.2 then s.setRing r { v with seq := v.seq + 1, held := rest } else a.1)

/-- R330: the acknowledgement word, as a load of the context; a read that faults leaves the last value in force. -/
def execEventAckPoll (r : RingId) (s : State) : Host.Outcome State Fault Refusal :=
  match s.ring? r with
  | none => .next s
  | some (v, c) =>
    match s.engineBytes (commandAgent c) v.ack.toNat 8 with
    | .error _ => .next s
    | .ok (bs, t) => .next (t.setRing r { v with acked := BitVec.ofNat 32 (natOfBytes bs) })

end Sys2Proof.Machine
end

