-- ==== Sys2Proof/Machine/Context.lean ====
section
/-! DEFINITION. Contexts (R328, R331-R335, R342, R344): carve-outs, slices, scheduling, abort, dumps, and the services of `sys`. -/

namespace Sys2Proof.Machine

/-! ### Carve-outs -/

/-- R331: MiB of L2 that a context's carve-outs take on each die. -/
def ContextDesc.carve (d : ContextDesc) : Nat := d.reservoirMib + d.specMib

/-- R334: MiB of live L2 of a die: 3 for each slice in service. -/
def State.liveL2 (s : State) (die : Nat) : Nat := 3 * (256 - (s.fences.filter fun u => match u with | .slice d _ => d == die | _ => false).length)

/-- R334: MiB that carve-outs may take on every die in service. -/
def State.carveRoom (s : State) : Nat := (s.diesUp.map s.liveL2).foldl Nat.min (s.liveL2 (s.diesUp.headD 0)) - 64

/-- R334: MiB of carve-outs bound, of the contexts that a condition names. -/
def State.boundMib (s : State) (p : Nat → Context → Bool) : Nat := ((s.contexts.filter fun e => e.2.bound && p e.1 e.2).map fun e => e.2.desc.carve).sum

/-- R334: is the save region too small to hold the carve-outs after the groups? -/
def State.unbindable (s : State) (c : Nat) (k : Context) : Bool :=
  s.saveEnd c k + k.desc.carve * 2 ^ 20 * s.diesUp.length > k.desc.saveBase + k.desc.saveSize

/-- R334: may core 2 unbind a context? -/
def State.mayUnbind (s : State) (c : Nat) (k : Context) : Bool := k.bound && (k.state == .loaded || k.state == .saved) && !s.unbindable c k

/-- R334: can a context be bound, once every other that may be unbound is? -/
def State.bindable (s : State) (c : Nat) (k : Context) : Bool := s.boundMib (fun i q => i != c && !s.mayUnbind i q) + k.desc.carve ≤ s.carveRoom

/-- R334: a context's carve-outs go to the end of its save region; their layout there is open. (DESIGN CHOICE, assumption 27) -/
def State.unbind (s : State) (c : Nat) (k : Context) : State :=
  let n := k.desc.carve * 2 ^ 20 * s.diesUp.length
  let r := s.freeBytes n
  (r.2.deviceWriteRange 0 c (k.desc.saveBase + k.desc.saveSize - n) r.1).updContext c fun q => { q with bound := false }

/-- R334: contexts are unbound, least recently run first, until another fits. -/
def State.makeRoom (s : State) (c need : Nat) : List (Nat × Context) → State
  | [] => s
  | e :: es => if s.boundMib (fun i _ => i != c) + need ≤ s.carveRoom then s else (s.unbind e.1 e.2).makeRoom c need es

/-- R334: a context that starts is bound; where a fence has left too little room, others are unbound now. -/
def State.bind (s : State) (c : Nat) (k : Context) : State :=
  let others := sortBy (fun a b => a.2.lastRun < b.2.lastRun || (a.2.lastRun = b.2.lastRun && a.1 ≤ b.1)) (s.contexts.filter fun e => e.1 != c && s.mayUnbind e.1 e.2)
  (s.makeRoom c k.desc.carve others).updContext c fun q => { q with bound := true }

/-- R25, R182: the slice table of a context: a fenced slice of a die is pointed at the next live one. (DESIGN CHOICE, assumption 67) -/
def State.sliceTable (s : State) : Tab Nat :=
  let live (d i : Nat) : Bool := !s.fences.contains (.slice d i)
  ([0, 1].flatMap fun d => ((List.range 256).filter fun i => !live d i).map fun i =>
    (256 * d + i, (((List.range 256).map fun j => (i + j) % 256).find? (live d)).getD i)).foldl (fun t e => Tab.put t e.1 e.2) []

/-! ### Scheduling -/

/-- R328: the class of a context: the highest among its queues. -/
def State.contextClass (s : State) (c : Nat) : Nat := ((s.queues.filter fun e => e.2.context == c).map fun e => e.2.cls).foldl Nat.max 0

/-- R328: is a context ready: a queue with packets, or work resident? -/
def State.contextReady (s : State) (c : Nat) : Bool :=
  (s.queues.any fun e => e.2.context == c && match e.2.state with
    | .active | .blocked | .descheduled _ => true
    | .idle | .halted => false) || (s.launches.any fun e => e.2.context == c) || s.jobs.any fun e => e.2.context == c

/-- R327: the queues of a context are descheduled. -/
def State.deschedule (s : State) (c : Nat) : State :=
  { s with queues := s.queues.mapAll fun _ (q : Queue) =>
      if q.context != c then q
      else match q.state with
        | .active => { q with state := .descheduled false }
        | .blocked => { q with state := .descheduled true }
        | .idle | .descheduled _ | .halted => q }

/-- R327: they resume; one whose packets have all retired meanwhile is Idle. -/
def State.reschedule (s : State) (c : Nat) : State :=
  (s.queues.keys fun _ q => q.context == c).foldl State.settleQueue
    { s with queues := s.queues.mapAll fun _ (q : Queue) =>
        if q.context != c then q
        else match q.state with
          | .descheduled b => { q with state := if b then .blocked else .active }
          | .idle | .active | .blocked | .halted => q }

/-- R331: the slice of a context, in nanoseconds. -/
def Context.slice (k : Context) : Nat := (if k.desc.sliceMicros = 0 then 2000 else k.desc.sliceMicros) * 1000

/-- R328: does a waiting context of equal or higher class need room that a Running one holds? -/
def State.roomWanted (s : State) (c : Nat) (k : Context) : Bool :=
  let cls := s.contextClass c
  let carve := s.contexts.any fun e =>
    e.1 != c && (e.2.state == .loaded || e.2.state == .saved) && s.contextReady e.1 && s.contextClass e.1 ≥ cls && k.desc.carve > 0 && !s.bindable e.1 e.2
  let noCore (e : Nat × Group) : Bool :=
    match s.launches.get? e.2.launch, e.2.state with
    | some l, .waiting => s.phaseOpen e.2 && (s.placeOn l e.2.die l.kernel.smin).isNone
    | some l, .saved _ _ => ((coresOf e.2.die).filter (s.fitsSaved l e.1 e.2)).isEmpty
    | _, _ => false
  let core := s.groups.any fun e =>
    e.2.context != c && s.contextRuns e.2.context && s.contextClass e.2.context ≥ cls && e.2.since ≤ k.sliceStart && noCore e &&
      (s.residentGroups c).any fun r => r.2.die == e.2.die
  carve || core

/-- R328, R335: at the end of its slice a Running context is pre-empted if another needs its room; else, or when its save region cannot hold its groups, it
gets a new slice. -/
def execSliceEnd (c : Nat) (s : State) : Host.Outcome State Fault Refusal :=
  match s.contexts.get? c with
  | none => .next s
  | some k =>
    if k.state != .running || s.time < k.sliceStart + k.slice then .next s
    else
      let again (s : State) : State := s.updContext c fun q => { q with sliceStart := s.time }
      if !s.roomWanted c k then .next (again s)
      else if !s.saveFits c k then .next (again (s.contextEvent c { kind := 12, word := BitVec.ofNat 64 s.time }))
      else .next ((s.deschedule c).updContext c fun q => { q with state := .saving })


/-- R328, R334: core 2 runs a ready context that can be bound, when none of a higher class waits that can be. The start of a Loaded context is the context start at
which its slice table is written anew; a Saved one keeps its table (DESIGN CHOICE, assumption 111). -/
def execContextSchedule (c : Nat) (s : State) : Host.Outcome State Fault Refusal :=
  match s.contexts.get? c with
  | none => .next s
  | some k =>
    let waits (i : Nat) (q : Context) : Bool := (q.state == .loaded || q.state == .saved) && s.contextReady i && s.bindable i q
    if !waits c k || s.platform.holding || (s.contexts.any fun e => waits e.1 e.2 && s.contextClass e.1 > s.contextClass c) then .next s
    else
      let s := (s.bind c k).updContext c fun q =>
        { q with state := .running, sliceStart := s.time, lastRun := s.time, sliceTable := if q.state = .loaded then s.sliceTable else q.sliceTable }
      let s := { s with groups := s.groups.mapAll fun _ (g : Group) => if g.context = c then { g with since := s.time } else g }
      .next ((s.reschedule c).restoreSaved fun g => g.context == c)

/-! ### Dumps -/

/-- R344: a section: its header and its bytes. (DESIGN CHOICE, assumption 59) -/
def dumpSection (kind count : Nat) (bs : List Byte) : List Byte :=
  padTo 32 0 (bytesOfNat 4 kind ++ bytesOfNat 4 count ++ bytesOfNat 8 bs.length) ++ bs

/-- R344: an entry for each fibre of a context: its record, then its save area. -/
def State.dumpFibres (s : State) (c : Nat) : List (List Byte) :=
  (s.frames.filter fun e => e.2.context == c).filterMap fun e =>
    (s.anyFibre e.1).map fun x => s.frameImage e.2 ++ x.saveArea (s.bankOf x)

/-- R344: an entry for a group. -/
def State.dumpGroup (s : State) (k : Group) : List Byte :=
  let index (f : Nat) : Nat := match s.fibres.get? f with
    | some x => x.fid
    | none => 0
  let guard (v : GuardState) : Byte := match v with
    | .open_ => 0
    | .true_ => 1
    | .false_ => 2
  let arrived (b : Barrier) : Nat := (distinct (b.arrivals.map index)).foldl (fun m i => m + 2 ^ i) 0
  bytesOfNat 4 k.gx ++ bytesOfNat 4 k.gy ++ bytesOfNat 4 k.gz ++ bytesOfNat 4 k.linear ++ k.bank.toList.flatMap (fun w => bytesOfNat 8 w.toNat) ++
    k.barriers.toList.flatMap (fun b => bytesOfNat 4 b.phase.toNat ++ bytesOfNat 4 0 ++ bytesOfNat 128 (arrived b)) ++ k.guards.toList.map guard ++
    padTo 64 0 k.errorRecord ++ k.slice.readBytes 0 k.grant ++
    (List.range (1024 * k.units)).flatMap fun i => bytesOfNat 4 (match k.accumulators.find? fun a => a.1 == i with | some a => a.2.toNat | none => 0)

/-- R344: an entry for each of n lines from an address on: the image at its home. -/
def State.dumpLines (s : State) (c va n : Nat) : List (List Byte) :=
  (List.range n).filterMap fun i => (s.deviceLocate 0 c (va / 64 * 64 + 64 * i)).map fun r => s.home.mem.readBytes r.1 64

/-- R344: an entry for each dirty line of a core: its address, byte mask, release stamp and bytes. -/
def CoreState.dumpDirty (k : CoreState) : List (List Byte) :=
  (distinct (k.dirty.map fun e => e.1 / 64)).map fun l =>
    let at_ (i : Nat) : Option DirtyByte := k.dirty.get? (64 * l + i)
    let stamp := ((List.range 64).filterMap fun i => (at_ i).map (·.stamp)).foldl Nat.max 0
    bytesOfNat 8 (64 * l) ++ bytesOfNat 8 ((List.range 64).foldl (fun m i => if (at_ i).isSome then m + 2 ^ i else m) 0) ++ bytesOfNat 8 stamp ++
      (List.range 64).map fun i => match at_ i with
        | some b => b.value
        | none => 0

/-- R344: an entry of a store buffer: its address, width and value. -/
def dumpStore (at_ : Nat) (bs : List Byte) : List Byte := bytesOfNat 8 at_ ++ bytesOfNat 8 bs.length ++ padTo ((bs.length + 7) / 8 * 8) 0 bs

/-- R344: an entry for each write of a store buffer; for a reduction or a sync addition, with its operand as value; for a record, with its store word as address. -/
def Fibre.dumpStores (x : Fibre) : List (List Byte) :=
  x.pend.flatMap fun p => match p.op with
    | .store ws _ => ws.map fun w => dumpStore w.1.address.toNat w.2
    | .ared l (.op _ t _ _ v _) => [dumpStore l.address.toNat (bytesOfNat (t.width / 8) v.toNat)]
    | .syncInit l v | .syncAdd l v => [dumpStore l.address.toNat (bytesOfNat 8 v.toNat)]
    | .rsStore die index ws => [dumpStore (die * 2 ^ 24 + index) (ws.flatMap fun w => bytesOfNat 8 w.toNat)]
    | _ => []

/-- R344: the dump of a context, with the lines that a request names: an address and a count. -/
def State.dumpBytes (s : State) (c : Nat) (k : Context) (lines : Nat × Nat) : List Byte :=
  let fs := s.fibres.filter fun e => e.2.context == c
  let many (kind : Nat) (es : List (List Byte)) : List Byte := dumpSection kind es.length es.flatten
  dumpSection 1 1 k.desc.bytes ++ many 2 (s.dumpFibres c) ++
    many 3 ((s.groups.filter fun e => e.2.context == c && (match e.2.state with | .retired | .dropped => false | _ => true)).map fun e => s.dumpGroup e.2) ++
    many 4 (s.dumpLines c lines.1 lines.2) ++
    many 5 (((s.cores.keys fun _ (q : CoreState) => q.held.contains c).flatMap fun i => (s.core i).dumpDirty) ++ fs.flatMap fun e => e.2.dumpStores)

/-- R344: a dump is written to the dump area, as far as it reaches. -/
def State.writeDump (s : State) (c : Nat) (lines : Nat × Nat) : State :=
  match s.contexts.get? c with
  | none => s
  | some k => if k.desc.dumpSize = 0 then s else s.deviceWriteRange 0 c k.desc.dumpBase ((s.dumpBytes c k lines).take k.desc.dumpSize)

/-! ### Abort and destruction -/

/-- R333, R434: a context is Dumping: its groups stop, and its collectives end. -/
def State.enterDump (s : State) (c : Nat) : State :=
  let s := s.updContext c fun q => { q with state := .dumping }
  (s.contextEvent c { kind := 11, word := BitVec.ofNat 64 s.time }).abortCollectives c

/-- R333: `sys` service 1 or a destroy message aborts a Running or a Saved context. -/
def State.abortContext (s : State) (c : Nat) : State :=
  match s.contexts.get? c with
  | none => s
  | some k =>
    match k.state with
    | .running | .saved => s.enterDump c
    | .loaded | .saving | .dumping => s

/-- R422, R456, R457: an error, or a die or a package that leaves service, also aborts a context that is being saved. (DEDUCED, assumption 96) -/
def State.abortAny (s : State) (c : Nat) : State :=
  match s.contexts.get? c with
  | none => s
  | some k =>
    match k.state with
    | .running | .saving | .saved => s.enterDump c
    | .loaded | .dumping => s

/-- R333, R335, R457: a context with a group whose state cannot be read back is aborted; one that a destroy message waits for is aborted once it is Saved. -/
def execContextSaved (c : Nat) (s : State) : Host.Outcome State Fault Refusal :=
  match s.contexts.get? c with
  | none => .next s
  | some k =>
    if k.state != .saving || !s.drained c then .next s
    else if (s.residentGroups c).all (fun e => s.readable e.1 e.2) && (s.looseFibres c).all fun e => e.2.badStack.isEmpty then
      .next (if k.destroying.isSome then (s.saveContext c).abortContext c else s.saveContext c)
    else .next (s.abortAny c)

/-- R208: the earliest parked fibre is saved, once its loads and stores are performed and its group's bank writes have taken effect (R245). An uncorrectable error
found in its stack is one in context state (R457). -/
def execParkedFibreSave (core : Nat) (s : State) : Host.Outcome State Fault Refusal :=
  match s.savable core with
  | [] => .next s
  | e :: _ =>
    if s.mustSave core && e.2.pend.isEmpty then
      let t := match e.2.group with
        | some g => s.settleBank g
        | none => s
      .next (if e.2.badStack.isEmpty then t.saveParked e.1 e.2 (e.2.saveArea (t.bankOf e.2)) else t.abortAny e.2.context)
    else .next s

/-- R339: the bytes of a slot. -/
def Window.message (w : Window) (slot : Nat) : List Byte := w.bytes.readBytes (64 * slot) 64

/-- R339: the reply to the message of a slot: ticket, status and value; the slot takes a new message. -/
def State.reply (s : State) (slot status value : Nat) : State :=
  let m := s.mailbox.message slot
  { s with
    host := s.host.writeBytes (fieldOf m 24 8) (bytesOfNat 4 (fieldOf m 4 4) ++ [BitVec.ofNat 8 status, 0, 0, 0] ++ bytesOfNat 8 value)
    mailbox := { s.mailbox with pending := s.mailbox.pending.filter (· != slot) } }

/-- R333: a Loaded context becomes Free: its queues are destroyed, and its translations go with it. -/
def State.freeContext (s : State) (c : Nat) : State :=
  let s := s.invalidate c 0 (2 ^ 52)
  { s with
    contexts := s.contexts.del c
    queues := s.queues.filter fun e => e.2.context != c
    marks := s.marks.filter fun e => e.2.context != c
    cores := s.cores.mapAll fun _ (q : CoreState) => { q with held := q.held.filter (· != c) } }

/-- R329, R333: everything that a context runs ends. -/
def State.clearContext (s : State) (c : Nat) : State :=
  let s := (s.queues.keys fun _ q => q.context == c).foldl (fun s q => s.resetPackets q fun _ => true) s
  let s := s.endLaunches (s.launches.keys fun _ l => l.context == c)
  let s := (s.jobs.keys fun _ j => j.context == c).foldl State.dropJob s
  s.updContext c fun q => { q with state := .loaded, lastRun := s.time, heap := [], freed := [], unset := [], tickets := [], results := [] }

/-- R333, R344: the dump is written; the context is Loaded again, or Free when a destroy message waits. -/
def execDumpComplete (c : Nat) (s : State) : Host.Outcome State Fault Refusal :=
  match s.contexts.get? c with
  | none => .next s
  | some k =>
    if k.state != .dumping then .next s
    else
      let s := (s.writeDump c (0, 0)).clearContext c
      match k.destroying with
      | some slot => .next ((s.freeContext c).reply slot 0 0)
      | none => .next s

/-! ### Services -/

/-- R342: a ticket that is not outstanding, from one on. `fuel` bounds the search. -/
def freeTicket (used : List (Nat × Nat)) (from_ fuel : Nat) : Nat :=
  match fuel with
  | 0 => from_ % 2 ^ 32
  | fuel + 1 => if used.any fun t => t.1 == from_ % 2 ^ 32 then freeTicket used (from_ + 1) fuel else from_ % 2 ^ 32

/-- R342. -/
def execSys (d : Dst) (a b : Src) (s : State) : Host.Outcome State Fault Refusal :=
  s.issueWith fun f x =>
    let service := x.read (s.bankOf x) a
    let arg := x.read (s.bankOf x) b
    if x.speculative then .stall .resolution
    else
      let r := s.releaseOn x.core
      match service.toNat with
      | 0 => .done (r.1.setFibre f ((x.write d 0).acquire [homeEdge]))
      | 1 => .wait (r.1.abortContext x.context) .saving
      | n =>
        if n < 256 then .done (r.1.setFibre f ((x.write d 0xFFFFFFFFFFFFFFFF).acquire [homeEdge]))
        else
          match r.1.contexts.get? x.context with
          | none => .done r.1
          | some c =>
            let ticket := freeTicket c.tickets c.nextTicket (c.tickets.length + 1)
            let t := r.1.setContext x.context { c with tickets := c.tickets ++ [(ticket, f)], nextTicket := ticket + 1 }
            .wait
              (t.contextEvent x.context
                { kind := 9, tag := BitVec.ofNat 32 ticket, low := arg.setWidth 32, high := (arg >>> 32).setWidth 32, word := service, acquired := [r.2] })
              (.service ticket d)

end Sys2Proof.Machine
end

