-- ==== Sys2Proof/Machine/Convoy.lean ====
section
/-! DEFINITION. Convoys and their passes (R82-R85), requests that are promoted (R21), and the repetition of a unit (R71). -/

namespace Sys2Proof.Machine

/-! ### Forming -/

/-- R82, R207: whose convoys a fibre joins. -/
def Fibre.kin (x : Fibre) : ConvoyOf :=
  match x.group with
  | some g => .group g
  | none => .detached x.launch

/-- R82: the program point of a convoy. -/
def State.convoyPoint (s : State) (c : Convoy) : Point :=
  match c.members with
  | [] => (0, 0)
  | f :: _ => s.pointOf f

/-- R82: put a member in the order of group-relative indices. -/
def State.insertMember (s : State) (members : List Nat) (f : Nat) : List Nat :=
  let fid (m : Nat) : Nat := match s.fibres.get? m with
    | some x => x.fid
    | none => 0
  insertBy (fun a b => fid a ≤ fid b) f members

/-- R82: a fibre joins a convoy of its kin with its program point and room, else forms a new one. -/
def State.joinConvoy (s : State) (core f : Nat) (x : Fibre) : State :=
  let k := s.core core
  match k.convoys.find? fun e => e.2.of == x.kin && e.2.members.length < Config.fibresPerConvoy && s.convoyPoint e.2 == (x.pc, x.rep) with
  | some e => s.setCore core { k with convoys := k.convoys.put e.1 { e.2 with members := s.insertMember e.2.members f } }
  | none => s.formConvoy core x.kin [f]

/-- R82: the Ready fibres of a core that belong to no convoy, in ascending index. -/
def State.unformed (s : State) (core : Nat) : List (Nat × Fibre) :=
  let k := s.core core
  sortBy (fun a b => a.2.fid ≤ b.2.fid) ((s.fibresOn core).filter fun e => e.2.life == .ready && !k.convoys.any fun c => c.2.members.contains e.1)

/-- R82: merge convoy k into the first earlier convoy of its kin, at its point, with room for both. The earlier one keeps its lane and age
(DESIGN CHOICE, assumption 102). -/
def State.mergeConvoy (s : State) (core k : Nat) : State :=
  let q := s.core core
  match q.convoys.get? k with
  | none => s
  | some c =>
    match q.convoys.find? fun e =>
        e.1 < k && e.2.of == c.of && e.2.members.length + c.members.length ≤ Config.fibresPerConvoy && s.convoyPoint e.2 == s.convoyPoint c with
    | none => s
    | some e =>
      s.setCore core { q with convoys := (q.convoys.del k).put e.1 { e.2 with members := c.members.foldl s.insertMember e.2.members } }

/-- R82: one forming step of a core. -/
def execConvoyForming (core : Nat) (s : State) : Host.Outcome State Fault Refusal :=
  if s.pass.isSome then .next s
  else
    let s := (s.unformed core).foldl (fun s e => s.joinConvoy core e.1 e.2) s
    .next (((s.core core).convoys.map (·.1)).foldl (fun s k => s.mergeConvoy core k) s)

/-! ### Issuing -/

/-- R85: the class of a convoy: its group's, or the one in its members' records (R207). -/
def State.convoyClass (s : State) (c : Convoy) : Nat :=
  match c.of with
  | .group g => match s.groups.get? g with
    | some k => k.cls
    | none => 0
  | .detached _ => match c.members.head?.bind s.fibres.get? with
    | some x => x.cls
    | none => 0

/-- R333, R233, R457: may the members of a convoy issue: does their context run, and their group, on a core that is not to be tested? -/
def State.mayIssue (s : State) (c : Convoy) : Bool :=
  match c.members.head?.bind s.fibres.get? with
  | none => false
  | some x =>
    s.contextRuns x.context && !s.platform.testing.contains (.core x.core) && match s.groupOf x with
      | some g => g.state == .running
      | none => true

/-- R85: does a convoy go before another on a lane? (DESIGN CHOICE, assumption 103) -/
def State.goesBefore (s : State) (a b : Nat × Convoy) : Bool :=
  let ca := s.convoyClass a.2
  let cb := s.convoyClass b.2
  ca > cb || (ca = cb && ((a.2.promoted && !b.2.promoted) || (a.2.promoted == b.2.promoted && (a.2.formed < b.2.formed ||
    (a.2.formed = b.2.formed && a.1 ≤ b.1)))))

/-- R85: the convoy that a lane of a core chooses. -/
def State.chosen (s : State) (core lane : Nat) : Option Nat :=
  ((sortBy s.goesBefore ((s.core core).convoys.filter fun e => e.2.lane == lane && s.mayIssue e.2)).head?).map (·.1)

/-- R80: a member that must wait leaves its convoy. -/
def State.holdMember (s : State) (f : Nat) (why : Stall) : State := (s.leaveConvoy f).updFibre f fun x => { x with life := .stalled why }

noncomputable section

/-- R84, R86: the members of a convoy whose next unit can issue; the others leave it. -/
def State.readyMembers (s : State) (members : List Nat) : State :=
  members.foldl
    (fun s f =>
      match s.fibres.get? f with
      | none => s
      | some x =>
        match s.stallOf f x with
        | some why => s.holdMember f why
        | none => s)
    s

/-- R84, R86, R244: a chosen convoy's pass begins, unless one of its members has a bank write of its own, to a register that the pass reads, not in effect;
members that must wait leave first. -/
def State.openPass (s : State) (p : Pass) : State :=
  let s := { s with pass := none }.applyDue p.core
  match (s.core p.core).convoys.get? p.convoy with
  | none => s
  | some c =>
    if c.members.any fun f => match s.fibres.get? f with | some x => s.kstOf f x | none => false then s
    else
      let s := s.readyMembers c.members
      let q := s.core p.core
      match q.convoys.get? p.convoy with
      | none => s
      | some c =>
        let s := s.setCore p.core { q with convoys := q.convoys.put p.convoy { c with issued := q.clock, promoted := false } }
        let s := c.members.zipIdx.foldl (fun s e => s.updFibre e.1 fun x => { x with place := some (p.convoy, q.clock, e.2) }) s
        { s with
          pass := some
            { p with
              opened := true, todo := c.members, members := c.members,
              snapshot := (s.fibres.filter fun e => c.members.contains e.1).map fun e => (e.1, s.prepared e.1 e.2) } }

end

/-- R84, R85: a free lane chooses a Ready convoy. -/
def State.choose (s : State) (core k : Nat) : State :=
  match (s.core core).convoys.get? k with
  | none => s
  | some c =>
    if s.pass.isNone && s.coreLive core && s.chosen core c.lane == some k then
      { s with pass := some { core := core, convoy := k, opened := false, todo := c.members, members := c.members, snapshot := [] } }
    else s

/-- R84, R85. -/
def execConvoyPass (core k : Nat) (s : State) : Host.Outcome State Fault Refusal := .next (s.choose core k)

/-- R71: a repetition of a repeated unit executes in a pass of the fibre's convoy, as every unit does. -/
def execRepetition (f : Nat) (s : State) : Host.Outcome State Fault Refusal :=
  match s.fibres.get? f with
  | none => .next s
  | some x =>
    if x.rep = 0 then .next s
    else
      match (s.core x.core).convoys.find? fun e => e.2.members.contains f with
      | none => .next s
      | some e => .next (s.choose x.core e.1)

/-! ### Promotion -/

/-- R85: a Ready convoy that has not issued for 1,024 cycles. -/
def execConvoyAgePromotion (core k : Nat) (s : State) : Host.Outcome State Fault Refusal :=
  let q := s.core core
  match q.convoys.get? k with
  | none => .next s
  | some c =>
    if q.clock ≥ c.issued + 1024 then .next (s.setCore core { q with convoys := q.convoys.put k { c with promoted := true } }) else .next s

/-- R21: has a request waited 1,024 cycles of a core? -/
def State.waited (s : State) (core since : Nat) : Bool := (s.core core).clock ≥ since + 1024

/-- R21: a request at a shared unit that has waited 1,024 cycles. -/
def execRequestAgePromotion (r : RequestId) (s : State) : Host.Outcome State Fault Refusal :=
  match r with
  | .ray f =>
    .next (s.updFibre f fun x =>
      match x.life with
      | .stalled (.rayUnit t _) => if s.waited x.core t then { x with life := .stalled (.rayUnit t true) } else x
      | _ => { x with rayRequest := x.rayRequest.map fun r => if s.waited x.core r.1 then (r.1, true) else r })
  | .copy g =>
    .next (s.updGroup g fun x =>
      match x.copies with
      | c :: cs => if s.waited x.core c.since then { x with copies := { c with promoted := true } :: cs } else x
      | [] => x)
  | .mtx g =>
    .next (s.updGroup g fun x =>
      match x.matrix with
      | c :: cs => if s.waited x.core c.since then { x with matrix := { c with promoted := true } :: cs } else x
      | [] => x)

end Sys2Proof.Machine
end

