-- ==== Sys2Proof/Machine/Mailbox.lean ====
section
/-! DEFINITION. The mailbox (R312, R327, R331, R333, R339, R342, R344, R453, R455): the ten messages, and the replies. -/

namespace Sys2Proof.Machine

/-! ### Service -/

/-- R451: does the host port give full service? -/
def State.fullService (s : State) : Bool := s.platform.step ≥ 4 && !s.platform.failed

/-- R451, R456: does the host port take operations outside the mailbox? Not while the package holds reset. (DEDUCED, assumption 70) -/
def State.portOpen (s : State) : Bool := s.fullService && !s.platform.holding

/-- R451, R456: is a message of a code taken? While the package holds reset only a create message is. (DEDUCED, assumption 70) -/
def State.mailServes (s : State) (code : Nat) : Bool := s.fullService && (!s.platform.holding || code = 1)

/-- R339: the message of a slot, when it waits for an answer and a condition holds of its code. -/
def State.mail (s : State) (slot : Nat) (code : Nat → Bool) : Option (List Byte) :=
  let m := s.mailbox.message slot
  if s.mailbox.pending.contains slot && code (fieldOf m 0 1) then some m else none

/-- R339, R451: a message of a code, in full service, has its effect. (DEDUCED, assumption 58) -/
def State.serve (s : State) (slot code : Nat) (k : State → List Byte → State) : Host.Outcome State Fault Refusal :=
  match if s.mailServes code then s.mail slot (· == code) else none with
  | none => .next s
  | some m => .next (k s m)

/-- R339: a descriptor in host memory, at the message's argument. (DEDUCED, assumption 57) -/
def State.descriptorOf (s : State) (m : List Byte) (n : Nat) : List Byte := s.host.readBytes (fieldOf m 8 8) n

/-! ### Contexts -/

/-- R331: a base and a size in units, within limits. -/
def areaOk (base align size least most : Nat) : Bool := base % align = 0 && least ≤ size && size ≤ most

/-- R331: a context descriptor that keeps the limits. -/
def contextDescOf (d : List Byte) : Option ContextDesc :=
  let slice := fieldOf d 28 4
  if validTable (wordFieldOf d 0) && fieldOf d 8 8 % 4 = 0 && fieldOf d 8 8 < 2 ^ 52 && areaOk (fieldOf d 16 8) 65536 (fieldOf d 24 4) 1 65536 &&
      (slice = 0 || (100 ≤ slice && slice ≤ 1000000)) && areaOk (fieldOf d 32 8) 65536 (fieldOf d 40 4) 1 65536 && fieldOf d 44 2 ≤ 256 && fieldOf d 46 2 ≤ 512 &&
      areaOk (fieldOf d 48 8) 65536 (fieldOf d 56 4) 0 65536 && fieldOf d 60 1 ≤ 1 && zeroBytes d 61 3 && areaOk (fieldOf d 64 8) 64 (fieldOf d 72 4) 0 65536 &&
      zeroBytes d 76 4 && areaOk (fieldOf d 80 8) 65536 (fieldOf d 88 4) 0 65536 && zeroBytes d 92 4 && areaOk (fieldOf d 96 8) 32 (fieldOf d 104 1) 4 20 &&
      zeroBytes d 105 7 && fieldOf d 112 8 % 8 = 0 && zeroBytes d 120 8 then
    some
      { bytes := d, ptroot := wordFieldOf d 0, tvec := BitVec.ofNat 52 (fieldOf d 8 8), frameBase := fieldOf d 16 8, frameSize := fieldOf d 24 4 * 2 ^ 20,
        sliceMicros := slice, saveBase := fieldOf d 32 8, saveSize := fieldOf d 40 4 * 2 ^ 20, reservoirMib := fieldOf d 44 2, specMib := fieldOf d 46 2,
        heapBase := fieldOf d 48 8, heapSize := fieldOf d 56 4 * 2 ^ 20, breakToDebugger := fieldOf d 60 1 = 1, errorBase := fieldOf d 64 8,
        errorSize := fieldOf d 72 4 * 1024, dumpBase := fieldOf d 80 8, dumpSize := fieldOf d 88 4 * 2 ^ 20 }
  else none

/-- R331, R332: the event ring of a context. -/
def contextRing (d : List Byte) : Ring := { base := wordFieldOf d 96, size := fieldOf d 104 1, ack := wordFieldOf d 112 }

/-- R333, R334, R456: code 1. The message ends a reset that the package holds. -/
def execCreateContext (slot : Nat) (s : State) : Host.Outcome State Fault Refusal :=
  s.serve slot 1 fun s m =>
    let s := { s with platform := { s.platform with holding := false } }
    let c := fieldOf m 1 1
    let d := s.descriptorOf m 128
    match contextDescOf d with
    | none => s.reply slot 1 0
    | some k =>
      if c ≥ 64 || (s.contexts.get? c).isSome || k.carve > s.carveRoom then s.reply slot 1 0
      else ({ s with contexts := s.contexts.put c { desc := k, events := contextRing d, sliceTable := s.sliceTable } }).reply slot 0 0

/-- R333: code 2: a context with work is aborted first, and the reply follows its end. -/
def execDestroyContext (slot : Nat) (s : State) : Host.Outcome State Fault Refusal :=
  s.serve slot 2 fun s m =>
    let c := fieldOf m 1 1
    match s.contexts.get? c with
    | none => s.reply slot 1 0
    | some k =>
      if k.destroying.isSome then (if k.destroying = some slot then s else s.reply slot 2 0)
      else if k.state = .loaded then (s.freeContext c).reply slot 0 0
      else (s.abortContext c).updContext c fun q => { q with destroying := some slot }

/-- R339: code 6. -/
def execSetSlice (slot : Nat) (s : State) : Host.Outcome State Fault Refusal :=
  s.serve slot 6 fun s m =>
    let c := fieldOf m 1 1
    let us := fieldOf m 8 8
    if (s.contexts.get? c).isNone || !(us = 0 || (100 ≤ us && us ≤ 1000000)) then s.reply slot 1 0
    else (s.updContext c fun (k : Context) => { k with desc := { k.desc with sliceMicros := us } }).reply slot 0 0

/-- R342: code 7: the fibre completes, now or when it is resident again. -/
def execServiceReply (slot : Nat) (s : State) : Host.Outcome State Fault Refusal :=
  s.serve slot 7 fun s m =>
    let c := fieldOf m 1 1
    let ticket := fieldOf m 4 4
    match s.contexts.get? c with
    | none => s.reply slot 1 0
    | some k =>
      match k.tickets.find? fun t => t.1 == ticket with
      | none => s.reply slot 1 0
      | some t =>
        let s := s.setContext c { k with tickets := k.tickets.filter fun u => u.1 != ticket, results := k.results.put ticket (wordFieldOf m 16) }
        let s := match s.fibres.get? t.2 with
          | none => s
          | some x =>
            match x.waitsFor with
            | some (.service n d) => (s.finishService t.2 x n d).getD s
            | some _ | none => s
        s.reply slot 0 0

/-- R344: code 8: a Saved context with a dump area. -/
def execDumpRequest (slot : Nat) (s : State) : Host.Outcome State Fault Refusal :=
  s.serve slot 8 fun s m =>
    let c := fieldOf m 1 1
    match s.contexts.get? c with
    | none => s.reply slot 1 0
    | some k =>
      if k.state != .saved || k.desc.dumpSize = 0 then s.reply slot 1 0 else (s.writeDump c (fieldOf m 8 8, fieldOf m 16 8)).reply slot 0 0

/-! ### Queues -/

/-- R312: is every page of a ring writable? -/
def State.ringWritable (s : State) (c base n : Nat) : Bool :=
  (List.range ((n + 65535) / 65536 + 1)).all fun i =>
    let va := if i = 0 then base else base / 65536 * 65536 + 65536 * i
    va ≥ base + n || match s.engineLocate (commandAgent c) va 1 true with
      | .ok (.mem _ _ _ _ _, _) => true
      | .ok (.slice _, _) | .ok (.grant _, _) | .error _ => false

/-- R312: a queue descriptor that keeps the limits. -/
def State.queueOf (s : State) (d : List Byte) : Option Queue :=
  let c := fieldOf d 11 1
  let size := fieldOf d 8 1
  let devicePlace (va : Nat) : Bool := va < Config.windowBase
  if fieldOf d 0 8 % 4096 = 0 && devicePlace (fieldOf d 24 8) && devicePlace (fieldOf d 48 8) && (fieldOf d 10 1 = 0 || devicePlace (fieldOf d 16 8)) && 4 ≤ size && size ≤ 16 && fieldOf d 9 1 ≤ 3 && fieldOf d 10 1 ≤ 1 && (s.contexts.get? c).isSome && 1 ≤ fieldOf d 12 4 &&
      fieldOf d 12 4 ≤ 2 ^ size && fieldOf d 16 8 % 8 = 0 && fieldOf d 24 8 % 32 = 0 && areaOk (fieldOf d 32 8) 32 (fieldOf d 40 1) 4 20 && zeroBytes d 41 7 &&
      fieldOf d 48 8 % 8 = 0 && zeroBytes d 56 8 && s.ringWritable c (fieldOf d 0 8) (64 * 2 ^ size) then
    some
      { context := c, ring := wordFieldOf d 0, lsize := size, cls := fieldOf d 9 1, device := fieldOf d 10 1 = 1, interval := fieldOf d 12 4,
        allow := wordFieldOf d 16, bell := wordFieldOf d 24, events := { base := wordFieldOf d 32, size := fieldOf d 40 1, ack := wordFieldOf d 48 } }
  else none

/-- R312: code 3: the doorbell reads count 0, target 0 and gen 0, and the allowance covers the ring. -/
def execCreateQueue (slot : Nat) (s : State) : Host.Outcome State Fault Refusal :=
  s.serve slot 3 fun s m =>
    let q := fieldOf m 2 2
    match s.queueOf (s.descriptorOf m 64) with
    | none => s.reply slot 1 0
    | some k =>
      if q ≥ 1024 || (s.queues.get? q).isSome then s.reply slot 1 0
      else
        let s := (s.commandWrite k.context k.bell.toNat (List.replicate 20 0)).getD s
        ((s.setQueue q k).writeAllowance q).reply slot 0 0

/-- R327, R339: the queue of a message, in the context that it names. -/
def State.queueNamed (s : State) (m : List Byte) : Option Queue :=
  match s.queues.get? (fieldOf m 2 2) with
  | some k => if k.context = fieldOf m 1 1 then some k else none
  | none => none

/-- R327: code 4, accepted only in Idle. -/
def execDestroyQueue (slot : Nat) (s : State) : Host.Outcome State Fault Refusal :=
  s.serve slot 4 fun s m =>
    match s.queueNamed m with
    | none => s.reply slot 1 0
    | some k => if k.state = .idle then { s with queues := s.queues.del (fieldOf m 2 2) }.reply slot 0 0 else s.reply slot 1 0

/-- R329: code 5. -/
def execResetQueue (slot : Nat) (s : State) : Host.Outcome State Fault Refusal :=
  s.serve slot 5 fun s m =>
    match s.queueNamed m with
    | none => s.reply slot 1 0
    | some _ => (s.resetPackets (fieldOf m 2 2) fun _ => true).reply slot 0 0

/-! ### The capability list and attestation -/

/-- R455: a record. -/
def capability (kind inst : Nat) (value : Nat) : List Byte := bytesOfNat 2 kind ++ bytesOfNat 2 1 ++ bytesOfNat 4 inst ++ bytesOfNat 8 value

/-- R421, R455: the code of a link's state. -/
def LinkState.code : LinkState → Nat
  | .down => 0 | .training _ => 1 | .up => 2 | .degraded => 3

/-- R455: the bits of those of n units that a condition names. -/
def bitMask (n : Nat) (p : Nat → Bool) : Nat := (List.range n).foldl (fun m i => if p i then m + 2 ^ i else m) 0

/-- R455: what a die-status record says of a die. -/
def State.dieStatus (s : State) (die : Nat) : Nat := if !s.diesUp.contains die then 0 else if s.reduced then 1 else 2

/-- R25, R455: the value of a tier record. -/
def State.tierValue (s : State) (d : Nat) (tier : Bool) : Nat :=
  let fenced := s.fences.filterMap fun u => match u with
    | .memoryDevice e t i => if e = d && t == tier then some i else none
    | .core _ | .slice _ _ | .subArray _ _ _ => none
  (if fenced.isEmpty then Config.pageBytes d tier else Config.fencedBytes d tier fenced).toNat

/-- R451, R455: the capability list, without its end. A failed boot shows the status of die 0 with the failing step alone. -/
def State.capabilities (s : State) : List (List Byte) :=
  if s.platform.failed then [capability 1 0 (s.dieStatus 0 + 256 * s.platform.step)]
  else
    let die (d : Nat) : List (List Byte) :=
      ((List.range 2).map fun w => capability 2 (256 * d + w) (bitMask (if w = 0 then 64 else 32) fun b => s.fences.contains (.core (96 * d + 64 * w + b)))) ++
        ((List.range 4).map fun w => capability 3 (256 * d + w) (bitMask 64 fun b => s.fences.contains (.slice d (64 * w + b)))) ++
        (([false, true].filter fun t => t || !s.reduced).map fun t => capability 4 (256 * d + if t then 1 else 0) (s.tierValue d t))
    ([0, 1].map fun d => capability 1 d (s.dieStatus d)) ++ s.diesUp.flatMap die ++
      ((List.range 16).map fun i => capability 5 (0x100 + i) (s.link.modules.toList.getD i .down).code) ++
      ((List.range (if s.reduced then 4 else 8)).map fun i => capability 5 (0x200 + i) (s.link.fabric.toList.getD i .down).code) ++
      (s.diesUp.flatMap fun d => (coresOf d).map fun c => capability 6 c (bitMask 16 fun b => s.fences.contains (.subArray c (b / 4) (b % 4)))) ++
      s.diesUp.map fun d => capability 7 d (s.platform.clock.toList.getD d 0)

/-- R455: the list with the record that closes it. (DEDUCED, assumption 60) -/
def State.capabilityList (s : State) : List (List Byte) := s.capabilities ++ [capability 0 0 0]

/-- R451, R455: code 9, answered in every step of boot while the host port has a link; the value counts the records, the last one included. -/
def execReadCapabilityList (slot : Nat) (s : State) : Host.Outcome State Fault Refusal :=
  match if s.link.host.carries && !s.platform.holding then s.mail slot (· == 9) else none with
  | none => .next s
  | some m =>
    let l := s.capabilityList
    .next ({ s with host := s.host.writeBytes (fieldOf m 8 8) l.flatten }.reply slot 0 l.length)

/-- R453: the signed part of a report. -/
def State.reportBody (s : State) (nonce : List Byte) : List Byte :=
  let l := s.capabilityList
  let n := 432 + 16 * l.length
  bytesOfNat 2 1 ++ bytesOfNat 2 0 ++ bytesOfNat 4 n ++ nonce ++ (List.range 8).flatMap (fun i => bytesOfNat 48 (Config.imageDigest i).toNat) ++
    bytesOfNat 4 l.length ++ bytesOfNat 4 0 ++ l.flatten

/-- R453: code 10. -/
def execAttestationReport (slot : Nat) (s : State) : Host.Outcome State Fault Refusal :=
  s.serve slot 10 fun s m =>
    if !zeroBytes m 56 7 then s.reply slot 1 0
    else
      let body := s.reportBody ((m.drop 16).take 8 ++ (m.drop 32).take 24)
      let report := body ++ bytesOfNat 384 (Config.rsaSignature body).toNat ++ bytesOfNat 16224 (Config.slhSignature body).toNat
      { s with host := s.host.writeBytes (fieldOf m 8 8) report }.reply slot 0 report.length

/-- R339: every other code is refused. -/
def execMailboxUnknownCode (slot : Nat) (s : State) : Host.Outcome State Fault Refusal :=
  match if s.portOpen then s.mail slot (fun code => code = 0 || code > 10) else none with
  | none => .next s
  | some _ => .next (s.reply slot 1 0)

end Sys2Proof.Machine
end

