-- ==== Sys2Proof/Machine/HostPort.lean ====
section
/-! DEFINITION. The host port and the fabric (R421-R428, R483): RDMA operations, the link control word, the states of links, other packages' accesses, and flush
markers. -/

namespace Sys2Proof.Machine

/-! ### The link control word -/

/-- R425: the bits that can be written. -/
def linkControlMask : Word := 0x000000FF1FFE8FFF

/-- R421, R425: a write of the word; with id valid, one that changes id or size_m1 is ignored unless it clears valid. It enables the ports whose bits it sets.
(DEDUCED, assumption 71) -/
def State.writeLinkControl (s : State) (v : Word) : State :=
  let new := v &&& linkControlMask
  let old := s.link.control
  let changes := bitsField new 0 12 != bitsField old 0 12 || bitsField new 17 12 != bitsField old 17 12
  let ports := (List.finRange 8).map LinkUnit.fabric
  let enables := ((List.finRange 8).filter fun (i : Fin 8) => new.getLsbD (32 + i.val)).map LinkUnit.fabric
  if old.getLsbD 15 && changes && new.getLsbD 15 then s
  else
    { s with
      link := { s.link with control := new, armed := s.link.armed.filter (fun u => !ports.contains u) ++ enables },
      node := bitsField new 0 12 }

/-- R425. -/
def execLinkControlWrite (v : Word) (s : State) : Host.Outcome State Fault Refusal :=
  .next (if s.portOpen && s.link.host.carries then s.writeLinkControl v else s)

/-! ### RDMA -/

/-- R483: where an operation lands. -/
inductive RdmaSpace where
  | context (c : Nat)
  | physical
  | mailbox
  | link
  | debug
deriving DecidableEq, Repr

/-- R483: the space that an R_Key selects. -/
def rdmaSpace (rkey : Nat) : Option RdmaSpace :=
  if rkey < 0x40 then some (.context rkey)
  else if rkey = 0x40 then some .physical
  else if rkey = 0x41 then some .mailbox
  else if rkey = 0x42 then some .link
  else if rkey = 0x43 then some .debug
  else none

/-- R483: the physical place of a piece of a context's space; none where it is refused. -/
def State.rdmaPiece (s : State) (c va : Nat) (write : Bool) : Option (Nat × State) :=
  if va ≥ Config.windowBase then none
  else
    match s.translate (.die 0) c va with
    | (none, _) => none
    | (some l, t) =>
      if leafResident l.2 && leafNode l.2 = s.node && s.leafReachable l.2 (entryOffset l.2 + va % l.1) && (!write || leafWritable l.2) then
        some (localKey (entryTier l.2) (entryOffset l.2 + va % l.1), t)
      else none

/-- R483: the physical places of the pieces of a range, line by line. -/
def State.rdmaPieces (s : State) (c : Nat) (write : Bool) : List (Nat × Nat) → Option (List (Nat × Nat) × State)
  | [] => some ([], s)
  | p :: ps =>
    match s.rdmaPiece c p.1 write with
    | none => none
    | some (pa, t) => (State.rdmaPieces t c write ps).map fun r => ((pa, p.2) :: r.1, r.2)

/-- R483: the physical places of a range of a context's space or of physical memory. -/
def State.rdmaPlaces (s : State) (sp : RdmaSpace) (addr n : Nat) (write : Bool) : Option (List (Nat × Nat) × State) :=
  match sp with
  | .context c =>
    if (s.contexts.get? c).isNone || addr ≥ 2 ^ 52 then none else s.rdmaPieces c write (linePieces (n / 64 + 2) addr n)
  | .physical =>
    let tier := addr / 2 ^ 40 % 2 == 1
    let off := addr % 2 ^ 40
    if addr ≥ 2 ^ 41 || off + n > 2 * Config.tierBytes tier || !(n = 0 || (s.served tier off && s.served tier (off + n - 1))) then none
    else some (if n = 0 then [] else [(localKey tier off, n)], s)
  | .mailbox | .link | .debug => none

/-- R483: is an operation on places refused for an uncorrectable error? One in physical memory is not. -/
def State.rdmaError (s : State) (sp : RdmaSpace) (ps : List (Nat × Nat)) : Bool :=
  match sp with
  | .context _ => ps.any fun p => s.home.faulty p.1 p.2 0
  | .physical | .mailbox | .link | .debug => false

/-- R358: raw bytes. In physical memory a byte with an uncorrectable error reads as a free one. (DESIGN CHOICE, assumption 95) -/
def State.rdmaBytes (s : State) (ps : List (Nat × Nat)) : List Byte × State :=
  ps.foldl
    (fun r p =>
      if r.2.home.faulty p.1 p.2 0 then
        let b := r.2.freeBytes p.2
        (r.1 ++ (List.range p.2).map fun i => if s.home.faulty (p.1 + i) 1 0 then b.1.getD i 0 else s.home.mem.read (p.1 + i), b.2)
      else (r.1 ++ s.home.mem.readBytes p.1 p.2, r.2))
    ([], s)

/-- R311: freed bytes of a context's space are undefined to the host too. -/
def State.rdmaFreed (s : State) (sp : RdmaSpace) (addr : Nat) (bs : List Byte) : List Byte × State :=
  match sp with
  | .context c => s.blurFreed c addr bs
  | .physical | .mailbox | .link | .debug => (bs, s)

/-- R358: bytes stored raw, the mode bytes left as they are. -/
def State.rdmaStore (s : State) : List (Nat × Nat) → List Byte → State
  | [], _ => s
  | p :: ps, bs =>
    State.rdmaStore
      ({ s with home := { s.home with mem := s.home.mem.writeBytes p.1 (bs.take p.2) }.heal p.1 (bs.take p.2).length }.noteWritten
        ((List.range p.2).map (p.1 + ·))) ps (bs.drop p.2)

/-- R483: what the host port answers. After a NAK its queue pair is in error, as RoCE v2 has it. (PRESUMED, assumption 94) -/
def State.answer (s : State) (qp : Nat) (ok : Bool) (data : List Byte) : State :=
  { s with rdma := s.rdma ++ [{ qp := qp, ok := ok, data := data }], pairErrors := if ok then s.pairErrors else s.pairErrors ++ [qp] }

/-- R483: the host connects a queue pair again. (PRESUMED, assumption 94) -/
def State.reconnect (s : State) (qp : Nat) : State := { s with pairErrors := s.pairErrors.filter (· != qp) }

/-- R339: a message reaches its slot: it is accepted when its byte 63 changes, and dropped while the slot's last one is unanswered. -/
def Window.write (w : Window) (slot : Nat) (bs : List Byte) : Window :=
  if w.pending.contains slot then w
  else
    { bytes := w.bytes.writeBytes (64 * slot) bs
      pending := if w.bytes.read (64 * slot + 63) != bs.getD 63 0 then w.pending ++ [slot] else w.pending }

/-- R446, R447: the group that a command names: its key; or the status that answers it: retired, or refused. -/
def State.debugGroup (s : State) (m : List Byte) : Except Nat (Nat × Group) :=
  let c := fieldOf m 1 1
  if (s.contexts.get? c).isNone then .error 1
  else
    match s.launches.find? fun e => e.2.context == c && e.2.slot == fieldOf m 4 4 with
    | none => .error 3
    | some l =>
      if fieldOf m 8 4 ≥ l.2.tasks then .error 1
      else
        match s.groups.find? fun e => e.2.launch == l.1 && e.2.linear == fieldOf m 8 4 with
        | none => .error 3
        | some e => match e.2.state with
          | .retired | .dropped => .error 3
          | .waiting | .prologue | .running | .saved _ _ | .stopped => .ok e

/-- R446: do two commands name one group? -/
def sameGroup (a b : List Byte) : Bool := fieldOf a 1 1 = fieldOf b 1 1 && fieldOf a 4 8 = fieldOf b 4 8

/-- R447: does the group that a command names stop for a command? -/
def State.stopsFor (s : State) (m : List Byte) : Bool :=
  match s.debugGroup m with
  | .ok (_, q) => (match q.dbg.stopping with
    | some (_, some _) => true
    | some (_, none) | none => false)
  | .error _ => false

/-- R446: a command reaches its slot: it is accepted when its byte 63 changes, and busy when an earlier one for its group is incomplete. (DEDUCED, assumption 76) -/
def State.debugWrite (s : State) (slot : Nat) (bs : List Byte) : State :=
  let w := s.debugWindow
  let e : DebugEntry := { slot := slot, message := bs, busy := s.stopsFor bs || w.accepted.any fun e => sameGroup e.message bs }
  { s with
    debugWindow :=
      { bytes := w.bytes.writeBytes (64 * slot) bs
        accepted := if w.bytes.read (64 * slot + 63) != bs.getD 63 0 then w.accepted ++ [e] else w.accepted } }

/-- R339, R446: a write of one whole message. (DEDUCED, assumption 63) -/
def isMessage (addr n : Nat) : Bool := addr < 4096 && addr % 64 = 0 && n = 64

/-- R423, R483: an operation on one of the queue pairs is served, while the port has a link and the pair is not in error. (DEDUCED, assumption 61) -/
def State.portServes (s : State) (qp : Nat) : Bool := qp < 1024 && s.link.host.carries && !s.pairErrors.contains qp

/-- R423, R451, R483: an RDMA WRITE. In recovery mode only the mailbox window takes one. -/
def execRdmaWrite (qp rkey : Nat) (addr : Word) (data : List Byte) (s : State) : Host.Outcome State Fault Refusal :=
  if !s.portServes qp then .next s
  else
    let a := addr.toNat
    match rdmaSpace rkey with
    | none => .next (s.answer qp false [])
    | some .mailbox =>
      if isMessage a data.length then .next ({ s with mailbox := s.mailbox.write (a / 64) data }.answer qp true []) else .next (s.answer qp false [])
    | some .debug =>
      if s.portOpen && isMessage a data.length then .next ((s.debugWrite (a / 64) data).answer qp true [])
      else .next (s.answer qp false [])
    | some .link =>
      if s.portOpen && a = 0 && data.length = 8 then .next ((s.writeLinkControl (BitVec.ofNat 64 (natOfBytes data))).answer qp true [])
      else .next (s.answer qp false [])
    | some sp =>
      match if s.portOpen then s.rdmaPlaces sp a data.length true else none with
      | none => .next (s.answer qp false [])
      | some (ps, t) => if t.rdmaError sp ps then .next (s.answer qp false []) else .next ((t.rdmaStore ps data).answer qp true [])

/-- R358, R483: an RDMA READ returns raw bytes; of the windows only the link control word is read. -/
def execRdmaRead (qp rkey : Nat) (addr : Word) (len : Nat) (s : State) : Host.Outcome State Fault Refusal :=
  if !s.portServes qp then .next s
  else
    match if s.portOpen then rdmaSpace rkey else none with
    | some .link => if addr = 0 && len = 8 then .next (s.answer qp true (bytesOfNat 8 s.link.control.toNat)) else .next (s.answer qp false [])
    | some sp =>
      match s.rdmaPlaces sp addr.toNat len false with
      | none => .next (s.answer qp false [])
      | some (ps, t) =>
        if t.rdmaError sp ps then .next (s.answer qp false [])
        else
          let b := t.rdmaBytes ps
          let r := b.2.rdmaFreed sp addr.toNat b.1
          .next (r.2.answer qp true r.1)
    | none => .next (s.answer qp false [])

/-- R2, R423, R483: an atomic of 8 bytes: what it makes of the places and of the old little-endian value, which is answered. (DEDUCED, assumption 62) -/
def State.rdmaAtomic (s : State) (qp rkey : Nat) (addr : Word) (k : State → List (Nat × Nat) → Word → State) : State :=
  if !s.portServes qp then s
  else
    match (if s.portOpen then rdmaSpace rkey else none).bind fun sp => (s.rdmaPlaces sp addr.toNat 8 true).map fun r => (sp, r) with
    | none => s.answer qp false []
    | some (sp, ps, t) =>
      if t.rdmaError sp ps then s.answer qp false []
      else
        let b := t.rdmaBytes ps
        let r := b.2.rdmaFreed sp addr.toNat b.1
        (k r.2 ps (BitVec.ofNat 64 (natOfBytes r.1))).answer qp true r.1

/-- R252, R313: the place of the doorbell whose count lies there, if there is one. -/
def State.bellAt (s : State) (ps : List (Nat × Nat)) : Option Nat :=
  match ps with
  | [(pa, 8)] =>
    s.queues.findSome? fun e =>
      match s.deviceLocate 0 e.2.context e.2.bell.toNat with
      | some (p, _, _) => if p = pa then some pa else none
      | none => none
  | _ => none

/-- R252, R483: on the count of a doorbell it performs ADDSW, raw whatever the leaf says (R358). -/
def execRdmaFetchAdd (qp rkey : Nat) (addr v : Word) (s : State) : Host.Outcome State Fault Refusal :=
  .next (s.rdmaAtomic qp rkey addr fun t ps old =>
    match t.bellAt ps with
    | some pa => t.addAtHome pa 0 v.toNat [homeEdge]
    | none => t.rdmaStore ps (bytesOfNat 8 (old + v).toNat))

/-- R483. -/
def execRdmaCmpSwap (qp rkey : Nat) (addr cmp swap : Word) (s : State) : Host.Outcome State Fault Refusal :=
  .next (s.rdmaAtomic qp rkey addr fun t ps old => t.rdmaStore ps (bytesOfNat 8 (if old = cmp then swap else old).toNat))

/-- R423: refused with a NAK. -/
def execRdmaUnsupported (qp : Nat) (s : State) : Host.Outcome State Fault Refusal := .next (if s.portServes qp then s.answer qp false [] else s)

/-! ### Links -/

/-- R421: the state of a unit. (DEDUCED, assumption 71) -/
def LinkFabric.unit (l : LinkFabric) : LinkUnit → LinkState
  | .module i => l.modules[i]
  | .host => l.host
  | .fabric i => l.fabric[i]

/-- R426, R427: the fabric ports after a change: markers and writes on a path that has gone Down take another, and the time since which none carries traffic. -/
def LinkFabric.settlePorts (l : LinkFabric) (now : Nat) : LinkFabric :=
  { l with
    outgoing := l.outgoing.map fun (m : SentMarker) => { m with route := l.routeOf m.route }
    inFlight := l.inFlight.map fun (w : InFlight) => { w with path := l.routeOf w.path }
    portsDown := if l.fabric.toList.any LinkState.carries then none else some (l.portsDown.getD now) }

/-- R421, R455: a unit enters a state; a change that the capability list shows raises an event. -/
def State.setUnit (s : State) (u : LinkUnit) (v : LinkState) : State :=
  let listed := match u with
    | .host => false
    | .module _ => true
    | .fabric i => i.val < 4 || !s.reduced
  { s with
    link := { (match u with
      | .module i => { s.link with modules := s.link.modules.set i.val v }
      | .host => { s.link with host := v }
      | .fabric i => { s.link with fabric := s.link.fabric.set i.val v }.settlePorts s.time) with armed := s.link.armed.filter (· != u) }
    hostEvents := if listed && (s.link.unit u).code != v.code then s.hostEvents ++ [.capability] else s.hostEvents }

/-- R421, R425, R451, R454: does a unit start to train? Enabled since it last did: by the end of package reset, the host port in boot step 0 and the modules in
step 5; or by the link control word. Ports 4-7 are absent in reduced service. -/
def State.enabled (s : State) (u : LinkUnit) : Bool :=
  s.link.armed.contains u && !s.platform.failed && match u with
    | .host => s.platform.step = 0
    | .module _ => s.platform.step = 5
    | .fabric i => s.platform.step ≥ 4 && (i.val < 4 || !s.reduced)

/-- R421. -/
def execLinkEnable (u : LinkUnit) (s : State) : Host.Outcome State Fault Refusal :=
  .next (if s.link.unit u = .down && s.enabled u then s.setUnit u (.training 0) else s)

/-- R426: bytes of packages that were out of reach are undefined where a store was not acknowledged. -/
def State.blurRemote (s : State) (which : Nat → Bool) : State :=
  (s.link.inFlight.filter fun w => match remoteNode w.pa with | some n => which n | none => false).foldl
    (fun s w => let r := s.freeBytes 1; { r.2 with home := { r.2.home with mem := r.2.home.mem.writeBytes w.pa r.1 } }) s

/-- R421, R426: a unit is Up; with a fabric port, packages may be reached again. -/
def execLinkTrainingComplete (u : LinkUnit) (s : State) : Host.Outcome State Fault Refusal :=
  match s.link.unit u, u with
  | .training _, .fabric _ =>
    let back (n : Nat) : Bool := s.link.unreachable.contains n && !s.link.down.any (·.1 == n)
    let t := s.blurRemote back
    .next ({ t with link := { t.link with unreachable := t.link.unreachable.filter fun n => !back n } }.setUnit u .up)
  | .training _, _ => .next (s.setUnit u .up)
  | _, _ => .next s

/-- R421: traffic is held and then continues. -/
def execLaneFailure (u : LinkUnit) (s : State) : Host.Outcome State Fault Refusal :=
  .next (if s.link.unit u = .up then s.setUnit u .degraded else s)

/-- R421. -/
def execLinkRetrainComplete (u : LinkUnit) (s : State) : Host.Outcome State Fault Refusal :=
  .next (if s.link.unit u = .degraded then s.setUnit u .up else s)

/-- R422: has a context work on die 1? -/
def State.worksOnDie1 (s : State) (c : Nat) : Bool :=
  (s.groups.any fun e => e.2.context == c && e.2.die == 1) || (s.fibres.any fun e => e.2.context == c && dieOf e.2.core == 1) ||
    (s.frames.any fun e => e.2.context == c && dieOf e.2.core == 1) || s.jobs.any fun e => e.2.context == c

/-- R16, R415, R422, R454: die 1 leaves service with its fabric ports: contexts with work there are aborted, their reuse jobs drop what has not started, and service is reduced. -/
def State.dropDie1 (s : State) : State :=
  let cs := s.contexts.keys fun c _ => s.worksOnDie1 c
  let s := cs.foldl State.abortAny s
  let s := (s.jobs.keys fun _ _ => true).foldl State.dropJob s
  { s with
    link := { s.link with fabric := Vector.ofFn fun i : Fin 8 => if i.val < 4 then s.link.fabric[i] else .down }.settlePorts s.time,
    diesUp := s.diesUp.filter (· != 1), platform := { s.platform with clock := s.platform.clock.set 0 1200 }, hostEvents := s.hostEvents ++ [.capability] }

/-- R422: with every module Down, die 1 leaves service. -/
def State.checkModules (s : State) : State := if s.link.modules.toList.all (· == .down) && s.diesUp.contains 1 then s.dropDie1 else s

/-- R421, R422: one more failure of training; the third returns the unit to Down. -/
def execLinkTrainingFail (u : LinkUnit) (s : State) : Host.Outcome State Fault Refusal :=
  match s.link.unit u with
  | .training n =>
    if n + 1 < 3 then .next (s.setUnit u (.training (n + 1)))
    else .next (({ s with hostEvents := s.hostEvents ++ [HostEvent.linkDown u] }.setUnit u .down).checkModules)
  | .down | .up | .degraded => .next s

/-- R421, R422, R427: a unit is lost: it is Down, and its traffic moves to other paths. -/
def execLinkUnitLost (u : LinkUnit) (s : State) : Host.Outcome State Fault Refusal :=
  if !(s.link.unit u).carries then .next s
  else
    let s := { s with hostEvents := s.hostEvents ++ [HostEvent.linkDown u] }.setUnit u .down
    .next s.checkModules

/-! ### Other packages -/

/-- R425, R456: does the package take fabric traffic from another? -/
def State.fabricOpen (s : State) (src : Nat) : Bool :=
  !s.platform.holding && s.inDomain src && src != s.node && s.link.fabric.toList.any LinkState.carries

/-- R428: one more write packet performed for a sender on a path. -/
def countPerformed (sender path : Nat) : List (Nat × Nat × Nat) → List (Nat × Nat × Nat)
  | [] => [(sender, path, 1)]
  | p :: ps => if p.1 = sender && p.2.1 = path then (sender, path, p.2.2 + 1) :: ps else p :: countPerformed sender path ps

/-- R428: write packets performed for a sender on a path, beyond those acknowledged. -/
def LinkFabric.performedOn (l : LinkFabric) (sender path : Nat) : Nat :=
  match l.performed.find? fun p => p.1 = sender && p.2.1 = path with
  | some p => p.2.2
  | none => 0

/-- R428: the last epoch acknowledged to a sender. -/
def LinkFabric.ackedTo (l : LinkFabric) (sender : Nat) : Nat := (l.acked.get? sender).getD 0

/-- R428: an acknowledgement. (DEDUCED, assumption 72) -/
def ackBytes (own epoch : Nat) : List Byte := padTo 32 0 ([2, 0] ++ bytesOfNat 2 own ++ bytesOfNat 4 epoch)

/-- R428: an epoch of a sender is acknowledged once every earlier one is, every path's marker has come and what the markers count is performed. `fuel` bounds the
epochs. (DEDUCED, assumption 72) -/
def LinkFabric.settleAcks (l : LinkFabric) (own sender fuel : Nat) : LinkFabric :=
  match fuel with
  | 0 => l
  | fuel + 1 =>
    let epoch := nextEpoch (l.ackedTo sender)
    let mine (m : Marker) : Bool := m.sender = sender && m.epoch % 2 ^ 32 = epoch
    let ms := l.markers.filter mine
    if !ms.isEmpty && ms.all fun m => (distinct (ms.map (·.path))).length ≥ m.paths && m.count ≤ l.performedOn sender m.path then
      let l :=
        { l with
          markers := l.markers.filter fun m => !mine m
          performed := l.performed.map fun (p : Nat × Nat × Nat) =>
            (p.1, p.2.1, p.2.2 - if p.1 = sender then ((ms.filter fun (m : Marker) => m.path = p.2.1).map fun (m : Marker) => m.count).sum else 0)
          acked := l.acked.put sender epoch
          acks := l.acks ++ [(sender, ackBytes own epoch)] }
      l.settleAcks own sender fuel
    else l

/-- R428. -/
def State.settleAcks (s : State) (sender : Nat) : State := { s with link := s.link.settleAcks s.node sender (s.link.markers.length + 1) }

/-- R427, R428: a write packet of another package has been performed. -/
def State.performed (s : State) (src path : Nat) : State :=
  { s with link := { s.link with performed := countPerformed src path s.link.performed } }.settleAcks src

/-- R426: n bytes at the home, as the answer to a load or an atomic. -/
def State.replyTo (s : State) (src path pa n : Nat) : State :=
  { s with link := { s.link with replies := s.link.replies ++ [⟨src, path, s.home.mem.readBytes pa n, s.home.faulty pa n 0⟩] } }

/-- R426, R454: an access of another package to memory in service is performed at the home slice, raw (R358). Loads and atomics that return a value are answered. -/
def execRemoteAccessRequest (src path : Nat) (r : RemoteRequest) (s : State) : Host.Outcome State Fault Refusal :=
  let lies (tier : Bool) (off n al : Nat) : Bool :=
    off + n ≤ 2 * Config.tierBytes tier && off % al = 0 && (n = 0 || (s.served tier off && s.served tier (off + n - 1)))
  if !s.fabricOpen src then .next s
  else
    match r with
    | .load tier off n => .next (if lies tier off n 1 then s.replyTo src path (localKey tier off) n else s)
    | .store tier off data =>
      .next (if lies tier off data.length 1 then (s.rdmaStore [(localKey tier off, data.length)] data).performed src path else s)
    | .atom tier off op t mode sat operand compared answered =>
      let k : AtomKind := .op op t mode sat operand compared
      let pa := localKey tier off
      .next
        (if !lies tier off k.size k.size then s
        else if answered then (s.replyTo src path pa k.size).updateHome pa k.size 0 k.newBytes
        else (s.updateHome pa k.size 0 k.newBytes).performed src path)
    | .wide tier off compared new =>
      let pa := localKey tier off
      let t := s.replyTo src path pa 16
      let old := s.home.mem.readBytes pa 16
      let met := match compared with
        | some c => old == pairBytes c
        | none => true
      .next
        (if !lies tier off 16 16 then s
        else match new with
          | some w => if met then t.updateHome pa 16 0 fun _ => pairBytes w else t
          | none => t)
    | .syncInit tier off target =>
      .next (if lies tier off 32 32 then (s.updateHome (localKey tier off) 32 0 (initSyncWord target)).performed src path else s)
    | .syncAdd tier off n => .next (if lies tier off 32 32 then (s.addAtHome (localKey tier off) 0 n.toNat []).performed src path else s)

/-- R426: since when no path reaches a package, if none does. -/
def LinkFabric.downSince (l : LinkFabric) (pkg : Nat) : Option Nat :=
  match l.portsDown, l.down.find? (·.1 == pkg) with
  | some a, some b => some (Nat.min a b.2)
  | some a, none => some a
  | none, some b => some b.2
  | none, none => none

/-- R426: every path to a package has been Down for 10 ms. -/
def execPathDownTimeout (pkg : Nat) (s : State) : Host.Outcome State Fault Refusal :=
  if pkg = s.node || !s.inDomain pkg || s.link.unreachable.contains pkg then .next s
  else
    match s.link.downSince pkg with
    | none => .next s
    | some since =>
      if s.time < since + 10000000 then .next s
      else
        let t := s.blurRemote (· == pkg)
        .next { t with link := { t.link with unreachable := t.link.unreachable ++ [pkg] } }

/-- R426: every path to a package goes Down outside this package. -/
def State.pathsDown (s : State) (pkg : Nat) : State :=
  if s.link.down.any (·.1 == pkg) then s else { s with link := { s.link with down := s.link.down ++ [(pkg, s.time)] } }

/-- R426: a path to a package is Up again outside this package; stores that were not acknowledged leave undefined bytes where the package was out of reach. -/
def State.pathsUp (s : State) (pkg : Nat) : State :=
  let t := if s.link.unreachable.contains pkg then s.blurRemote (· == pkg) else s
  { t with
    link := { t.link with
      down := t.link.down.filter fun (d : Nat × Nat) => d.1 != pkg
      unreachable := if t.link.portsDown.isNone then t.link.unreachable.filter (· != pkg) else t.link.unreachable } }

/-- R428: a marker arrives at its home package. -/
def execFlushMarker (m : Marker) (s : State) : Host.Outcome State Fault Refusal :=
  if !s.fabricOpen m.sender then .next s
  else .next ({ s with link := { s.link with markers := s.link.markers ++ [m] } }.settleAcks m.sender)

/-- R428: an acknowledgement covers every earlier epoch. -/
def execFlushAck (pkg epoch : Nat) (s : State) : Host.Outcome State Fault Refusal :=
  if !s.fabricOpen pkg then .next s
  else
    .next
      { s with
        link := { s.link with
          waiting := s.link.waiting.filter fun (w : Nat × Nat) => !(w.1 = pkg && notLater w.2 epoch)
          outgoing := s.link.outgoing.filter fun (m : SentMarker) => !(m.dest = pkg && notLater m.epoch epoch)
          inFlight := s.link.inFlight.filter fun (w : InFlight) => !(remoteNode w.pa = some pkg && notLater w.epoch epoch) } }

end Sys2Proof.Machine
end

