-- ==== Sys2Proof/Machine/Watching.lean ====
section
/-! DEFINITION. Waymarks (R435-R440), and the stops, steps and dumps of the debug window (R446-R449). -/

namespace Sys2Proof.Machine

/-! ### Waymarks -/

/-- R435: a ring descriptor that keeps the limits: its base and number of records. -/
def waymarkRing (d : List Byte) : Option (Word × Nat) :=
  let n := fieldOf d 8 4
  if fieldOf d 0 8 % 64 = 0 && fieldOf d 0 8 < Config.windowBase && zeroBytes d 12 4 && zeroBytes d 24 8 && (List.range 25).any fun i => n = 2 ^ i then
    some (wordFieldOf d 0, n)
  else none

/-- R440: a waymark is opened. -/
def State.openMark (s : State) (f : Nat) (x : Fibre) (tile : BitVec 32) (at_ base : Word) (records : Nat) : State :=
  let m : Waymark :=
    { context := x.context, fibre := f, ring := at_, base := base, records := records, tile := tile, launch := s.identity x.launch, group := s.linearOf f,
      fid := x.fid, core := x.core, opened := s.time,
      speculative := if x.speculative then some (x.launch, s.linearOf f) else none }
  { (s.updFibre f fun y => { y with mark := some s.fresh }) with marks := s.marks.put s.fresh m, fresh := s.fresh + 1 }

/-- R440. -/
def execMarkOpen (a b : Src) (s : State) : Host.Outcome State Fault Refusal :=
  s.issueWith fun f x =>
    let at_ := x.read (s.bankOf x) b
    if at_.toNat % 32 != 0 then .trap .align at_ 0
    else
      match fibreReader f x s at_.toNat 32 with
      | .error e => .trap e.1 e.2 0
      | .ok (bs, t) =>
        match waymarkRing bs with
        | none => .trap .access at_ 0
        | some (base, n) => .done ((t.closeMark f x).openMark f x ((x.read (s.bankOf x) a).setWidth 32) at_ base n)

/-- R440. -/
def execMarkClose (s : State) : Host.Outcome State Fault Refusal := s.issueWith fun f x => .done (s.closeMark f x)

/-- R440, R443: a marker record, in sessions that trace the fibre's group fully. -/
def execMarkTrace (a : Src) (s : State) : Host.Outcome State Fault Refusal :=
  s.issueWith fun _ x =>
    match x.group with
    | none => .done s
    | some g => .done (s.traceIf (s.tracesFully x.core g) (traceRecord 4 x.core x.fid s.time (x.read (s.bankOf x) a).toNat))

/-- R436: an offset from the opening, saturated; all ones for an event that never occurred. -/
def Waymark.offset (m : Waymark) (t : Option Nat) : List Byte :=
  match t with
  | some n => bytesOfNat 4 (Nat.min (n - m.opened) 0xFFFFFFFE)
  | none => bytesOfNat 4 0xFFFFFFFF

/-- R436: bytes 0-59 of a record. -/
def Waymark.body (m : Waymark) : List Byte :=
  let sat (n : Nat) : Byte := BitVec.ofNat 8 (Nat.min n 255)
  bytesOfNat 4 m.tile.toNat ++ bytesOfNat 4 m.launch ++ bytesOfNat 4 (m.group % 2 ^ 31) ++ bytesOfNat 2 m.fid ++ bytesOfNat 2 m.core ++ bytesOfNat 8 m.opened ++
    m.offset m.cinDone ++ m.offset m.mxIssue ++ m.offset m.mxStart ++ m.offset m.mxDone ++ m.offset m.coutIssue ++ m.offset m.coutDone ++ m.offset m.retired ++
    [sat m.cin, sat m.mx, sat m.cout, sat m.susp,
      BitVec.ofNat 8 (bit m.discarded + 2 * bit m.faulted + 4 * bit (m.cin > 255 || m.mx > 255 || m.cout > 255 || m.susp > 255) + 8 * bit m.preempted), 0, 0, 0]

/-- R435: the sampler caches drop their copies of a slot, so that no later read returns an older record (DEDUCED, assumption 100). -/
def State.dropSampled (s : State) (pa : Nat) : State :=
  { s with cores := s.cores.mapAll fun _ (q : CoreState) => { q with sampler := q.sampler.filter fun l => !(l.pa ≤ pa && pa < l.pa + l.bytes.length) } }

/-- R435: a record claims its index by an addition to `next`, and is written to its slot, seq last, whatever the attributes of the pages; where no page is mapped
nothing is written, and a kind-13 event says so (R484). (DEDUCED, assumption 77) -/
def State.writeWaymark (s : State) (m : Waymark) : State :=
  let die := dieOf m.core
  match s.deviceLocate die m.context (m.ring.toNat + 16) with
  | none => s.contextEvent m.context { kind := 13, status := FaultCode.translation.code, low := BitVec.ofNat 32 m.launch, high := BitVec.ofNat 32 m.group, word := BitVec.ofNat 64 s.time }
  | some (pa, leaf, t) =>
    let e := natOfBytes ((t.home.read pa 8 (leafComp leaf)).getD (List.replicate 8 0))
    let t := t.updateHome pa 8 (leafComp leaf) fun old => bytesOfNat 8 (natOfBytes old + 1)
    let at_ := m.base.toNat + 64 * (e % m.records)
    let u := (t.deviceWriteRange die m.context at_ m.body).deviceWriteRange die m.context (at_ + 60) (bytesOfNat 4 (e + 1))
    match u.deviceLocate die m.context at_ with
    | some (slot, _, v) => v.dropSampled slot
    | none => u

/-- R437, R438: the record of a tile that has retired is written, once its launch is resolved. -/
def execWaymarkRetire (k : Nat) (s : State) : Host.Outcome State Fault Refusal :=
  match s.marks.get? k with
  | none => .next s
  | some m =>
    if m.retired.isNone || m.speculative.isSome then .next s
    else
      let s := s.writeWaymark m
      .next { s with marks := s.marks.del k }

/-! ### The debug window -/

/-- R446: a reply: its status and package time. -/
def State.debugReply (s : State) (addr : Word) (status : Nat) : State :=
  { s with host := s.host.writeBytes addr.toNat ([BitVec.ofNat 8 status, 0, 0, 0, 0, 0, 0, 0] ++ bytesOfNat 8 s.time) }

/-- R446: the reply to a command, at the address that it names. -/
def State.debugAnswer (s : State) (m : List Byte) (status : Nat) : State := s.debugReply (wordFieldOf m 24) status

/-- R446: the bytes that a command leaves zero. (DEDUCED, assumption 76) -/
def debugCommandOk (m : List Byte) : Bool :=
  let code := fieldOf m 0 1
  1 ≤ code && code ≤ 6 && zeroBytes m 2 2 && zeroBytes m 12 4 && zeroBytes m 32 31 &&
    (if code = 1 || code = 6 then fieldOf m 16 8 % 64 = 0 else zeroBytes m 16 8)

/-- R446: the first command of a slot that can be answered: a stop under way cannot, unless its group is gone. -/
def State.debugDue (s : State) (slot : Nat) : Option DebugEntry :=
  s.debugWindow.accepted.find? fun e => e.slot == slot && !(e.taken && s.stopsFor e.message)

/-- R446: the window without a command. -/
def State.dropCommand (s : State) (e : DebugEntry) : State :=
  { s with debugWindow := { s.debugWindow with accepted := s.debugWindow.accepted.erase e } }

/-- R446: a command of a slot, of a code, in order of acceptance: one with a bad byte is refused, one whose group has gone is answered so, and one that came while
an earlier one was incomplete is busy. -/
def State.debugCommand (s : State) (slot : Nat) (code : Nat → Bool) (k : State → DebugEntry → Nat → Group → State) : Host.Outcome State Fault Refusal :=
  match s.debugDue slot with
  | none => .next s
  | some e =>
    let m := e.message
    let t := s.dropCommand e
    if !s.portOpen || !code (fieldOf m 0 1) then .next s
    else if e.taken then .next (t.debugAnswer m 3)
    else if !debugCommandOk m then .next (t.debugAnswer m 1)
    else
      match s.debugGroup m with
      | .error status => .next (t.debugAnswer m status)
      | .ok (g, q) => .next (if e.busy then t.debugAnswer m 2 else k t e g q)

/-- R449: the stepping mode of a group. -/
def State.setStep (s : State) (e : DebugEntry) (g : Nat) (mode : StepMode) : State :=
  (s.updGroup g fun k => { k with dbg := { k.dbg with mode := mode } }).debugAnswer e.message 0

/-- R447: is a pass of a group in progress? -/
def State.inPass (s : State) (g : Nat) : Bool :=
  match s.pass with
  | some p => p.members.any fun f => match s.fibres.get? f with
    | some x => x.group == some g
    | none => false
  | none => false

/-- R447: code 1, and codes that do not exist. A Running group stops at once between passes; one that is not resident stops before its first unit. The reply
comes with the end of the stop. -/
def execDebugStop (slot : Nat) (s : State) : Host.Outcome State Fault Refusal :=
  s.debugCommand slot (fun code => code = 0 || code = 1 || code > 6) fun s e g q =>
    let cause := match q.dbg.stopping with
      | some (c, _) => c
      | none => if q.state = .stopped then q.dbg.cause else 1
    let s := { s with debugWindow := { s.debugWindow with accepted := { e with taken := true } :: s.debugWindow.accepted } }
    let s := s.updGroup g fun k => { k with dbg := { k.dbg with stopping := some (cause, some (wordFieldOf e.message 24)), dumpAt := wordFieldOf e.message 16 } }
    if q.state = .running && !s.inPass g then s.haltGroup g else s

/-- R447: a Stopped member returns to Ready, or to what it waited for. -/
def Life.resumed : Life → Life
  | .stopped _ true => .parked
  | .stopped (some w) false => .stalled w
  | .stopped none false => .ready
  | .placed => .placed
  | .ready => .ready
  | .stalled w => .stalled w
  | .parked => .parked
  | .saved w p => .saved w p
  | .exiting => .exiting
  | .gone => .gone

/-- R447, R233: code 2, of a Stopped group; one that has lost its members meanwhile retires. -/
def execDebugResume (slot : Nat) (s : State) : Host.Outcome State Fault Refusal :=
  s.debugCommand slot (· = 2) fun s e g q =>
    match q.state with
    | .stopped =>
      let s := { s with fibres := s.fibres.mapAll fun _ (x : Fibre) => if x.group = some g then { x with life := x.life.resumed } else x }
      (((s.setGroup g { q with state := .running, dbg := { q.dbg with stopping := none } }).traceGroup g 6).retireGroup g).debugAnswer e.message 0
    | .waiting | .prologue | .running | .saved _ _ | .retired | .dropped => s.debugAnswer e.message 1

/-- R449: code 3. -/
def execStepByTrap (slot : Nat) (s : State) : Host.Outcome State Fault Refusal := s.debugCommand slot (· = 3) fun s e g _ => s.setStep e g .trap
/-- R449: code 4. -/
def execStepByStop (slot : Nat) (s : State) : Host.Outcome State Fault Refusal := s.debugCommand slot (· = 4) fun s e g _ => s.setStep e g .stop
/-- R449: code 5. -/
def execStepOff (slot : Nat) (s : State) : Host.Outcome State Fault Refusal := s.debugCommand slot (· = 5) fun s e g _ => s.setStep e g .off

/-- R448: what a member waits for: its code, barrier and member word. -/
def waitEntry (w : Option Stall) : Nat × Nat × Nat :=
  match w with
  | some (.barrier id) => (1, id, 0)
  | some (.list word true _) => (2, 0, word.toNat)
  | some (.list word false _) => (3, 0, word.toNat)
  | some _ | none => (0, 0, 0)

/-- R448: the entry of a group-relative index. -/
def dumpMember (x : Option Fibre) : List Byte :=
  match x with
  | none => List.replicate 24 0
  | some x =>
    let st := match x.life with
      | .stopped _ true | .parked => 2
      | .exiting => 3
      | .placed | .ready | .stalled _ | .saved _ _ | .stopped _ false | .gone => 1
    let w := waitEntry x.waitsFor
    bytesOfNat 8 (x.unit.toNat + 2 ^ 52 * x.rep) ++ [BitVec.ofNat 8 st, BitVec.ofNat 8 w.1, BitVec.ofNat 8 w.2.1, 0, 0, 0, 0, 0] ++ bytesOfNat 8 w.2.2

/-- R448: the dump of a group. -/
def State.groupDump (s : State) (g : Nat) (k : Group) : List Byte :=
  let ms := s.members g
  let size := match s.launches.get? k.launch with
    | some l => l.kernel.gx * l.kernel.gy * l.kernel.gz
    | none => 0
  let bound := (ms.map fun e => e.2.fid + 1).foldl Nat.max size
  let index (f : Nat) : Option Nat := (ms.find? fun e => e.1 == f).map fun e => e.2.fid
  let arrived (b : Barrier) : Nat := (distinct (b.arrivals.filterMap index)).foldl (fun m i => m + 2 ^ i) 0
  padTo 64 0
      (bytesOfNat 4 (s.identity k.launch) ++ bytesOfNat 4 k.linear ++ bytesOfNat 2 ms.length ++ bytesOfNat 2 size ++ [BitVec.ofNat 8 k.dbg.cause, 0] ++
        bytesOfNat 2 bound ++ bytesOfNat 8 s.time) ++
    k.barriers.toList.flatMap (fun b => bytesOfNat 4 b.phase.toNat ++ bytesOfNat 4 0 ++ bytesOfNat 128 (arrived b)) ++
    (List.range bound).flatMap fun i => dumpMember ((ms.find? fun e => e.2.fid == i).map (·.2))

/-- R448: a dump is written, whatever the attributes of the pages. -/
def State.writeGroupDump (s : State) (g : Nat) (at_ : Word) : State :=
  match s.groups.get? g with
  | none => s
  | some k => s.deviceWriteRange k.die k.context at_.toNat (s.groupDump g k)

/-- R448: code 6, of a Stopped group. -/
def execDebugDump (slot : Nat) (s : State) : Host.Outcome State Fault Refusal :=
  s.debugCommand slot (· = 6) fun s e g q =>
    if q.state = .stopped then (s.writeGroupDump g (wordFieldOf e.message 16)).debugAnswer e.message 0 else s.debugAnswer e.message 1

/-- R447: a stop is complete: the dump that its command names is written, and the command answered. -/
def execStopComplete (g : Nat) (s : State) : Host.Outcome State Fault Refusal :=
  match s.groups.get? g with
  | none => .next s
  | some k =>
    match k.dbg.stopping, k.state with
    | some (cause, r), .stopped =>
      let mine (e : DebugEntry) : Bool := e.taken && match s.debugGroup e.message with
        | .ok (h, _) => h == g
        | .error _ => false
      let t := s.setGroup g { k with dbg := { k.dbg with stopping := none, cause := cause } }
      match r with
      | some addr =>
        let t := { t with debugWindow := { t.debugWindow with accepted := t.debugWindow.accepted.filter fun e => !mine e } }
        .next ((t.writeGroupDump g k.dbg.dumpAt).debugReply addr 0)
      | none => .next t
    | _, _ => .next s

end Sys2Proof.Machine
end

