-- ==== Sys2Proof/Machine/Platform.lean ====
section
/-! DEFINITION. Boot, power, errors and self-test (R451-R457). -/

namespace Sys2Proof.Machine

/-! ### Boot -/

/-- R451, R357: package reset: the package is as reset leaves it; what lies outside it, the stored firmware (R452) and the model's own fields stay. (DEDUCED,
assumption 70) -/
def State.packageReset (s : State) : State :=
  { State.reset with
    host := s.host, rdma := s.rdma, hostEvents := s.hostEvents, schedule := s.schedule, freeCount := s.freeCount,
    platform := { State.reset.platform with images := s.platform.images } }

/-- R451. -/
def execPackageReset (s : State) : Host.Outcome State Fault Refusal := .next s.packageReset

/-- R452: an object is accepted only when both signatures verify. -/
def SignedObject.accepted (o : SignedObject) : Bool := o.rsa = .verifying && o.slh = .verifying

/-- R451, R452: does the step in progress find its images accepted: the first in step 1, those of cores 1-7 in step 2? -/
def State.imagesAccepted (s : State) : Bool :=
  match s.platform.step with
  | 1 => s.platform.images[0].accepted
  | 2 => (s.platform.images.toList.drop 1).all SignedObject.accepted
  | _ => true

/-- R451, R422: may the step in progress end well: step 0 with the host link, steps 5 and 7 with a Causeway module, step 6 when every core has been tested? -/
def State.stepReady (s : State) : Bool :=
  match s.platform.step with
  | 0 => s.link.host.carries
  | 5 | 7 => s.link.modules.toList.any LinkState.carries
  | 6 => !s.platform.testing.any fun u => match u with
    | .core _ => true
    | .slice _ _ | .subArray _ _ _ | .memoryDevice _ _ _ => false
  | _ => true

/-- R451, R455: what the end of a step of boot leaves. A change of the capability list raises its event. -/
def State.stepDone (s : State) : State :=
  let p := s.platform
  let t := { s with platform := { p with step := p.step + 1 } }
  let told (t : State) : State := { t with hostEvents := t.hostEvents ++ [.capability] }
  match p.step with
  | 3 => told { t with diesUp := [0] }
  | 5 =>
    let cores := ((List.range 192).filter fun c => !s.fences.contains (.core c)).map TestUnit.core
    { t with platform := { t.platform with testing := distinct (t.platform.testing ++ cores) } }
  | 7 => told { t with diesUp := [0, 1], platform := { t.platform with clock := Vector.replicate 2 3600 } }
  | _ => t

/-- R451, R455: a step of boot fails: the package stays in it. A failure of step 0 leaves the host port Down, and nothing tells the host. -/
def State.stepFailed (s : State) : State :=
  let t := { s with platform := { s.platform with failed := true } }
  if s.platform.step = 0 then { t with link := { t.link with host := .down } } else { t with hostEvents := t.hostEvents ++ [.capability] }

/-- R451, R452: a step of boot ends; one whose images are not accepted fails. -/
def execBootStepComplete (ok : Bool) (s : State) : Host.Outcome State Fault Refusal :=
  if s.platform.step ≥ 8 || s.platform.failed then .next s
  else if ok && s.imagesAccepted then .next (if s.stepReady then s.stepDone else s)
  else .next s.stepFailed

/-! ### Power -/

/-- R456: a die's clock falls by 100 MHz, down to 1.2 GHz; beyond that every context is aborted (R333) and the package holds reset. (DEDUCED, assumption 70) -/
def execJunctionLimit (die : Nat) (s : State) : Host.Outcome State Fault Refusal :=
  if !s.diesUp.contains die then .next s
  else
    let mhz := s.platform.clock.toList.getD die 0
    if mhz > 1200 then
      .next
        { s with
          platform := { s.platform with clock := s.platform.clock.setIfInBounds die (Nat.max 1200 (mhz - 100)) }, hostEvents := s.hostEvents ++ [.capability] }
    else
      let s := (s.contexts.keys fun _ _ => true).foldl State.abortAny s
      .next { s with platform := { s.platform with holding := true } }

/-! ### Errors -/

/-- R17, R347, R457: the memory device that holds a byte of a tier: of its home die, the one that the interleaving gives. (DESIGN CHOICE, assumption 69) -/
def memoryUnit (tier : Bool) (off : Nat) : TestUnit :=
  .memoryDevice (off / Config.tierBytes tier) tier (if tier then Config.memoryDevice tier off else Config.memoryDevice tier off % Config.gddrDevices)

/-- R183: the slice of a die that holds a line of a context's carve-outs there. (DESIGN CHOICE, assumption 69) -/
def State.carveSlice (s : State) (c die line : Nat) : TestUnit :=
  let i := 256 * die + line % 256
  .slice die ((match s.contexts.get? c with
    | some k => (k.sliceTable.get? i).getD i
    | none => i) % 256)

/-- R457: the unit in which an error lies. -/
def State.siteUnit (s : State) (site : EccSite) : Option TestUnit :=
  let coreOf (g : Nat) : Option TestUnit := (s.groups.get? g).map fun k => .core k.core
  match site with
  | .memory tier off | .mode tier off => some (memoryUnit tier off)
  | .l2 c tier off => let u := s.sliceOf c (localKey tier off); some (.slice u.1 u.2)
  | .l1 core _ | .sampler core _ => some (.core core)
  | .slice g _ | .accumulators g | .accumulator g _ | .bank g => coreOf g
  | .registers f => (s.fibres.get? f).map fun x => .core x.core
  | .frame f =>
    match s.frames.get? f with
    | none => none
    | some r =>
      match s.deviceLocate (dieOf r.core) r.context (s.slotAddress r.context r.slot) with
      | some (pa, _, _) => some (memoryUnit (pa / 2 ^ 40 % 2 == 1) (pa % 2 ^ 40))
      | none => none
  | .record c die index => some (s.carveSlice c die (index / 2))
  | .speculative l _ pa => (s.launches.get? l).map fun k => s.carveSlice k.context (s.launchDie l) (pa / 64)
  | .stack f _ => (s.fibres.get? f).map fun x => .core x.core
  | .tollhouse => none

/-- R457: a cached line with an uncorrectable error at an address that it holds. -/
def CleanLine.spoil (l : CleanLine) (pa : Nat) : CleanLine := if l.pa ≤ pa && pa < l.pa + l.bytes.length then { l with bad := l.bad ++ [pa] } else l

/-- R27, R457, R290: what an uncorrectable error does where it lies. One in a constant bank is one in context state. (DEDUCED, assumption 97) -/
def State.uncorrectable (s : State) (site : EccSite) : State :=
  match site with
  | .memory tier off | .l2 _ tier off => { s with home := { s.home with bad := distinct (s.home.bad ++ [localKey tier off]) } }
  | .mode tier off => { s with home := { s.home with badModes := distinct (s.home.badModes ++ [localKey tier off / 256]) } }
  | .l1 core pa =>
    let k := s.core core
    s.setCore core
      { k with
        dirty := match k.dirty.get? pa with | some b => k.dirty.put pa { b with bad := true } | none => k.dirty,
        clean := k.clean.map (·.spoil pa) }
  | .sampler core pa => let k := s.core core; s.setCore core { k with sampler := k.sampler.map (·.spoil pa) }
  | .slice g off => s.updGroup g fun k => { k with badBytes := distinct (k.badBytes ++ [off]) }
  | .accumulator g h => s.updGroup g fun k => { k with badAccumulators := distinct (k.badAccumulators ++ [h]) }
  | .registers f => match s.anyFibre f with
    | some x => s.abortAny x.context
    | none => s
  | .frame f => match s.frames.get? f with
    | some r => s.abortAny r.context
    | none => s
  | .accumulators g | .bank g => match s.groups.get? g with
    | some k => s.abortAny k.context
    | none => s
  | .record c die index => s.updContext c fun k => { k with badRecords := distinct (k.badRecords ++ [(die, index)]) }
  | .speculative l g pa => s.updLaunch l fun k => { k with spec := k.spec.map fun b => if b.group = g && b.pa = pa then { b with bad := true } else b }
  | .stack f off => match s.fibres.get? f with
    | some x => if x.resident && off < x.stackSize then s.setFibre f { x with badStack := distinct (x.badStack ++ [off]) } else s
    | none => s
  | .tollhouse => s.packageReset

/-- R190: would an operation for which later units did not wait meet an uncorrectable error at its data return? -/
def State.meetsError (s : State) (f : Nat) (x : Fibre) (p : Pend) : Bool :=
  !p.hold && match p.op with
    | .load loc t sampler => if sampler then s.samplerError f x (t.width / 8) loc else s.hasError f x (t.width / 8) loc
    | .atom loc k => s.atomicError f x k.size loc
    | .query va => s.queryError x va
    | .rsLoad die index => s.recordError x.context die index
    | .loadVec _ _ _ _ | .loadBlock _ _ _ _ | .bind _ _ | .value _ _ | .ared _ _ | .store _ _ | .syncInit _ _ | .syncAdd _ _ | .rsStore _ _ _ => false

/-- R191: the outstanding loads and stores of a fibre end in order, where nothing keeps them; `fuel` bounds them. -/
def State.settlePend (s : State) (f fuel : Nat) : Option State :=
  match fuel with
  | 0 => none
  | fuel + 1 =>
    match s.fibres.get? f with
    | none => some s
    | some x =>
      match x.pend with
      | [] => some s
      | p :: _ =>
        if !s.reaches x p.op || p.op.remoteAtomic.any s.cutOff then none
        else if p.op.class = .ld then (s.returnLoad f x 0 p).settlePend f fuel
        else if !s.storeTurn f p then none
        else
          match s.performStore f x p with
          | some (u, flags) => ((u.updFibre f fun y => (y.dropPend 0 .st).orFlags flags).unitReturns f x p).settlePend f fuel
          | none => none

/-- R9, R190: the loads that would meet an error, but that met none when they issued, have read before it arises; none where one cannot have. (DEDUCED, assumption 32) -/
def State.readBefore (s : State) (site : EccSite) : Option State :=
  let t := s.uncorrectable site
  ((s.fibres.filter fun e => e.2.pend.any fun p => !s.meetsError e.1 e.2 p && t.meetsError e.1 e.2 p).map fun e => (e.1, 8 * e.2.pend.length + 8)).foldl
    (fun r e => r.bind fun u => u.settlePend e.1 e.2) (some s)

/-- R457: after an error its unit is tested, and the error waits to be counted. -/
def State.errorIn (s : State) (site : EccSite) : State :=
  match s.siteUnit site with
  | some u => let t := s.startTest u; { t with platform := { t.platform with errors := t.platform.errors ++ [u] } }
  | none => s

/-- R457: an error is found: a corrected one has no visible effect, and after every error the unit is tested. -/
def execEccError (site : EccSite) (fatal : Bool) (s : State) : Host.Outcome State Fault Refusal :=
  if !fatal then .next (s.errorIn site)
  else
    match s.readBefore site with
    | none => .next s
    | some t => .next ((t.errorIn site).uncorrectable site)

/-- R457: has the work in flight on a core ended? (DEDUCED, assumption 68) -/
def State.coreDrained (s : State) (c : Nat) : Bool :=
  let copying (cs : List CopyCommand) : Bool := cs.any fun q => q.started.isSome
  ((s.fibresOn c).all fun e => e.2.pend.isEmpty && e.2.rays.isEmpty && !copying e.2.copies) &&
    (s.groupsOn c).all fun e => e.2.bankWrites.isEmpty && e.2.guardWrites.isEmpty && !copying e.2.copies && e.2.matrix.all fun q => q.started.isNone

/-- R335, R457: something of a context is saved after what its save region holds; where it finds no room there, the context is aborted (DESIGN CHOICE, assumption 68). -/
def State.saveAfter (s : State) (c bytes : Nat) (save : Nat → State) : State :=
  match s.contexts.get? c with
  | none => s
  | some k =>
    let at_ := s.saveEnd c k
    if at_ + bytes ≤ k.desc.saveBase + k.desc.saveSize then save at_ else s.abortAny c

/-- R457: a group of a core to be tested is saved; one whose state cannot be read back is lost, and its context is aborted. -/
def State.moveGroup (s : State) (e : Nat × Group) : State :=
  if s.readable e.1 e.2 then s.saveAfter e.2.context (s.groupSaveBytes e.1 e.2) fun at_ => s.saveGroup at_ e.1 e.2 else s.abortAny e.2.context

/-- R457: the same of a detached fibre. -/
def State.moveFibre (s : State) (e : Nat × Fibre) : State :=
  if e.2.badStack.isEmpty then s.saveAfter e.2.context (saveAreaBytes e.2) fun at_ => s.saveFibre e.1 e.2 at_ else s.abortAny e.2.context

/-- R457, R335: the work of a core is saved, each piece after the last, to resume on other cores of its die. -/
def State.clearCore (s : State) (c : Nat) : State :=
  let s := (s.groupsOn c).foldl State.moveGroup s
  ((s.fibresOn c).filter fun e => e.2.group.isNone && e.2.life != .exiting).foldl State.moveFibre s

/-- R457: has a core groups or detached fibres that can be saved? -/
def State.coreBusy (s : State) (c : Nat) : Bool :=
  (s.groupsOn c).any (fun e => s.contextRuns e.2.context) || (s.fibresOn c).any fun e => e.2.group.isNone && e.2.life != .exiting && s.contextRuns e.2.context

/-- R457: the test of a unit is over: the errors of one that passes are counted as transient, one that fails is fenced. -/
def State.testOver (s : State) (u : TestUnit) (pass : Bool) : State :=
  let p := s.platform
  let t := { s with
    platform := { p with
      testing := p.testing.filter (· != u), errors := p.errors.filter (· != u), transient := p.transient + if pass then p.errors.count u else 0 } }
  if pass then t else t.fence u

/-- R25, R179, R457: a targeted self-test ends: a unit that passes is kept, one that fails is fenced. A core's groups are saved before its test; a core that
returns to service has its boundary as at reset. -/
def execTargetedSelfTestDone (u : TestUnit) (pass : Bool) (s : State) : Host.Outcome State Fault Refusal :=
  if !s.platform.testing.contains u then .next s
  else
    match u with
    | .core c =>
      if s.coreBusy c then .next (if s.coreDrained c then s.clearCore c else s)
      else
        let s := s.writeBack c fun _ _ => true
        .next ((s.setCore c { s.core c with boundary := 1, clean := [], sampler := [], tlb := [] }).testOver u pass)
    | .slice _ _ | .subArray _ _ _ | .memoryDevice _ _ _ => .next (s.testOver u pass)

end Sys2Proof.Machine
end

