-- ==== Sys2Proof/Machine/Astc.lean ====
section
/-! DEFINITION. ASTC blocks (R390), as the ASTC section of the Khronos Data Format Specification decodes them, with the values of its FP16 decoder: two-dimensional
footprints, the LDR and HDR profiles, error colours included. The manual names that standard and repeats none of it. (PRESUMED, assumption 99) -/

namespace Sys2Proof.Machine

/-- Bits lo + n - 1 to lo of a number. -/
def fieldAt (v lo n : Nat) : Nat := v / 2 ^ lo % 2 ^ n

/-- The n low bits of a number in reverse order. -/
def reverseBits (v n : Nat) : Nat := (List.range n).foldl (fun acc i => 2 * acc + fieldAt v i 1) 0

/-! ### Bounded integer sequences -/

/-- A range of values: bits of each, and whether a trit or a quint stands above them. -/
structure AstcRange where
  bits : Nat
  trit : Bool := false
  quint : Bool := false
deriving DecidableEq, Repr

/-- The ranges in ascending order: 2, 3, 4, 5, 6, 8, 10, 12, 16, 20, 24, 32, 40, 48, 64, 80, 96, 128, 160, 192 and 256 values. -/
def astcRange (n : Nat) : AstcRange :=
  match n % 3 with
  | 0 => if n = 0 then ⟨1, false, false⟩ else ⟨n / 3 - 1, false, true⟩
  | 1 => ⟨n / 3, true, false⟩
  | _ => ⟨n / 3 + 2, false, false⟩

/-- The bits of a sequence of `count` values. -/
def AstcRange.length (r : AstcRange) (count : Nat) : Nat :=
  r.bits * count + (if r.trit then (8 * count + 4) / 5 else if r.quint then (7 * count + 2) / 3 else 0)

/-- Five trits out of eight bits. -/
def tritsOf (t : Nat) : List Nat :=
  let f := fieldAt t
  let head : Nat × Nat × Nat := -- the low bits, and trits 3 and 4
    if f 2 3 = 7 then (f 5 3 * 4 + f 0 2, 2, 2)
    else if f 5 2 = 3 then (f 0 5, f 7 1, 2)
    else (f 0 5, f 5 2, f 7 1)
  let c := fieldAt head.1
  let low : List Nat :=
    if c 0 2 = 3 then [c 3 1 * 2 + c 2 1 * (1 - c 3 1), c 4 1, 2]
    else if c 2 2 = 3 then [c 0 2, 2, 2]
    else [c 1 1 * 2 + c 0 1 * (1 - c 1 1), c 2 2, c 4 1]
  low ++ [head.2.1, head.2.2]

/-- Three quints out of seven bits. -/
def quintsOf (q : Nat) : List Nat :=
  let f := fieldAt q
  if f 1 2 = 3 && f 5 2 = 0 then [4, 4, f 0 1 * 4 + f 4 1 * (1 - f 0 1) * 2 + f 3 1 * (1 - f 0 1)]
  else
    let head : Nat × Nat := if f 1 2 = 3 then (f 3 2 * 8 + (3 - f 5 2) * 2 + f 0 1, 4) else (f 0 5, f 5 2)
    let c := fieldAt head.1
    if c 0 3 = 5 then [c 3 2, 4, head.2] else [c 0 3, c 3 2, head.2]

/-- A block of a sequence: where in it the parts of its packed digits stand, by value: parts of 2, 2, 1, 2 and 1 bits for trits, of 3, 2 and 2 bits for quints. -/
def packedParts (r : AstcRange) : List Nat := if r.trit then [2, 2, 1, 2, 1] else if r.quint then [3, 2, 2] else [0]

/-- The values of one block of a sequence: its digits (0 without any) and its low bits, from bits that are 0 past the sequence. -/
def sequenceBlock (r : AstcRange) (v : Nat) : List (Nat × Nat) :=
  let read := (packedParts r).foldl
    (fun (acc : Nat × Nat × Nat × List Nat) n => -- the place, the packed digits, their bits so far, the low bits
      (acc.1 + r.bits + n, acc.2.1 + fieldAt v (acc.1 + r.bits) n * 2 ^ acc.2.2.1, acc.2.2.1 + n, acc.2.2.2 ++ [fieldAt v acc.1 r.bits]))
    (0, 0, 0, [])
  let digits := if r.trit then tritsOf read.2.1 else if r.quint then quintsOf read.2.1 else [0]
  digits.zip read.2.2.2

/-- A sequence of `count` values at the low end of a number, each as its digit and its low bits. -/
def sequenceOf (r : AstcRange) (v count : Nat) : List (Nat × Nat) :=
  let v := v % 2 ^ r.length count
  let n := (packedParts r).length
  let size := r.bits * n + (packedParts r).sum
  ((List.range ((count + n - 1) / n)).flatMap fun k => sequenceBlock r (v / 2 ^ (k * size))).take count

/-- Bits repeated from the top down until they fill a width. -/
def replicateBits (v n width : Nat) : Nat :=
  (List.range width).foldl (fun acc i => 2 * acc + fieldAt v (n - 1 - i % n) 1) 0

/-- A number out of a pattern of bit numbers, the highest first; an entry that is no bit of the value is 0. -/
def patternOf (v : Nat) (ps : List Nat) : Nat := ps.foldl (fun acc p => 2 * acc + (if p = 0 then 0 else fieldAt v p 1)) 0

/-- A digit with low bits, spread over a width of 7 or 9 bits: D * C + B, exchanged by the lowest bit, less its two low bits. -/
def spreadDigit (digit low c : Nat) (pattern : List Nat) (width : Nat) : Nat :=
  let a := if low.testBit 0 then 2 ^ width - 1 else 0
  let t := (digit * c + patternOf low pattern) ^^^ a
  (if low.testBit 0 then 2 ^ (width - 2) else 0) + t / 4 % 2 ^ (width - 2)

/-- A colour value, 0 to 255. -/
def colourValue (r : AstcRange) (e : Nat × Nat) : Nat :=
  let sp (c : Nat) (p : List Nat) : Nat := spreadDigit e.1 e.2 c p 9
  match r.trit, r.quint, r.bits with
  | true, _, 1 => sp 204 []
  | true, _, 2 => sp 93 [1, 0, 0, 0, 1, 0, 1, 1, 0]
  | true, _, 3 => sp 44 [2, 1, 0, 0, 0, 2, 1, 2, 1]
  | true, _, 4 => sp 22 [3, 2, 1, 0, 0, 0, 3, 2, 1]
  | true, _, 5 => sp 11 [4, 3, 2, 1, 0, 0, 0, 4, 3]
  | true, _, _ => sp 5 [5, 4, 3, 2, 1, 0, 0, 0, 5]
  | false, true, 1 => sp 113 []
  | false, true, 2 => sp 54 [1, 0, 0, 0, 0, 1, 1, 0, 0]
  | false, true, 3 => sp 26 [2, 1, 0, 0, 0, 0, 2, 1, 2]
  | false, true, 4 => sp 13 [3, 2, 1, 0, 0, 0, 0, 3, 2]
  | false, true, _ => sp 6 [4, 3, 2, 1, 0, 0, 0, 0, 4]
  | false, false, n => replicateBits e.2 n 8

/-- A weight, 0 to 64. -/
def weightValue (r : AstcRange) (e : Nat × Nat) : Nat :=
  let sp (c : Nat) (p : List Nat) : Nat := spreadDigit e.1 e.2 c p 7
  let w := match r.trit, r.quint, r.bits with
    | true, _, 0 => [0, 32, 63].getD e.1 0
    | true, _, 1 => sp 50 []
    | true, _, 2 => sp 23 [1, 0, 0, 0, 1, 0, 1]
    | true, _, _ => sp 11 [2, 1, 0, 0, 0, 2, 1]
    | false, true, 0 => [0, 16, 32, 47, 63].getD e.1 0
    | false, true, 1 => sp 28 []
    | false, true, _ => sp 13 [1, 0, 0, 0, 0, 1, 0]
    | false, false, n => replicateBits e.2 n 6
  if w > 32 then w + 1 else w

/-! ### The block mode -/

/-- The weight grid of a block: its width and height, the range of a weight, and whether it has two planes. -/
structure AstcGrid where
  width : Nat
  height : Nat
  range : Nat
  dual : Bool
deriving DecidableEq, Repr

/-- The block mode; none where it is reserved. -/
def astcGrid (m : Nat) : Option AstcGrid :=
  let f := fieldAt m
  let a := f 5 2
  let b := f 7 2
  let grid (w h r : Nat) (wide : Bool) : AstcGrid :=
    ⟨w, h, 2 * r + f 4 1 - 2 + (if wide && f 9 1 = 1 then 6 else 0), wide && f 10 1 = 1⟩
  if f 0 2 != 0 then
    some (match f 2 2 with
      | 0 => grid (b + 4) (a + 2) (f 0 2) true
      | 1 => grid (b + 8) (a + 2) (f 0 2) true
      | 2 => grid (a + 2) (b + 8) (f 0 2) true
      | _ => if f 8 1 = 1 then grid (f 7 1 + 2) (a + 2) (f 0 2) true else grid (a + 2) (f 7 1 + 6) (f 0 2) true)
  else if f 2 2 = 0 then none
  else
    match b with
    | 0 => some (grid 12 (a + 2) (f 2 2) true)
    | 1 => some (grid (a + 2) 12 (f 2 2) true)
    | 2 => some (grid (a + 6) (f 9 2 + 6) (f 2 2) false)
    | _ => match a with
      | 0 => some (grid 6 10 (f 2 2) true)
      | 1 => some (grid 10 6 (f 2 2) true)
      | _ => none

/-- The weights of a grid, both planes counted. -/
def AstcGrid.count (g : AstcGrid) : Nat := g.width * g.height * (if g.dual then 2 else 1)

/-- The bits that the weights of a grid take. -/
def AstcGrid.bits (g : AstcGrid) : Nat := (astcRange g.range).length g.count

/-! ### Partitions -/

/-- The hash of a partition seed. -/
def partitionHash (seed : Nat) : BitVec 32 :=
  let p : BitVec 32 := BitVec.ofNat 32 seed
  let p := p ^^^ (p >>> 15)
  let p := p * 0xEEDE0891#32
  let p := p ^^^ (p >>> 5)
  let p := p + (p <<< 16)
  let p := p ^^^ (p >>> 7)
  let p := p ^^^ (p >>> 3)
  let p := p ^^^ (p <<< 6)
  p ^^^ (p >>> 17)

/-- The partition of a texel. -/
def partitionOf (index x y count : Nat) (small : Bool) : Nat :=
  let x := if small then 2 * x else x
  let y := if small then 2 * y else y
  let r := (partitionHash (index + (count - 1) * 1024)).toNat
  let odd := if count = 3 then 6 else 5
  let two := if index.testBit 1 then 4 else 5
  let sh := if index.testBit 0 then (two, odd) else (odd, two)
  let term (at_ : Nat) : Nat := let s := fieldAt r at_ 4; s * s
  let mix (i j k : Nat) : Nat := (term i / 2 ^ sh.1 * x + term j / 2 ^ sh.2 * y + r / 2 ^ k) % 64
  let a := mix 0 4 14
  let b := mix 8 12 10
  let c := if count ≤ 2 then 0 else mix 16 20 6
  let d := if count ≤ 3 then 0 else mix 24 28 2
  if b ≤ a && c ≤ a && d ≤ a then 0 else if c ≤ b && d ≤ b then 1 else if d ≤ c then 2 else 3

/-! ### Endpoints -/

/-- The two endpoints of a partition, four channels each: of 8 bits, or of 12 bits where a channel is HDR. -/
structure AstcEnds where
  low : List Int
  high : List Int
  rgbHdr : Bool := false
  alphaHdr : Bool := false

/-- A value within 8 bits. -/
def clamp8 (v : Int) : Int := clampInt v 0 255
/-- A value within 12 bits. -/
def clamp12 (v : Int) : Int := clampInt v 0 0xFFF

/-- The blue contraction. -/
def blueContract (c : List Int) : List Int :=
  let g (i : Nat) : Int := c.getD i 0
  [(g 0 + g 2) / 2, (g 1 + g 2) / 2, g 2, g 3]

/-- The signed bit transfer: the offset, and the base. -/
def transferSigned (a b : Nat) : Int × Int :=
  let o : Int := fieldAt a 1 6
  (if o ≥ 32 then o - 64 else o, ((b / 2 + a / 128 * 128 : Nat) : Int))

/-- Channels 0 and `k` exchanged. -/
def exchange (k : Nat) (c : List Int) : List Int :=
  let g (i : Nat) : Int := c.getD i 0
  match k with
  | 1 => [g 1, g 0, g 2]
  | 2 => [g 2, g 1, g 0]
  | _ => [g 0, g 1, g 2]

/-- A bit of a value moved to a place, in the modes of a mask. -/
def bitIn (mask mode v from_ to_ : Nat) : Nat := if mask.testBit mode then fieldAt v from_ 1 * 2 ^ to_ else 0

/-- HDR RGB with base and scale (endpoint mode 7). -/
def hdrScaled (v : Nat → Nat) : List Int × List Int :=
  let m := fieldAt (v 0) 6 2 + fieldAt (v 1) 7 1 * 4 + fieldAt (v 2) 7 1 * 8
  let major := if m / 4 != 3 then m / 4 else if m != 15 then m % 4 else 0
  let mode := if m / 4 != 3 then m % 4 else if m != 15 then 4 else 5
  let b (mask k to_ : Nat) : Nat :=
    let src := [(1, 6), (1, 5), (2, 6), (2, 5), (3, 7), (3, 6), (3, 5)].getD k (0, 0)
    bitIn mask mode (v src.1) src.2 to_
  let green := v 1 % 32 + b 0x30 0 6 + b 0x3A 1 5
  let blue := v 2 % 32 + b 0x30 2 6 + b 0x3A 3 5
  let scale := v 3 % 32 + b 0x3D 6 5 + b 0x2D 5 6 + b 0x04 4 7
  let red := v 0 % 64 + b 0x3B 4 6 + b 0x04 3 6 + b 0x10 5 7 + b 0x0F 2 7 + b 0x05 1 8 + b 0x0A 0 8 + b 0x05 0 9 + b 0x02 6 9 + b 0x01 3 10 + b 0x02 5 10
  let sh := 2 ^ [1, 1, 2, 3, 4, 5].getD mode 1
  let r : Int := (red * sh : Nat)
  let g : Int := (green * sh : Nat)
  let u : Int := (blue * sh : Nat)
  let c := exchange major (if mode = 5 then [r, g, u] else [r, r - g, r - u])
  (c.map fun x => clamp12 (x - (scale * sh : Nat)), c.map clamp12)

/-- A number of n bits as a signed one. -/
def signedField (v n : Nat) : Int := if fieldAt v (n - 1) 1 = 1 then (fieldAt v 0 n : Int) - (2 ^ n : Nat) else fieldAt v 0 n

/-- HDR RGB, direct (endpoint modes 11, 14 and 15). -/
def hdrDirect (v : Nat → Nat) : List Int × List Int :=
  let major := fieldAt (v 4) 7 1 + fieldAt (v 5) 7 1 * 2
  if major = 3 then
    let e (i : Nat) : List Int := [(v i * 16 : Nat), (v (i + 2) * 16 : Nat), (v (i + 4) % 128 * 32 : Nat)]
    (e 0, e 1)
  else
    let mode := fieldAt (v 1) 7 1 + fieldAt (v 2) 7 1 * 2 + fieldAt (v 3) 7 1 * 4
    let bit (mask k to_ : Nat) : Nat :=
      let src := [(2, 6), (3, 6), (4, 6), (5, 6), (4, 5), (5, 5)].getD k (0, 0)
      bitIn mask mode (v src.1) src.2 to_
    let a := v 0 + fieldAt (v 1) 6 1 * 256 + bit 0xA4 0 9 + bit 0x08 2 9 + bit 0x50 4 9 + bit 0x50 5 10 + bit 0xA0 1 10 + bit 0xC0 2 11
    let c := v 1 % 64 + bit 0x04 1 6 + bit 0xE8 3 6 + bit 0x20 2 7
    let b0 := v 2 % 64 + bit 0x5B 0 6 + bit 0x12 2 7
    let b1 := v 3 % 64 + bit 0x5B 1 6 + bit 0x12 3 7
    let db := [7, 6, 7, 6, 5, 6, 5, 6].getD mode 7
    let sh : Nat := 2 ^ (mode / 2 ^^^ 3)
    let d0 := signedField (v 4) db * sh
    let d1 := signedField (v 5) db * sh
    let n (x : Nat) : Int := (x * sh : Nat)
    let high : List Int := [n a, n a - n b0, n a - n b1]
    let low : List Int := [n a - n c, n a - n b0 - n c - d0, n a - n b1 - n c - d1]
    (exchange major (low.map clamp12), exchange major (high.map clamp12))

/-- The HDR alpha of endpoint mode 15. -/
def hdrAlpha (v6 v7 : Nat) : Int × Int :=
  let mode := fieldAt v6 7 1 + fieldAt v7 7 1 * 2
  let a := v6 % 128
  let b := v7 % 128
  if mode = 3 then ((a * 32 : Nat), (b * 32 : Nat))
  else
    let sh : Nat := 2 ^ (4 - mode)
    let base : Nat := a ||| (b * 2 ^ (mode + 1) &&& 0x780)
    let half : Nat := 32 / 2 ^ mode
    let off : Int := (((b % (2 * half)) ^^^ half : Nat) : Int) - half
    ((base * sh : Nat), clamp12 ((base * sh : Nat) + off * sh))

/-- The endpoints of an endpoint mode from its values. -/
def astcEnds (mode : Nat) (vs : List Nat) : AstcEnds :=
  let v (i : Nat) : Nat := vs.getD i 0
  let n (i : Nat) : Int := v i
  let one : Int := 0x780
  let direct (alpha : Bool) : AstcEnds :=
    let lo : List Int := [n 0, n 2, n 4, if alpha then n 6 else 255]
    let hi : List Int := [n 1, n 3, n 5, if alpha then n 7 else 255]
    if v 1 + v 3 + v 5 ≥ v 0 + v 2 + v 4 then ⟨lo, hi, false, false⟩ else ⟨blueContract hi, blueContract lo, false, false⟩
  let offsets (alpha : Bool) : AstcEnds :=
    let p (i : Nat) : Int × Int := transferSigned (v (i + 1)) (v i)
    let lo : List Int := [(p 0).2, (p 2).2, (p 4).2, if alpha then (p 6).2 else 255]
    let hi : List Int := [(p 0).2 + (p 0).1, (p 2).2 + (p 2).1, (p 4).2 + (p 4).1, if alpha then (p 6).2 + (p 6).1 else 255]
    if (p 0).1 + (p 2).1 + (p 4).1 ≥ 0 then ⟨lo.map clamp8, hi.map clamp8, false, false⟩
    else ⟨(blueContract hi).map clamp8, (blueContract lo).map clamp8, false, false⟩
  let scaled (a0 a1 : Int) : AstcEnds :=
    ⟨[n 0 * n 3 / 256, n 1 * n 3 / 256, n 2 * n 3 / 256, a0], [n 0, n 1, n 2, a1], false, false⟩
  match mode with
  | 0 => ⟨[n 0, n 0, n 0, 255], [n 1, n 1, n 1, 255], false, false⟩
  | 1 =>
    let l0 : Int := (v 0 / 4 + v 1 / 64 * 64 : Nat)
    let l1 := clamp8 (l0 + (v 1 % 64 : Nat))
    ⟨[l0, l0, l0, 255], [l1, l1, l1, 255], false, false⟩
  | 2 =>
    let y := if v 1 ≥ v 0 then (n 0 * 16, n 1 * 16) else (n 1 * 16 + 8, n 0 * 16 - 8)
    ⟨[y.1, y.1, y.1, one], [y.2, y.2, y.2, one], true, true⟩
  | 3 =>
    let y : Nat × Nat :=
      if v 0 ≥ 128 then (v 1 / 32 * 512 + v 0 % 128 * 4, v 1 % 32 * 4) else (v 1 / 16 * 256 + v 0 % 128 * 2, v 1 % 16 * 2)
    let y0 : Int := y.1
    let y1 := clamp12 (y0 + y.2)
    ⟨[y0, y0, y0, one], [y1, y1, y1, one], true, true⟩
  | 4 => ⟨[n 0, n 0, n 0, n 2], [n 1, n 1, n 1, n 3], false, false⟩
  | 5 =>
    let p := transferSigned (v 1) (v 0)
    let q := transferSigned (v 3) (v 2)
    let l1 := clamp8 (p.2 + p.1)
    ⟨[p.2, p.2, p.2, q.2], [l1, l1, l1, clamp8 (q.2 + q.1)], false, false⟩
  | 6 => scaled 255 255
  | 7 => let e := hdrScaled v; ⟨e.1 ++ [one], e.2 ++ [one], true, true⟩
  | 8 => direct false
  | 9 => offsets false
  | 10 => scaled (n 4) (n 5)
  | 11 => let e := hdrDirect v; ⟨e.1 ++ [one], e.2 ++ [one], true, true⟩
  | 12 => direct true
  | 13 => offsets true
  | 14 => let e := hdrDirect v; ⟨e.1 ++ [n 6], e.2 ++ [n 7], true, false⟩
  | _ => let e := hdrDirect v; let a := hdrAlpha (v 6) (v 7); ⟨e.1 ++ [a.1], e.2 ++ [a.2], true, true⟩

/-! ### Blocks -/

/-- The error colour of a profile: NaNs, or opaque magenta. -/
def astcError (hdr : Bool) : List Nat := if hdr then [0xFFFF, 0xFFFF, 0xFFFF, 0xFFFF] else [0x3C00, 0, 0x3C00, 0x3C00]

/-- A 16-bit normalised channel as FP16. -/
def unormHalf (c : Nat) : Nat := if c = 65535 then 0x3C00 else (roundRat .f16 .rz (mkRat c 65536)).toNat

/-- A 16-bit logarithmic channel as FP16. -/
def logHalf (c : Nat) : Nat :=
  let m := c % 2048
  let t := if m < 512 then 3 * m else if m ≥ 1536 then 5 * m - 2048 else 4 * m - 512
  Nat.min (c / 2048 * 1024 + t / 8) 0x7BFF

/-- A block of one colour. -/
def voidExtent (hdr : Bool) (b : Nat) : List Nat :=
  let f := fieldAt b
  let whole := f 12 52 = 2 ^ 52 - 1
  let float := f 9 1 = 1
  if f 10 2 != 3 || (!whole && (f 12 13 ≥ f 25 13 || f 38 13 ≥ f 51 13)) || (float && !hdr) then astcError hdr
  else (List.range 4).map fun i => if float then f (64 + 16 * i) 16 else unormHalf (f (64 + 16 * i) 16)

/-- The endpoint modes of the partitions, and the bits below the weights that they take. -/
def endpointModes (b parts below : Nat) : List Nat × Nat :=
  if parts = 1 then ([fieldAt b 13 4], 0)
  else
    let low := fieldAt b 23 6
    if low % 4 = 0 then (List.replicate parts (low / 4), 0)
    else
      let extra := 3 * parts - 4
      let all := low + fieldAt b (below - extra) extra * 64
      ((List.range parts).map fun i => (low % 4 - 1 + fieldAt all (2 + i) 1) * 4 + fieldAt all (2 + parts + 2 * i) 2, extra)

/-- The values that an endpoint mode takes. -/
def endpointCount (mode : Nat) : Nat := 2 * (mode / 4 + 1)

/-- The finest range in which `count` values fit `bits` bits; none below six values. -/
def colourRange (count bits : Nat) : Option AstcRange :=
  (((List.range 21).drop 4).reverse.map astcRange).find? fun r => r.length count ≤ bits

/-- The weight of a texel in a plane, interpolated from the grid. -/
def texelWeight (g : AstcGrid) (ws : List Nat) (bw bh s t plane : Nat) : Nat :=
  let planes := if g.dual then 2 else 1
  let scale (n : Nat) : Nat := (1024 + n / 2) / (n - 1)
  let gs := (scale bw * s * (g.width - 1) + 32) / 64
  let gt := (scale bh * t * (g.height - 1) + 32) / 64
  let at_ (i j : Nat) : Nat := ws.getD (((gt / 16 + j) * g.width + gs / 16 + i) * planes + plane) 0
  let w11 := (gs % 16 * (gt % 16) + 8) / 16
  (at_ 0 0 * (16 + w11 - gs % 16 - gt % 16) + at_ 1 0 * (gs % 16 - w11) + at_ 0 1 * (gt % 16 - w11) + at_ 1 1 * w11 + 8) / 16

/-- A channel between two endpoints. -/
def astcChannel (e : AstcEnds) (c weight : Nat) : Nat :=
  let hdr := if c = 3 then e.alphaHdr else e.rgbHdr
  let wide (v : Int) : Nat := if hdr then v.toNat * 16 else v.toNat * 257
  let x := (wide (e.low.getD c 0) * (64 - weight) + wide (e.high.getD c 0) * weight + 32) / 64
  if hdr then logHalf x else unormHalf x

/-- R390: the FP16 channels R, G, B and A of texel (s, t) of an ASTC block with a footprint. (PRESUMED, assumption 99) -/
def astcTexel (hdr : Bool) (size : Nat × Nat) (b s t : Nat) : List Nat :=
  if fieldAt b 0 9 = 0x1FC then voidExtent hdr b
  else
    match astcGrid (fieldAt b 0 11) with
    | none => astcError hdr
    | some g =>
      let parts := fieldAt b 11 2 + 1
      let modes := endpointModes b parts (128 - g.bits)
      let counts := modes.1.map endpointCount
      let start := if parts = 1 then 17 else 29
      let above := g.bits + modes.2 + (if g.dual then 2 else 0)
      if g.count > 64 || g.bits < 24 || g.bits > 96 || g.width > size.1 || g.height > size.2 || (g.dual && parts = 4) || counts.sum > 18 then astcError hdr
      else
        match colourRange counts.sum (128 - start - above) with
        | none => astcError hdr
        | some r =>
          let k := if parts = 1 then 0 else partitionOf (fieldAt b 13 10) s t parts (size.1 * size.2 < 31)
          let mode := modes.1.getD k 0
          let first := (counts.take k).sum
          let values := (((sequenceOf r (b / 2 ^ start) counts.sum).drop first).take (endpointCount mode)).map (colourValue r)
          let e := astcEnds mode values
          let wr := astcRange g.range
          let ws := (sequenceOf wr (reverseBits b 128) g.count).map (weightValue wr)
          let second := fieldAt b (128 - above) 2
          if !hdr && e.rgbHdr then astcError hdr
          else (List.range 4).map fun c => astcChannel e c (texelWeight g ws size.1 size.2 s t (if g.dual && c = second then 1 else 0))

end Sys2Proof.Machine
end

