-- ==== Sys2Proof/Machine/Textures.lean ====
section
/-! DEFINITION. The sampler: texture descriptors, footprints, samples, tex and texq (R389-R394). -/

namespace Sys2Proof.Machine

/-- R389. -/
structure Texture where
  base : Nat
  format : Nat
  levels : Nat
  filter : Nat
  modeU : Nat
  modeV : Nat
  width : Nat
  height : Nat

/-- R390: the ASTC footprints. -/
def astcFootprint (f : Nat) : Nat × Nat :=
  [(4, 4), (5, 4), (5, 5), (6, 5), (6, 6), (8, 5), (8, 6), (8, 8), (10, 5), (10, 6), (10, 8), (10, 10), (12, 10), (12, 12)].getD f (4, 4)

/-- R390: is it the code of an ASTC format? -/
def isAstc (code : Nat) : Bool := code ≥ 0x40

/-- R390: is a format code assigned? -/
def formatOk (code : Nat) : Bool := (1 ≤ code && code ≤ 0x0A) || (0x40 ≤ code && code ≤ 0x4D) || (0x80 ≤ code && code ≤ 0x8D)

/-- R389, R390: a descriptor that keeps the limits. (DEDUCED, assumption 38) -/
def textureOf (d : List Byte) : Option Texture :=
  let t : Texture :=
    { base := fieldOf d 0 8, format := fieldOf d 8 1, levels := fieldOf d 9 1, filter := fieldOf d 10 1, modeU := fieldOf d 11 1 % 4,
      modeV := fieldOf d 11 1 / 4 % 4, width := fieldOf d 12 2, height := fieldOf d 14 2 }
  if t.base % 256 = 0 && formatOk t.format && 1 ≤ t.width && t.width ≤ 32768 && 1 ≤ t.height && t.height ≤ 32768 && 1 ≤ t.levels &&
      t.levels ≤ Nat.min 16 ((Nat.max t.width t.height).log2 + 1) && t.filter ≤ 2 && fieldOf d 11 1 < 16 && t.modeU != 3 && t.modeV != 3 && zeroBytes d 16 48 then
    some t
  else none

/-- R390: bytes per texel of a plain format. -/
def texelBytes (code : Nat) : Nat := [0, 1, 2, 4, 2, 4, 8, 4, 8, 16, 4].getD code 1

/-- R390: the extent of a level. -/
def levelExtent (n l : Nat) : Nat := Nat.max 1 (n / 2 ^ l)

/-- R390: rows and pitch of a level. -/
def Texture.layout (t : Texture) (l : Nat) : Nat × Nat :=
  let w := levelExtent t.width l
  let h := levelExtent t.height l
  if isAstc t.format then
    let b := astcFootprint (t.format % 0x40)
    ((w + b.1 - 1) / b.1 * 16, (h + b.2 - 1) / b.2)
  else ((w * texelBytes t.format + 15) / 16 * 16, h)

/-- R390: where a level starts. -/
def Texture.levelBase (t : Texture) (l : Nat) : Nat :=
  t.base + ((List.range l).map fun i => let p := t.layout i; (p.1 * p.2 + 255) / 256 * 256).sum

/-- R390: the bytes that hold a texel: address and length. -/
def Texture.texelAt (t : Texture) (l i j : Nat) : Nat × Nat :=
  let pitch := (t.layout l).1
  if isAstc t.format then
    let b := astcFootprint (t.format % 0x40)
    (t.levelBase l + j / b.2 * pitch + i / b.1 * 16, 16)
  else (t.levelBase l + j * pitch + i * texelBytes t.format, texelBytes t.format)

/-- A channel of n bits as RN32(c / (2^n - 1)). -/
def unormChannel (c n : Nat) : XVal := exact .f32 (roundRat .f32 .rn (mkRat c (2 ^ n - 1)))

/-- R390: the channels R, G, B and A of a texel. Missing ones read as 0, 0 and 1. -/
def Texture.channels (t : Texture) (bs : List Byte) (i j : Nat) : List XVal :=
  let zero : XVal := exactInt 0
  let one : XVal := exactInt 1
  let pad (xs : List XVal) : List XVal := xs ++ [zero, zero, zero, one].drop xs.length
  let unorm8 (n : Nat) : List XVal := (List.range n).map fun c => unormChannel (fieldOf bs c 1) 8
  match t.format with
  | 0x01 => pad (unorm8 1)
  | 0x02 => pad (unorm8 2)
  | 0x03 => unorm8 4
  | 0x04 => pad (floatFields .f16 bs 0 1)
  | 0x05 => pad (floatFields .f16 bs 0 2)
  | 0x06 => floatFields .f16 bs 0 4
  | 0x07 => pad (floatFields .f32 bs 0 1)
  | 0x08 => pad (floatFields .f32 bs 0 2)
  | 0x09 => floatFields .f32 bs 0 4
  | 0x0A =>
    let w := natOfBytes bs
    [unormChannel (w % 2 ^ 10) 10, unormChannel (w / 2 ^ 10 % 2 ^ 10) 10, unormChannel (w / 2 ^ 20 % 2 ^ 10) 10, unormChannel (w / 2 ^ 30 % 4) 2]
  | code =>
    let b := astcFootprint (code % 0x40)
    (astcTexel (code ≥ 0x80) b (natOfBytes bs) (i % b.1) (j % b.2)).map fun c => exact .f16 (BitVec.ofNat 64 c)

/-! ### Footprints (R391) -/

/-- R391: a coordinate or a level as a number. -/
def coordinate (w : Word) : Rat :=
  match exact .f32 w with
  | .nan _ => 0
  | .inf neg => let m := ratOf (exact .f32 0x7F7FFFFF); if neg then -m else m
  | .fin neg m => ratOf (.fin neg m)

/-- R391: an index brought into a level by the address mode. -/
def wrapIndex (mode : Nat) (i : Int) (n : Nat) : Nat :=
  match mode with
  | 0 => (i % (n : Int)).toNat
  | 1 => (clampInt i 0 ((n : Int) - 1)).toNat
  | _ => let m := (i % (2 * n : Nat)).toNat; if m < n then m else 2 * n - 1 - m

/-- R391: the fraction of a number, in 256ths, cut. -/
def fraction256 (q : Rat) : Nat := (q * 256).floor.toNat

/-- R391: the texels of one axis of a level, with their weights in 256ths. (DEDUCED, assumption 37) -/
def axisTexels (linear : Bool) (mode : Nat) (c : Rat) (n : Nat) : List (Nat × Nat) :=
  if !linear then [(wrapIndex mode (c * (n : Rat)).floor n, 256)]
  else
    let x := c * (n : Rat) - mkRat 1 2
    let i := x.floor
    let a := fraction256 (x - (i : Rat))
    [(wrapIndex mode i n, 256 - a), (wrapIndex mode (i + 1) n, a)]

/-- R391: the levels that a sample uses, with their weights in 256ths, the finest first. -/
def Texture.levelsFor (t : Texture) (level : Rat) : List (Nat × Nat) :=
  let last : Rat := ((t.levels - 1 : Nat) : Rat)
  let l := if level < 0 then 0 else if level > last then last else level
  if t.filter = 2 then
    let l0 := l.floor.toNat
    let a := fraction256 (l - (l0 : Rat))
    [(l0, 256 - a), (Nat.min (l0 + 1) (t.levels - 1), a)]
  else [((l + mkRat 1 2).floor.toNat, 256)]

/-- R391: the texels of a sample that have a weight: level, column, row, and the weight in steps of 2^-24. -/
def Texture.texels (t : Texture) (u v : Rat) (levels : List (Nat × Nat)) : List (Nat × Nat × Nat × Nat) :=
  (levels.flatMap fun l =>
    (axisTexels (t.filter != 0) t.modeV v (levelExtent t.height l.1)).flatMap fun j =>
      (axisTexels (t.filter != 0) t.modeU u (levelExtent t.width l.1)).map fun i => (l.1, i.1, j.1, l.2 * i.2 * j.2)).filter fun e => e.2.2.2 != 0

/-- What a footprint finds: its bytes, the lowest page that is not resident, or a fault and its address. -/
inductive Footprint where
  | whole (texels : List (List Byte))
  | missing (page : Nat)
  | bad (code : FaultCode) (addr : Nat)

/-- R392: the pages of a footprint: a fault comes first, then a page that is not resident. -/
def State.footprintPages (s : State) (v : Viewer) (spans : List (Nat × Nat)) : Option Footprint :=
  let pages := spans.flatMap fun p => [p.1, p.1 + p.2 - 1].map fun a => (a, s.scenePage v a)
  let faults := pages.filterMap fun p => match p.2 with
    | .error e => some (Footprint.bad e p.1)
    | .ok _ => none
  let absent := pages.filterMap fun p => match p.2 with
    | .ok (base, none) => some base
    | .ok (_, some _) | .error _ => none
  match faults, sortBy (fun a b => a ≤ b) absent with
  | f :: _, _ => some f
  | [], base :: _ => some (.missing base)
  | [], [] => none

/-- R392: read a footprint. -/
def State.footprint (s : State) (v : Viewer) (spans : List (Nat × Nat)) : Footprint :=
  match s.footprintPages v spans with
  | some f => f
  | none =>
    let got := spans.map fun p => (p.1, s.sceneReader v p.1 p.2)
    let faults := got.filterMap fun g => match g.2 with
      | .bad c => some (Footprint.bad c g.1)
      | .absent => some (Footprint.bad .translation g.1)
      | .bytes _ => none
    match faults with
    | f :: _ => f
    | [] => .whole (got.map fun g => match g.2 with
      | .bytes bs => bs
      | .absent | .bad _ => [])

/-- R391: the bytes of a sample's texels. -/
def Texture.spans (t : Texture) (es : List (Nat × Nat × Nat × Nat)) : List (Nat × Nat) := es.map fun e => t.texelAt e.1 e.2.1 e.2.2.1

/-- R391: channel c of a sample: one exact sum, rounded once. -/
def Texture.channel (t : Texture) (es : List ((Nat × Nat × Nat × Nat) × List Byte)) (c : Nat) : Word :=
  let terms := es.map fun e => (mulX (.fin false ⟨e.1.2.2.2, -24, false⟩) ((t.channels e.2 e.1.2.1 e.1.2.2.1).getD c (.nan false))).1
  ((sumX .rn terms).andThen (roundTo .f32 .rn)).1

/-- R391, R393: the three words of a sample. -/
def Texture.words (t : Texture) (es : List (Nat × Nat × Nat × Nat)) (bss : List (List Byte)) (miss level : Nat) : List Word :=
  let c (n : Nat) : Nat := (t.channel (es.zip bss) n).toNat
  [BitVec.ofNat 64 (c 0 + 2 ^ 32 * c 1), BitVec.ofNat 64 (c 2 + 2 ^ 32 * c 3), BitVec.ofNat 64 (miss + 2 ^ 8 * level)]

/-- R393: the coordinates: U, V and the level. -/
def sampleAt (x : Fibre) (bank : Vector Word 16) (c : Src) : Rat × Rat × Rat :=
  let ws := x.registerBlock bank c 2
  (coordinate (ws.getD 0 0), coordinate (ws.getD 0 0 >>> 32), coordinate (ws.getD 1 0))

/-- R393: the descriptor of a tex or texq: none when its page is not resident. -/
def State.textureAt (s : State) (v : Viewer) (va : Word) : Except FaultCode (Option Texture) :=
  if va.toNat % 64 != 0 then .error .align
  else
    match s.sceneReader v va.toNat 64 with
    | .bad c => .error c
    | .absent => .ok none
    | .bytes bs =>
      match textureOf bs with
      | none => .error .access
      | some t => .ok (some t)

/-- R393: the destination block of tex. -/
def blockDest (j : Src) : PendDest :=
  match j with
  | .n i => .named i.val
  | .a _ | .k _ => .none

/-- R191, R393: the three registers of tex return together. (DESIGN CHOICE, assumption 39) -/
def State.returnSample (s : State) (f : Nat) (x : Fibre) (j : Src) (vs : List Word) : Issue :=
  .done (s.setFibre f (x.addPend (.value vs 0) (blockDest j) false .ld))

/-- The lines that a sample read. -/
def State.touchSpans (s : State) (v : Viewer) (spans : List (Nat × Nat)) : State := spans.foldl (fun s p => s.sceneTouch v p.1 p.2) s

/-- R391-R393. Where the descriptor is not resident, no rule gives the level used: its byte is free (DESIGN CHOICE, assumption 3). -/
def execTex (j b c : Src) (s : State) : Host.Outcome State Fault Refusal :=
  s.issueWith fun f x =>
    let va := x.read (s.bankOf x) b
    let v : Viewer := { core := x.core, context := x.context, fibre := some (f, x) }
    if x.full .ld then .stall (.counter CountClass.ld.index)
    else
      match s.textureAt v va with
      | .error e => .trap e va 0
      | .ok none =>
        let r := s.freeBytes 1
        r.2.returnSample f x j [0, 0, BitVec.ofNat 64 (3 + 2 ^ 8 * (r.1.headD 0).toNat)]
      | .ok (some t) =>
        let s := s.sceneTouch v va.toNat 64
        let at_ := sampleAt x (s.bankOf x) c
        let levels := t.levelsFor at_.2.2
        let es := t.texels at_.1 at_.2.1 levels
        match s.footprint v (t.spans es) with
        | .bad e a => .trap e (BitVec.ofNat 64 a) 0
        | .whole bss => (s.touchSpans v (t.spans es)).returnSample f x j (t.words es bss 0 ((levels.head?.map (·.1)).getD 0))
        | .missing _ =>
          let last := t.texels at_.1 at_.2.1 [(t.levels - 1, 256)]
          match s.footprint v (t.spans last) with
          | .bad e a => .trap e (BitVec.ofNat 64 a) 0
          | .whole bss => (s.touchSpans v (t.spans last)).returnSample f x j (t.words last bss 1 (t.levels - 1))
          | .missing _ => s.returnSample f x j [0, 0, BitVec.ofNat 64 (2 + 2 ^ 8 * (t.levels - 1))]

/-- R394: the word of texq. -/
def queryResult (t : Texture) (page : Option Nat) (level : Nat) (tail : Bool) : Word :=
  BitVec.ofNat 64
    (((page.getD 0) / 2 ^ 16 % 2 ^ 36) * 2 ^ 24 + (t.levels - 1) * 2 ^ 16 + level * 2 ^ 8 + (if tail then 2 else 0) + (if page.isNone then 1 else 0))

/-- R394. -/
def execTexq (d : Dst) (b c : Src) (s : State) : Host.Outcome State Fault Refusal :=
  s.issueWith fun f x =>
    let va := x.read (s.bankOf x) b
    let v : Viewer := { core := x.core, context := x.context, fibre := some (f, x) }
    if x.full .ld then .stall (.counter CountClass.ld.index)
    else
      match s.textureAt v va with
      | .error e => .trap e va 0
      | .ok none => s.returnValue f x d [4] 0
      | .ok (some t) =>
        let s := s.sceneTouch v va.toNat 64
        let at_ := sampleAt x (s.bankOf x) c
        let levels := t.levelsFor at_.2.2
        let tail := s.footprintPages v (t.spans (t.texels at_.1 at_.2.1 [(t.levels - 1, 256)]))
        let level := (levels.head?.map (·.1)).getD 0
        match s.footprintPages v (t.spans (t.texels at_.1 at_.2.1 levels)), tail with
        | some (.bad e a), _ => .trap e (BitVec.ofNat 64 a) 0
        | some (.missing _), some (.bad e a) => .trap e (BitVec.ofNat 64 a) 0
        | some (.missing page), _ => s.returnValue f x d [queryResult t (some page) level tail.isNone] 0
        | _, _ => s.returnValue f x d [queryResult t none level tail.isNone] 0

end Sys2Proof.Machine
end

