-- ==== Sys2Proof/Machine/Traps.lean ====
section
/-! DEFINITION. The instructions of the trap handler and `brk` (R337-R343). -/

namespace Sys2Proof.Machine

/-- R337: a trap field by its number. -/
def TrapState.field (t : TrapState) (n : Nat) : Word :=
  match n with
  | 0 => t.code.zeroExtend 64
  | 1 => t.unit.zeroExtend 64
  | 2 => t.rep.zeroExtend 64
  | 3 => t.addr
  | _ => t.info

/-- R337: a field written, as its masks say: bits 63..52 and 1..0 of `unit` are forced to zero, bits 63..7 of `rep` are ignored. -/
def TrapState.setField (t : TrapState) (n : Nat) (v : Word) : TrapState :=
  if n = 1 then { t with unit := v.setWidth 52 &&& 0xFFFFFFFFFFFFC#52 } else { t with rep := v.setWidth 7 }

/-- R341; with the in-handler bit clear it is illegal (R340). -/
def execTrapRd (d : Dst) (fld : Fin 64) (s : State) : Host.Outcome State Fault Refusal :=
  s.issueWith fun f x => if x.trap.inHandler then .done (s.setFibre f (x.write d (x.trap.field fld.val))) else .trap .illegal 0 0

/-- R341; with the in-handler bit clear it is illegal (R340). -/
def execTrapWr (fld : Fin 64) (b : Src) (s : State) : Host.Outcome State Fault Refusal :=
  s.issueWith fun f x =>
    if x.trap.inHandler then .done (s.setFibre f { x with trap := x.trap.setField fld.val (x.read (s.bankOf x) b) }) else .trap .illegal 0 0

/-- R341; with the in-handler bit clear it is illegal (R340). -/
def execTrapRet (s : State) : Host.Outcome State Fault Refusal :=
  s.issueWith fun f x => if x.trap.inHandler then .resume (s.setFibre f x.trapReturn) else .trap .illegal 0 0

/-- R343. (DEDUCED, assumption 34) -/
def execBrk (code : Fin 64) (s : State) : Host.Outcome State Fault Refusal := s.issueWith fun _ _ => .trap .break_ 0 (BitVec.ofNat 64 code.val)

end Sys2Proof.Machine
end

