-- ==== Sys2Proof/Machine/Dispatch.lean ====
section
/-! DEFINITION. The one dispatch: an arm per constructor. -/

namespace Sys2Proof.Machine

/-- What an instruction, or a step of the device, does. -/
def exec (i : Instr) (s : State) : Host.Outcome State Fault Refusal :=
  match i with
  | .add x0 x1 x2 x3 => Sys2Proof.Machine.execAdd x0 x1 x2 x3 s
  | .sub x0 x1 x2 x3 => Sys2Proof.Machine.execSub x0 x1 x2 x3 s
  | .mul x0 x1 x2 x3 => Sys2Proof.Machine.execMul x0 x1 x2 x3 s
  | .mulh x0 x1 x2 x3 => Sys2Proof.Machine.execMulh x0 x1 x2 x3 s
  | .div x0 x1 x2 x3 => Sys2Proof.Machine.execDiv x0 x1 x2 x3 s
  | .rem x0 x1 x2 x3 => Sys2Proof.Machine.execRem x0 x1 x2 x3 s
  | .min x0 x1 x2 x3 => Sys2Proof.Machine.execMin x0 x1 x2 x3 s
  | .max x0 x1 x2 x3 => Sys2Proof.Machine.execMax x0 x1 x2 x3 s
  | .neg x0 x1 x2 => Sys2Proof.Machine.execNeg x0 x1 x2 s
  | .abs x0 x1 x2 => Sys2Proof.Machine.execAbs x0 x1 x2 s
  | .and x0 x1 x2 x3 => Sys2Proof.Machine.execAnd x0 x1 x2 x3 s
  | .or x0 x1 x2 x3 => Sys2Proof.Machine.execOr x0 x1 x2 x3 s
  | .xor x0 x1 x2 x3 => Sys2Proof.Machine.execXor x0 x1 x2 x3 s
  | .not x0 x1 x2 => Sys2Proof.Machine.execNot x0 x1 x2 s
  | .shl x0 x1 x2 x3 => Sys2Proof.Machine.execShl x0 x1 x2 x3 s
  | .shr x0 x1 x2 x3 => Sys2Proof.Machine.execShr x0 x1 x2 x3 s
  | .sra x0 x1 x2 x3 => Sys2Proof.Machine.execSra x0 x1 x2 x3 s
  | .ror x0 x1 x2 x3 => Sys2Proof.Machine.execRor x0 x1 x2 x3 s
  | .pcnt x0 x1 x2 => Sys2Proof.Machine.execPcnt x0 x1 x2 s
  | .clz x0 x1 x2 => Sys2Proof.Machine.execClz x0 x1 x2 s
  | .ctz x0 x1 x2 => Sys2Proof.Machine.execCtz x0 x1 x2 s
  | .brev x0 x1 x2 => Sys2Proof.Machine.execBrev x0 x1 x2 s
  | .mad x0 x1 x2 x3 => Sys2Proof.Machine.execMad x0 x1 x2 x3 s
  | .bfx x0 x1 x2 x3 => Sys2Proof.Machine.execBfx x0 x1 x2 x3 s
  | .bfi x0 x1 x2 x3 => Sys2Proof.Machine.execBfi x0 x1 x2 x3 s
  | .mov x0 x1 x2 => Sys2Proof.Machine.execMov x0 x1 x2 s
  | .lea x0 x1 x2 x3 => Sys2Proof.Machine.execLea x0 x1 x2 x3 s
  | .sel x0 x1 x2 x3 x4 x5 => Sys2Proof.Machine.execSel x0 x1 x2 x3 x4 x5 s
  | .setpEq x0 x1 x2 x3 => Sys2Proof.Machine.execSetpEq x0 x1 x2 x3 s
  | .setpLt x0 x1 x2 x3 => Sys2Proof.Machine.execSetpLt x0 x1 x2 x3 s
  | .setpLe x0 x1 x2 x3 => Sys2Proof.Machine.execSetpLe x0 x1 x2 x3 s
  | .setpNe x0 x1 x2 x3 => Sys2Proof.Machine.execSetpNe x0 x1 x2 x3 s
  | .addImm x0 x1 x2 => Sys2Proof.Machine.execAddImm x0 x1 x2 s
  | .andImm x0 x1 x2 => Sys2Proof.Machine.execAndImm x0 x1 x2 s
  | .orImm x0 x1 x2 => Sys2Proof.Machine.execOrImm x0 x1 x2 s
  | .xorImm x0 x1 x2 => Sys2Proof.Machine.execXorImm x0 x1 x2 s
  | .shlImm x0 x1 x2 => Sys2Proof.Machine.execShlImm x0 x1 x2 s
  | .shrImm x0 x1 x2 => Sys2Proof.Machine.execShrImm x0 x1 x2 s
  | .sraImm x0 x1 x2 => Sys2Proof.Machine.execSraImm x0 x1 x2 s
  | .movImm x0 x1 => Sys2Proof.Machine.execMovImm x0 x1 s
  | .fadd x0 x1 x2 x3 => Sys2Proof.Machine.execFadd x0 x1 x2 x3 s
  | .fsub x0 x1 x2 x3 => Sys2Proof.Machine.execFsub x0 x1 x2 x3 s
  | .fmul x0 x1 x2 x3 => Sys2Proof.Machine.execFmul x0 x1 x2 x3 s
  | .fmin x0 x1 x2 x3 => Sys2Proof.Machine.execFmin x0 x1 x2 x3 s
  | .fmax x0 x1 x2 x3 => Sys2Proof.Machine.execFmax x0 x1 x2 x3 s
  | .sfnRcp x0 x1 x2 => Sys2Proof.Machine.execSfnRcp x0 x1 x2 s
  | .sfnRsq x0 x1 x2 => Sys2Proof.Machine.execSfnRsq x0 x1 x2 s
  | .sfnSqrt x0 x1 x2 => Sys2Proof.Machine.execSfnSqrt x0 x1 x2 s
  | .sfnExp2 x0 x1 x2 => Sys2Proof.Machine.execSfnExp2 x0 x1 x2 s
  | .sfnLog2 x0 x1 x2 => Sys2Proof.Machine.execSfnLog2 x0 x1 x2 s
  | .sfnSin x0 x1 x2 => Sys2Proof.Machine.execSfnSin x0 x1 x2 s
  | .sfnCos x0 x1 x2 => Sys2Proof.Machine.execSfnCos x0 x1 x2 s
  | .sfnTanh x0 x1 x2 => Sys2Proof.Machine.execSfnTanh x0 x1 x2 s
  | .fcvt x0 x1 x2 x3 => Sys2Proof.Machine.execFcvt x0 x1 x2 x3 s
  | .fsetpEq x0 x1 x2 x3 => Sys2Proof.Machine.execFsetpEq x0 x1 x2 x3 s
  | .fsetpLt x0 x1 x2 x3 => Sys2Proof.Machine.execFsetpLt x0 x1 x2 x3 s
  | .fsetpLe x0 x1 x2 x3 => Sys2Proof.Machine.execFsetpLe x0 x1 x2 x3 s
  | .fsetpUn x0 x1 x2 x3 => Sys2Proof.Machine.execFsetpUn x0 x1 x2 x3 s
  | .ffma x0 x1 x2 x3 x4 => Sys2Proof.Machine.execFfma x0 x1 x2 x3 x4 s
  | .bra x0 => Sys2Proof.Machine.execBra x0 s
  | .brp x0 x1 x2 => Sys2Proof.Machine.execBrp x0 x1 x2 s
  | .call x0 => Sys2Proof.Machine.execCall x0 s
  | .jmpi x0 => Sys2Proof.Machine.execJmpi x0 s
  | .calli x0 => Sys2Proof.Machine.execCalli x0 s
  | .ret x0 => Sys2Proof.Machine.execRet x0 s
  | .exit => Sys2Proof.Machine.execExit s
  | .nop => Sys2Proof.Machine.execNop s
  | .pset x0 x1 => Sys2Proof.Machine.execPset x0 x1 s
  | .pushmN x0 => Sys2Proof.Machine.execPushmN x0 s
  | .pushmV x0 => Sys2Proof.Machine.execPushmV x0 s
  | .pushmM x0 => Sys2Proof.Machine.execPushmM x0 s
  | .popmN x0 => Sys2Proof.Machine.execPopmN x0 s
  | .popmV x0 => Sys2Proof.Machine.execPopmV x0 s
  | .popmM x0 => Sys2Proof.Machine.execPopmM x0 s
  | .getsv x0 x1 => Sys2Proof.Machine.execGetsv x0 x1 s
  | .setsv x0 x1 => Sys2Proof.Machine.execSetsv x0 x1 s
  | .wideImmediateHint x0 => Sys2Proof.Machine.execWideImmediateHint x0 s
  | .repeatPrefix x0 x1 x2 x3 x4 => Sys2Proof.Machine.execRepeatPrefix x0 x1 x2 x3 x4 s
  | .hintNone => Sys2Proof.Machine.execHintNone s
  | .hintYield => Sys2Proof.Machine.execHintYield s
  | .hintJoin => Sys2Proof.Machine.execHintJoin s
  | .hintLong => Sys2Proof.Machine.execHintLong s
  | .rareModifierHint x0 x1 x2 x3 => Sys2Proof.Machine.execRareModifierHint x0 x1 x2 x3 s
  | .repetition x0 => Sys2Proof.Machine.execRepetition x0 s
  | .vadd x0 x1 x2 x3 x4 x5 => Sys2Proof.Machine.execVadd x0 x1 x2 x3 x4 x5 s
  | .vsub x0 x1 x2 x3 x4 x5 => Sys2Proof.Machine.execVsub x0 x1 x2 x3 x4 x5 s
  | .vmul x0 x1 x2 x3 x4 x5 => Sys2Proof.Machine.execVmul x0 x1 x2 x3 x4 x5 s
  | .vdiv x0 x1 x2 x3 x4 x5 => Sys2Proof.Machine.execVdiv x0 x1 x2 x3 x4 x5 s
  | .vmin x0 x1 x2 x3 x4 x5 => Sys2Proof.Machine.execVmin x0 x1 x2 x3 x4 x5 s
  | .vmax x0 x1 x2 x3 x4 x5 => Sys2Proof.Machine.execVmax x0 x1 x2 x3 x4 x5 s
  | .vabs x0 x1 x2 x3 x4 => Sys2Proof.Machine.execVabs x0 x1 x2 x3 x4 s
  | .vneg x0 x1 x2 x3 x4 => Sys2Proof.Machine.execVneg x0 x1 x2 x3 x4 s
  | .vfma x0 x1 x2 x3 x4 x5 => Sys2Proof.Machine.execVfma x0 x1 x2 x3 x4 x5 s
  | .vand x0 x1 x2 x3 x4 x5 => Sys2Proof.Machine.execVand x0 x1 x2 x3 x4 x5 s
  | .vor x0 x1 x2 x3 x4 x5 => Sys2Proof.Machine.execVor x0 x1 x2 x3 x4 x5 s
  | .vxor x0 x1 x2 x3 x4 x5 => Sys2Proof.Machine.execVxor x0 x1 x2 x3 x4 x5 s
  | .vshl x0 x1 x2 x3 x4 x5 => Sys2Proof.Machine.execVshl x0 x1 x2 x3 x4 x5 s
  | .vshr x0 x1 x2 x3 x4 x5 => Sys2Proof.Machine.execVshr x0 x1 x2 x3 x4 x5 s
  | .vsra x0 x1 x2 x3 x4 x5 => Sys2Proof.Machine.execVsra x0 x1 x2 x3 x4 x5 s
  | .vcmpEq x0 x1 x2 x3 x4 x5 => Sys2Proof.Machine.execVcmpEq x0 x1 x2 x3 x4 x5 s
  | .vcmpNe x0 x1 x2 x3 x4 x5 => Sys2Proof.Machine.execVcmpNe x0 x1 x2 x3 x4 x5 s
  | .vcmpLt x0 x1 x2 x3 x4 x5 => Sys2Proof.Machine.execVcmpLt x0 x1 x2 x3 x4 x5 s
  | .vcmpLe x0 x1 x2 x3 x4 x5 => Sys2Proof.Machine.execVcmpLe x0 x1 x2 x3 x4 x5 s
  | .vcmpUn x0 x1 x2 x3 x4 x5 => Sys2Proof.Machine.execVcmpUn x0 x1 x2 x3 x4 x5 s
  | .vsel x0 x1 x2 x3 x4 => Sys2Proof.Machine.execVsel x0 x1 x2 x3 x4 s
  | .vmov x0 x1 x2 x3 => Sys2Proof.Machine.execVmov x0 x1 x2 x3 s
  | .vcoal x0 x1 => Sys2Proof.Machine.execVcoal x0 x1 s
  | .vcvt x0 x1 x2 x3 x4 x5 x6 x7 => Sys2Proof.Machine.execVcvt x0 x1 x2 x3 x4 x5 x6 x7 s
  | .vcvtSx x0 x1 x2 x3 x4 x5 x6 x7 => Sys2Proof.Machine.execVcvtSx x0 x1 x2 x3 x4 x5 x6 x7 s
  | .vsfnRcp x0 x1 x2 x3 => Sys2Proof.Machine.execVsfnRcp x0 x1 x2 x3 s
  | .vsfnRsq x0 x1 x2 x3 => Sys2Proof.Machine.execVsfnRsq x0 x1 x2 x3 s
  | .vsfnSqrt x0 x1 x2 x3 => Sys2Proof.Machine.execVsfnSqrt x0 x1 x2 x3 s
  | .vsfnExp2 x0 x1 x2 x3 => Sys2Proof.Machine.execVsfnExp2 x0 x1 x2 x3 s
  | .vsfnLog2 x0 x1 x2 x3 => Sys2Proof.Machine.execVsfnLog2 x0 x1 x2 x3 s
  | .vsfnSin x0 x1 x2 x3 => Sys2Proof.Machine.execVsfnSin x0 x1 x2 x3 s
  | .vsfnCos x0 x1 x2 x3 => Sys2Proof.Machine.execVsfnCos x0 x1 x2 x3 s
  | .vsfnTanh x0 x1 x2 x3 => Sys2Proof.Machine.execVsfnTanh x0 x1 x2 x3 s
  | .mand x0 x1 x2 x3 x4 => Sys2Proof.Machine.execMand x0 x1 x2 x3 x4 s
  | .mor x0 x1 x2 x3 x4 => Sys2Proof.Machine.execMor x0 x1 x2 x3 x4 s
  | .mxor x0 x1 x2 x3 x4 => Sys2Proof.Machine.execMxor x0 x1 x2 x3 x4 s
  | .mnot x0 x1 x2 x3 => Sys2Proof.Machine.execMnot x0 x1 x2 x3 s
  | .vaddS x0 x1 x2 x3 x4 => Sys2Proof.Machine.execVaddS x0 x1 x2 x3 x4 s
  | .vsubS x0 x1 x2 x3 x4 => Sys2Proof.Machine.execVsubS x0 x1 x2 x3 x4 s
  | .vmulS x0 x1 x2 x3 x4 => Sys2Proof.Machine.execVmulS x0 x1 x2 x3 x4 s
  | .vdivS x0 x1 x2 x3 x4 => Sys2Proof.Machine.execVdivS x0 x1 x2 x3 x4 s
  | .vminS x0 x1 x2 x3 x4 => Sys2Proof.Machine.execVminS x0 x1 x2 x3 x4 s
  | .vmaxS x0 x1 x2 x3 x4 => Sys2Proof.Machine.execVmaxS x0 x1 x2 x3 x4 s
  | .vfmaS x0 x1 x2 x3 x4 => Sys2Proof.Machine.execVfmaS x0 x1 x2 x3 x4 s
  | .vandS x0 x1 x2 x3 x4 => Sys2Proof.Machine.execVandS x0 x1 x2 x3 x4 s
  | .vorS x0 x1 x2 x3 x4 => Sys2Proof.Machine.execVorS x0 x1 x2 x3 x4 s
  | .vxorS x0 x1 x2 x3 x4 => Sys2Proof.Machine.execVxorS x0 x1 x2 x3 x4 s
  | .vshlS x0 x1 x2 x3 x4 => Sys2Proof.Machine.execVshlS x0 x1 x2 x3 x4 s
  | .vshrS x0 x1 x2 x3 x4 => Sys2Proof.Machine.execVshrS x0 x1 x2 x3 x4 s
  | .vsraS x0 x1 x2 x3 x4 => Sys2Proof.Machine.execVsraS x0 x1 x2 x3 x4 s
  | .vlen x0 x1 => Sys2Proof.Machine.execVlen x0 x1 s
  | .vruns x0 x1 => Sys2Proof.Machine.execVruns x0 x1 s
  | .mpop x0 x1 => Sys2Proof.Machine.execMpop x0 x1 s
  | .mfirst x0 x1 => Sys2Proof.Machine.execMfirst x0 x1 s
  | .vidx x0 x1 x2 x3 => Sys2Proof.Machine.execVidx x0 x1 x2 x3 s
  | .vsplat x0 x1 x2 x3 x4 => Sys2Proof.Machine.execVsplat x0 x1 x2 x3 x4 s
  | .vsetl x0 x1 => Sys2Proof.Machine.execVsetl x0 x1 s
  | .vilv2 x0 x1 x2 => Sys2Proof.Machine.execVilv2 x0 x1 x2 s
  | .vilv3 x0 x1 x2 => Sys2Proof.Machine.execVilv3 x0 x1 x2 s
  | .vilv4 x0 x1 x2 => Sys2Proof.Machine.execVilv4 x0 x1 x2 s
  | .vdilv2 x0 x1 x2 => Sys2Proof.Machine.execVdilv2 x0 x1 x2 s
  | .vdilv3 x0 x1 x2 => Sys2Proof.Machine.execVdilv3 x0 x1 x2 s
  | .vdilv4 x0 x1 x2 => Sys2Proof.Machine.execVdilv4 x0 x1 x2 s
  | .vperm x0 x1 x2 x3 x4 => Sys2Proof.Machine.execVperm x0 x1 x2 x3 x4 s
  | .vrev x0 x1 x2 x3 => Sys2Proof.Machine.execVrev x0 x1 x2 x3 s
  | .vsort x0 x1 x2 x3 => Sys2Proof.Machine.execVsort x0 x1 x2 x3 s
  | .vtopk x0 x1 x2 x3 => Sys2Proof.Machine.execVtopk x0 x1 x2 x3 s
  | .vtopkI x0 x1 x2 => Sys2Proof.Machine.execVtopkI x0 x1 x2 s
  | .vredAdd x0 x1 x2 x3 => Sys2Proof.Machine.execVredAdd x0 x1 x2 x3 s
  | .vredMin x0 x1 x2 x3 => Sys2Proof.Machine.execVredMin x0 x1 x2 x3 s
  | .vredMax x0 x1 x2 x3 => Sys2Proof.Machine.execVredMax x0 x1 x2 x3 s
  | .vredAnd x0 x1 x2 x3 => Sys2Proof.Machine.execVredAnd x0 x1 x2 x3 s
  | .vredOr x0 x1 x2 x3 => Sys2Proof.Machine.execVredOr x0 x1 x2 x3 s
  | .vredXor x0 x1 x2 x3 => Sys2Proof.Machine.execVredXor x0 x1 x2 x3 s
  | .vscanAdd x0 x1 x2 x3 x4 => Sys2Proof.Machine.execVscanAdd x0 x1 x2 x3 x4 s
  | .vscanMin x0 x1 x2 x3 x4 => Sys2Proof.Machine.execVscanMin x0 x1 x2 x3 x4 s
  | .vscanMax x0 x1 x2 x3 x4 => Sys2Proof.Machine.execVscanMax x0 x1 x2 x3 x4 s
  | .vscanAnd x0 x1 x2 x3 x4 => Sys2Proof.Machine.execVscanAnd x0 x1 x2 x3 x4 s
  | .vscanOr x0 x1 x2 x3 x4 => Sys2Proof.Machine.execVscanOr x0 x1 x2 x3 x4 s
  | .vscanXor x0 x1 x2 x3 x4 => Sys2Proof.Machine.execVscanXor x0 x1 x2 x3 x4 s
  | .shflIdx x0 x1 x2 x3 => Sys2Proof.Machine.execShflIdx x0 x1 x2 x3 s
  | .shflUp x0 x1 x2 x3 => Sys2Proof.Machine.execShflUp x0 x1 x2 x3 s
  | .shflDown x0 x1 x2 x3 => Sys2Proof.Machine.execShflDown x0 x1 x2 x3 s
  | .shflXor x0 x1 x2 x3 => Sys2Proof.Machine.execShflXor x0 x1 x2 x3 s
  | .voteAny x0 x1 x2 x3 => Sys2Proof.Machine.execVoteAny x0 x1 x2 x3 s
  | .voteAll x0 x1 x2 x3 => Sys2Proof.Machine.execVoteAll x0 x1 x2 x3 s
  | .voteBallot x0 x1 x2 x3 => Sys2Proof.Machine.execVoteBallot x0 x1 x2 x3 s
  | .xredAdd x0 x1 x2 x3 => Sys2Proof.Machine.execXredAdd x0 x1 x2 x3 s
  | .xredMin x0 x1 x2 x3 => Sys2Proof.Machine.execXredMin x0 x1 x2 x3 s
  | .xredMax x0 x1 x2 x3 => Sys2Proof.Machine.execXredMax x0 x1 x2 x3 s
  | .xredAnd x0 x1 x2 x3 => Sys2Proof.Machine.execXredAnd x0 x1 x2 x3 s
  | .xredOr x0 x1 x2 x3 => Sys2Proof.Machine.execXredOr x0 x1 x2 x3 s
  | .xredXor x0 x1 x2 x3 => Sys2Proof.Machine.execXredXor x0 x1 x2 x3 s
  | .vslideUp x0 x1 x2 x3 => Sys2Proof.Machine.execVslideUp x0 x1 x2 x3 s
  | .vslideDown x0 x1 x2 x3 => Sys2Proof.Machine.execVslideDown x0 x1 x2 x3 s
  | .vext x0 x1 => Sys2Proof.Machine.execVext x0 x1 s
  | .vins x0 x1 x2 => Sys2Proof.Machine.execVins x0 x1 x2 s
  | .qbind x0 x1 => Sys2Proof.Machine.execQbind x0 x1 s
  | .qfree x0 => Sys2Proof.Machine.execQfree x0 s
  | .queueReadAhead x0 x1 => Sys2Proof.Machine.execQueueReadAhead x0 x1 s
  | .ld x0 x1 x2 x3 => Sys2Proof.Machine.execLd x0 x1 x2 x3 s
  | .st x0 x1 x2 x3 => Sys2Proof.Machine.execSt x0 x1 x2 x3 s
  | .vld x0 x1 x2 x3 x4 => Sys2Proof.Machine.execVld x0 x1 x2 x3 x4 s
  | .vldg x0 x1 x2 x3 x4 x5 => Sys2Proof.Machine.execVldg x0 x1 x2 x3 x4 x5 s
  | .vst x0 x1 x2 x3 x4 => Sys2Proof.Machine.execVst x0 x1 x2 x3 x4 s
  | .vstg x0 x1 x2 x3 x4 x5 => Sys2Proof.Machine.execVstg x0 x1 x2 x3 x4 x5 s
  | .ldq x0 x1 x2 x3 x4 => Sys2Proof.Machine.execLdq x0 x1 x2 x3 x4 s
  | .stq x0 x1 x2 x3 x4 x5 => Sys2Proof.Machine.execStq x0 x1 x2 x3 x4 x5 s
  | .ldt x0 x1 x2 x3 => Sys2Proof.Machine.execLdt x0 x1 x2 x3 s
  | .pref x0 x1 => Sys2Proof.Machine.execPref x0 x1 s
  | .pfence => Sys2Proof.Machine.execPfence s
  | .pfenceDie => Sys2Proof.Machine.execPfenceDie s
  | .loadDataReturn x0 x1 => Sys2Proof.Machine.execLoadDataReturn x0 x1 s
  | .storeAccept x0 x1 => Sys2Proof.Machine.execStoreAccept x0 x1 s
  | .reconciliation x0 => Sys2Proof.Machine.execReconciliation x0 s
  | .compressedTileWrite x0 x1 => Sys2Proof.Machine.execCompressedTileWrite x0 x1 s
  | .spawn x0 x1 => Sys2Proof.Machine.execSpawn x0 x1 s
  | .await => Sys2Proof.Machine.execAwait s
  | .awaitStay => Sys2Proof.Machine.execAwaitStay s
  | .atomAdd x0 x1 x2 x3 => Sys2Proof.Machine.execAtomAdd x0 x1 x2 x3 s
  | .atomMin x0 x1 x2 x3 => Sys2Proof.Machine.execAtomMin x0 x1 x2 x3 s
  | .atomMax x0 x1 x2 x3 => Sys2Proof.Machine.execAtomMax x0 x1 x2 x3 s
  | .atomAnd x0 x1 x2 x3 => Sys2Proof.Machine.execAtomAnd x0 x1 x2 x3 s
  | .atomOr x0 x1 x2 x3 => Sys2Proof.Machine.execAtomOr x0 x1 x2 x3 s
  | .atomXor x0 x1 x2 x3 => Sys2Proof.Machine.execAtomXor x0 x1 x2 x3 s
  | .atomExch x0 x1 x2 x3 => Sys2Proof.Machine.execAtomExch x0 x1 x2 x3 s
  | .atomCas x0 x1 x2 x3 => Sys2Proof.Machine.execAtomCas x0 x1 x2 x3 s
  | .aredAdd x0 x1 x2 => Sys2Proof.Machine.execAredAdd x0 x1 x2 s
  | .aredMin x0 x1 x2 => Sys2Proof.Machine.execAredMin x0 x1 x2 s
  | .aredMax x0 x1 x2 => Sys2Proof.Machine.execAredMax x0 x1 x2 s
  | .aredAnd x0 x1 x2 => Sys2Proof.Machine.execAredAnd x0 x1 x2 s
  | .aredOr x0 x1 x2 => Sys2Proof.Machine.execAredOr x0 x1 x2 s
  | .atomwLd x0 x1 => Sys2Proof.Machine.execAtomwLd x0 x1 s
  | .atomwExch x0 x1 x2 => Sys2Proof.Machine.execAtomwExch x0 x1 x2 s
  | .atomwCas x0 x1 x2 => Sys2Proof.Machine.execAtomwCas x0 x1 x2 s
  | .elect x0 x1 x2 x3 => Sys2Proof.Machine.execElect x0 x1 x2 x3 s
  | .kst x0 x1 => Sys2Proof.Machine.execKst x0 x1 s
  | .kstTakeEffect x0 => Sys2Proof.Machine.execKstTakeEffect x0 s
  | .bar x0 => Sys2Proof.Machine.execBar x0 s
  | .barm x0 => Sys2Proof.Machine.execBarm x0 s
  | .swinit x0 x1 => Sys2Proof.Machine.execSwinit x0 x1 s
  | .swadd x0 x1 => Sys2Proof.Machine.execSwadd x0 x1 s
  | .swwait x0 x1 x2 => Sys2Proof.Machine.execSwwait x0 x1 x2 s
  | .swwaitPoll x0 => Sys2Proof.Machine.execSwwaitPoll x0 s
  | .kick x0 x1 x2 => Sys2Proof.Machine.execKick x0 x1 x2 s
  | .wait x0 x1 x2 => Sys2Proof.Machine.execWait x0 x1 x2 s
  | .waitMxRy x0 x1 => Sys2Proof.Machine.execWaitMxRy x0 x1 s
  | .gset x0 x1 => Sys2Proof.Machine.execGset x0 x1 s
  | .gsetOpen x0 => Sys2Proof.Machine.execGsetOpen x0 s
  | .gsetTakeEffect x0 => Sys2Proof.Machine.execGsetTakeEffect x0 s
  | .copyCommandStart x0 => Sys2Proof.Machine.execCopyCommandStart x0 s
  | .copyRecordComplete x0 => Sys2Proof.Machine.execCopyRecordComplete x0 s
  | .mma x0 x1 x2 x3 => Sys2Proof.Machine.execMma x0 x1 x2 x3 s
  | .mzero x0 x1 => Sys2Proof.Machine.execMzero x0 x1 s
  | .mld x0 x1 x2 x3 => Sys2Proof.Machine.execMld x0 x1 x2 x3 s
  | .mst x0 x1 x2 x3 => Sys2Proof.Machine.execMst x0 x1 x2 x3 s
  | .mqnt x0 x1 x2 x3 => Sys2Proof.Machine.execMqnt x0 x1 x2 x3 s
  | .mew x0 x1 x2 => Sys2Proof.Machine.execMew x0 x1 x2 s
  | .mrdy => Sys2Proof.Machine.execMrdy s
  | .mwait x0 => Sys2Proof.Machine.execMwait x0 s
  | .matrixCommandStart x0 => Sys2Proof.Machine.execMatrixCommandStart x0 s
  | .matrixStepEnd x0 => Sys2Proof.Machine.execMatrixStepEnd x0 s
  | .matrixResume x0 => Sys2Proof.Machine.execMatrixResume x0 s
  | .matrixSelfTest x0 x1 x2 => Sys2Proof.Machine.execMatrixSelfTest x0 x1 x2 s
  | .trace x0 x1 => Sys2Proof.Machine.execTrace x0 x1 s
  | .traceR x0 x1 => Sys2Proof.Machine.execTraceR x0 x1 s
  | .tracea x0 x1 => Sys2Proof.Machine.execTracea x0 x1 s
  | .traceaR x0 x1 => Sys2Proof.Machine.execTraceaR x0 x1 s
  | .hitld x0 x1 x2 => Sys2Proof.Machine.execHitld x0 x1 x2 s
  | .lwalk x0 x1 x2 => Sys2Proof.Machine.execLwalk x0 x1 x2 s
  | .tex x0 x1 x2 => Sys2Proof.Machine.execTex x0 x1 x2 s
  | .texq x0 x1 x2 => Sys2Proof.Machine.execTexq x0 x1 x2 s
  | .rayComplete x0 x1 => Sys2Proof.Machine.execRayComplete x0 x1 s
  | .rngkey x0 x1 => Sys2Proof.Machine.execRngkey x0 x1 s
  | .rngset x0 x1 => Sys2Proof.Machine.execRngset x0 x1 s
  | .rng x0 => Sys2Proof.Machine.execRng x0 s
  | .rngV x0 x1 => Sys2Proof.Machine.execRngV x0 x1 s
  | .rsinit x0 x1 => Sys2Proof.Machine.execRsinit x0 x1 s
  | .rsadd x0 x1 x2 => Sys2Proof.Machine.execRsadd x0 x1 x2 s
  | .rsmerge x0 x1 x2 => Sys2Proof.Machine.execRsmerge x0 x1 x2 s
  | .rsnorm x0 => Sys2Proof.Machine.execRsnorm x0 s
  | .rsld x0 x1 => Sys2Proof.Machine.execRsld x0 x1 s
  | .rsst x0 x1 => Sys2Proof.Machine.execRsst x0 x1 s
  | .reuse x0 => Sys2Proof.Machine.execReuse x0 s
  | .tcall x0 x1 x2 => Sys2Proof.Machine.execTcall x0 x1 x2 s
  | .tret x0 => Sys2Proof.Machine.execTret x0 s
  | .haloExchangeComplete x0 => Sys2Proof.Machine.execHaloExchangeComplete x0 s
  | .reuseTileStart x0 x1 => Sys2Proof.Machine.execReuseTileStart x0 x1 s
  | .reuseTileRetire x0 x1 => Sys2Proof.Machine.execReuseTileRetire x0 x1 s
  | .launch x0 x1 => Sys2Proof.Machine.execLaunch x0 x1 s
  | .shape x0 x1 => Sys2Proof.Machine.execShape x0 x1 s
  | .xalloc x0 x1 x2 => Sys2Proof.Machine.execXalloc x0 x1 x2 s
  | .xfree x0 => Sys2Proof.Machine.execXfree x0 s
  | .trapRd x0 x1 => Sys2Proof.Machine.execTrapRd x0 x1 s
  | .trapWr x0 x1 => Sys2Proof.Machine.execTrapWr x0 x1 s
  | .trapRet => Sys2Proof.Machine.execTrapRet s
  | .sys x0 x1 x2 => Sys2Proof.Machine.execSys x0 x1 x2 s
  | .brk x0 => Sys2Proof.Machine.execBrk x0 s
  | .pinval x0 x1 => Sys2Proof.Machine.execPinval x0 x1 s
  | .metaz x0 x1 => Sys2Proof.Machine.execMetaz x0 x1 s
  | .decomp x0 x1 => Sys2Proof.Machine.execDecomp x0 x1 s
  | .pquery x0 x1 => Sys2Proof.Machine.execPquery x0 x1 s
  | .bxsum x0 => Sys2Proof.Machine.execBxsum x0 s
  | .markOpen x0 x1 => Sys2Proof.Machine.execMarkOpen x0 x1 s
  | .markClose => Sys2Proof.Machine.execMarkClose s
  | .markTrace x0 => Sys2Proof.Machine.execMarkTrace x0 s
  | .convoyForming x0 => Sys2Proof.Machine.execConvoyForming x0 s
  | .convoyPass x0 x1 => Sys2Proof.Machine.execConvoyPass x0 x1 s
  | .convoyAgePromotion x0 x1 => Sys2Proof.Machine.execConvoyAgePromotion x0 x1 s
  | .requestAgePromotion x0 => Sys2Proof.Machine.execRequestAgePromotion x0 s
  | .stallClear x0 => Sys2Proof.Machine.execStallClear x0 s
  | .fibreGone x0 => Sys2Proof.Machine.execFibreGone x0 s
  | .groupPlacement x0 => Sys2Proof.Machine.execGroupPlacement x0 s
  | .prologueBinding x0 => Sys2Proof.Machine.execPrologueBinding x0 s
  | .prologueComplete x0 => Sys2Proof.Machine.execPrologueComplete x0 s
  | .taskStart x0 => Sys2Proof.Machine.execTaskStart x0 s
  | .recordSteal x0 x1 => Sys2Proof.Machine.execRecordSteal x0 x1 s
  | .parkedFibreSave x0 => Sys2Proof.Machine.execParkedFibreSave x0 s
  | .localBoundaryStep x0 x1 => Sys2Proof.Machine.execLocalBoundaryStep x0 x1 s
  | .stuckGroupFault x0 => Sys2Proof.Machine.execStuckGroupFault x0 s
  | .jointLaunch x0 => Sys2Proof.Machine.execJointLaunch x0 s
  | .writeThenSignal x0 => Sys2Proof.Machine.execWriteThenSignal x0 s
  | .signalStep x0 => Sys2Proof.Machine.execSignalStep x0 s
  | .waitOnValue x0 => Sys2Proof.Machine.execWaitOnValue x0 s
  | .waitValuePoll x0 => Sys2Proof.Machine.execWaitValuePoll x0 s
  | .timestamp x0 => Sys2Proof.Machine.execTimestamp x0 s
  | .traceOpen x0 => Sys2Proof.Machine.execTraceOpen x0 s
  | .traceClose x0 => Sys2Proof.Machine.execTraceClose x0 s
  | .traceFlush x0 => Sys2Proof.Machine.execTraceFlush x0 s
  | .queueResetPacket x0 => Sys2Proof.Machine.execQueueResetPacket x0 s
  | .marker x0 => Sys2Proof.Machine.execMarker x0 s
  | .doorbellPoll x0 => Sys2Proof.Machine.execDoorbellPoll x0 s
  | .eventWrite x0 => Sys2Proof.Machine.execEventWrite x0 s
  | .eventAckPoll x0 => Sys2Proof.Machine.execEventAckPoll x0 s
  | .sliceEnd x0 => Sys2Proof.Machine.execSliceEnd x0 s
  | .contextSaved x0 => Sys2Proof.Machine.execContextSaved x0 s
  | .contextSchedule x0 => Sys2Proof.Machine.execContextSchedule x0 s
  | .dumpComplete x0 => Sys2Proof.Machine.execDumpComplete x0 s
  | .createContext x0 => Sys2Proof.Machine.execCreateContext x0 s
  | .destroyContext x0 => Sys2Proof.Machine.execDestroyContext x0 s
  | .createQueue x0 => Sys2Proof.Machine.execCreateQueue x0 s
  | .destroyQueue x0 => Sys2Proof.Machine.execDestroyQueue x0 s
  | .resetQueue x0 => Sys2Proof.Machine.execResetQueue x0 s
  | .setSlice x0 => Sys2Proof.Machine.execSetSlice x0 s
  | .serviceReply x0 => Sys2Proof.Machine.execServiceReply x0 s
  | .dumpRequest x0 => Sys2Proof.Machine.execDumpRequest x0 s
  | .readCapabilityList x0 => Sys2Proof.Machine.execReadCapabilityList x0 s
  | .attestationReport x0 => Sys2Proof.Machine.execAttestationReport x0 s
  | .mailboxUnknownCode x0 => Sys2Proof.Machine.execMailboxUnknownCode x0 s
  | .pageMigration x0 x1 x2 x3 => Sys2Proof.Machine.execPageMigration x0 x1 x2 x3 s
  | .rdmaWrite x0 x1 x2 x3 => Sys2Proof.Machine.execRdmaWrite x0 x1 x2 x3 s
  | .rdmaRead x0 x1 x2 x3 => Sys2Proof.Machine.execRdmaRead x0 x1 x2 x3 s
  | .rdmaFetchAdd x0 x1 x2 x3 => Sys2Proof.Machine.execRdmaFetchAdd x0 x1 x2 x3 s
  | .rdmaCmpSwap x0 x1 x2 x3 x4 => Sys2Proof.Machine.execRdmaCmpSwap x0 x1 x2 x3 x4 s
  | .rdmaUnsupported x0 => Sys2Proof.Machine.execRdmaUnsupported x0 s
  | .linkControlWrite x0 => Sys2Proof.Machine.execLinkControlWrite x0 s
  | .linkEnable x0 => Sys2Proof.Machine.execLinkEnable x0 s
  | .linkTrainingComplete x0 => Sys2Proof.Machine.execLinkTrainingComplete x0 s
  | .linkTrainingFail x0 => Sys2Proof.Machine.execLinkTrainingFail x0 s
  | .laneFailure x0 => Sys2Proof.Machine.execLaneFailure x0 s
  | .linkRetrainComplete x0 => Sys2Proof.Machine.execLinkRetrainComplete x0 s
  | .linkUnitLost x0 => Sys2Proof.Machine.execLinkUnitLost x0 s
  | .remoteAccessRequest x0 x1 x2 => Sys2Proof.Machine.execRemoteAccessRequest x0 x1 x2 s
  | .pathDownTimeout x0 => Sys2Proof.Machine.execPathDownTimeout x0 s
  | .flushMarker x0 => Sys2Proof.Machine.execFlushMarker x0 s
  | .flushAck x0 x1 => Sys2Proof.Machine.execFlushAck x0 x1 s
  | .collectiveTraffic x0 x1 => Sys2Proof.Machine.execCollectiveTraffic x0 x1 s
  | .collectiveTimeout x0 => Sys2Proof.Machine.execCollectiveTimeout x0 s
  | .waymarkRetire x0 => Sys2Proof.Machine.execWaymarkRetire x0 s
  | .traceSample x0 x1 => Sys2Proof.Machine.execTraceSample x0 x1 s
  | .debugStop x0 => Sys2Proof.Machine.execDebugStop x0 s
  | .debugResume x0 => Sys2Proof.Machine.execDebugResume x0 s
  | .stepByTrap x0 => Sys2Proof.Machine.execStepByTrap x0 s
  | .stepByStop x0 => Sys2Proof.Machine.execStepByStop x0 s
  | .stepOff x0 => Sys2Proof.Machine.execStepOff x0 s
  | .debugDump x0 => Sys2Proof.Machine.execDebugDump x0 s
  | .stopComplete x0 => Sys2Proof.Machine.execStopComplete x0 s
  | .packageReset => Sys2Proof.Machine.execPackageReset s
  | .bootStepComplete x0 => Sys2Proof.Machine.execBootStepComplete x0 s
  | .junctionLimit x0 => Sys2Proof.Machine.execJunctionLimit x0 s
  | .eccError x0 x1 => Sys2Proof.Machine.execEccError x0 x1 s
  | .targetedSelfTestDone x0 x1 => Sys2Proof.Machine.execTargetedSelfTestDone x0 x1 s
  | .illegalEncoding => Sys2Proof.Machine.execIllegalEncoding s

end Sys2Proof.Machine
end

