-- ==== Sys2Proof/Machine/Step.lean ====
section
/-! DEFINITION. One step of the machine: a member of the pass in progress takes the word at its pc (R52, R84); between passes the next happening of the
schedule takes place (DESIGN CHOICE, assumption 2). -/

namespace Sys2Proof.Machine

/-- R51: an instruction word's bytes, little-endian, at an address. -/
def Memory.placeWord (m : Memory) (a : Nat) (w : Nat) : Memory := m.writeNat a 4 w

/-- The keys that `State.withFetchWord` uses: the place of the word, and the tables that map it (R345, R346). -/
def benchAddress : Nat := 0x10000

/-- R346: a context whose lowest 16 GiB lie at offset 0 of the capacity tier, at equal addresses. -/
def benchContext : Context :=
  { desc := { bytes := [], ptroot := 0x1101, tvec := 0x20000, frameBase := 0x1000000, frameSize := 0x100000, sliceMicros := 1000, saveBase := 0x2000000,
              saveSize := 0x100000, reservoirMib := 1, specMib := 1, heapBase := 0, heapSize := 0, breakToDebugger := false, errorBase := 0x3000000,
              errorSize := 0x10000, dumpBase := 0x4000000, dumpSize := 0x100000 },
    state := .running, bound := true, events := { base := 0x5000000, size := 8, ack := 0x5100000 } }

/-- R293: a kernel of one fibre. -/
def benchKernel : Kernel :=
  { entry := BitVec.ofNat 52 benchAddress, gx := 1, gy := 1, gz := 1, quota := 256, window := 32, smin := 1, smax := 1, coresident := false, ordered := false,
    stack := 4096, tbl := 0, pmode := 0, pstate := 0 }

/-- R294: its grid of one group. -/
def benchLaunch : Launch :=
  { context := 0, slot := 0, kernel := benchKernel, bindings := [],
    record := { desc := 0, x := 1, y := 1, z := 1, units := 1, predicted := false, key := 0, zmin := 0, zmax := 0, budget := 0, m0 := 0, width := 0, events := 0,
                cell := 0, done := 0, k := Vector.replicate 16 0 },
    z := 1, predictedZ := 1, resolved := true, cls := 0, depth := 0, queue := 0, packet := 0, tag := 0, counter := 1, order := 0 }

/-- R233: the group, Running on core 0. -/
def benchGroup : Group :=
  { launch := 0, context := 0, linear := 0, gx := 0, gy := 0, gz := 0, die := 0, state := .running, cls := 0, bank := Vector.replicate 16 0, grant := 65536,
    barriers := Vector.replicate 16 {}, guards := Vector.replicate 16 .open_, units := 1 }

/-- R78: the fibre, at dispatch, its first unit the word placed. -/
def benchFibre : Fibre :=
  { placedFibre 0 0 0 0 0 benchLaunch 0 false [] (Vector.replicate 16 0) with life := .ready }

/-- R199: its record. -/
def benchFrame : Frame :=
  { context := 0, slot := 1, pc := BitVec.ofNat 52 benchAddress, parent := none, launch := 0, fid := 0, state := .running, cls := 0, depth := 0, core := 0, linear := 0,
    bank := Vector.replicate 16 0, group := some 0 }

/-- The state with an instruction word stored where the next step fetches it: booted, with one running fibre whose pass is in progress (DESIGN CHOICE, assumption 2). -/
def State.withFetchWord (s : State) (nbits w : Nat) : State :=
  let m := (s.home.mem.writeNat (localKey true 0x1000) 8 0x2101).writeNat (localKey true 0x2000) 8 0x117
  { s with
    home := { s.home with mem := m.placeWord (localKey true benchAddress) (w % 2 ^ nbits) }, platform := { s.platform with step := 8 }, diesUp := [0, 1],
    contexts := s.contexts.put 0 benchContext, launches := s.launches.put 0 benchLaunch, groups := s.groups.put 0 benchGroup,
    fibres := s.fibres.put 0 benchFibre, frames := s.frames.put 0 benchFrame, cores := s.cores.put 0 {}, fresh := Nat.max s.fresh 1,
    pass := some { core := 0, convoy := 0, todo := [0], members := [0], snapshot := [(0, benchFibre)] } }

noncomputable section

/-- Is a constructor a step of the device: one that no word encodes? (DESIGN CHOICE, assumption 17) -/
def deviceStep (i : Sys2Proof.Instr) : Bool := (encode i).isNone && i.wf && i != .illegalEncoding

/-- A happening of the schedule. -/
def State.happen (s : State) : Happening → Host.Outcome State Fault Refusal
  | .event i => if deviceStep i then exec i s else .next s
  | .time n => .next { s with time := s.time + n }
  | .evict core pa => .next (s.evict core pa)
  | .forget core context va => .next (s.forget core context va)
  | .reconnect qp => .next (s.reconnect qp)
  | .delivered pa => .next (if (remoteNode pa).any s.link.pathUp then s.deliver fun w => w.pa / 64 == pa / 64 else s)
  | .pathsDown pkg => .next (s.pathsDown pkg)
  | .pathsUp pkg => .next (s.pathsUp pkg)
  | .firmware core o => .next { s with platform := { s.platform with images := s.platform.images.set core.val o } }

/-- One step. (DESIGN CHOICE, assumption 83) -/
def step (s : State) : Host.Outcome State Fault Refusal :=
  match s.pass with
  | some p =>
    if !p.opened then .next (s.openPass p)
    else
      match s.issuing with
      | none => .next { s with pass := none }
      | some f =>
        match s.fibres.get? f with
        | none => .next s.memberDone
        | some x =>
          match s.takeWord f x with
          | .run t i => exec i t
          | .finished t => .next t
  | none =>
    match s.schedule with
    | [] => .next s
    | h :: rest => State.happen { s with schedule := rest } h

end

end Sys2Proof.Machine
end

