-- ==== Sys2Proof/Safety.lean ====
section
/-! DEFINITION. The terms in which claims are stated: safe steps, the fibre that issues and the state after its unit, values read as numbers, and where a
machine changes. -/

namespace Sys2Proof

/-- R29: a result of a type, extended to a word: by its sign for a signed type, else by zeros. -/
def Ty.extend (t : Ty) {w : Nat} (v : BitVec w) : Word := if t.signed then v.signExtend 64 else v.zeroExtend 64

/-- R95: the number that W bits are, read as signed or unsigned by the type. -/
def Ty.number (t : Ty) (v : BitVec t.width) : Int := if t.signed then v.toInt else v.toNat

end Sys2Proof

namespace Sys2Proof.Machine

/-- A step is safe when the machine goes on. -/
def Safe (o : Host.Outcome State Fault Refusal) : Prop := ∃ t, o = .next t

/-- Fibre f issues, and stands in state x. -/
structure State.Issues (s : State) (f : Nat) (x : Fibre) : Prop where
  issuing : s.issuing = some f
  fibre : s.fibres.get? f = some x

/-- R53: the value of an operand of a fibre. -/
def State.operand (s : State) (x : Fibre) (a : Src) : Word := x.read (s.bankOf x) a

/-- The state after the issuing fibre f, which stood in state x, has completed a unit that leaves it in state y. -/
def State.completed (s : State) (f : Nat) (x y : Fibre) : State := s.settle f x (.done (s.setFibre f y))

/-- The state after the issuing fibre f, in state x, has raised a fault (R9, R337). -/
def State.trapped (s : State) (f : Nat) (x : Fibre) (code : FaultCode) (addr info : Word) : State := s.settle f x (.trap code addr info)

/-- R213: from s to t, fibre f, now in state z, has issued its new operations to the slice: in its group these parties know what the fibre knows; nothing else
of any group changes. -/
def State.NotesSlice (s t : State) (f : Nat) (z : Fibre) : Prop :=
  ∀ g, t.groups.get? g = (s.groups.get? g).map fun k => if z.group = some g ∧ z.unnumbered ≠ 0 then k.learn (z.newParties f) (· == .fibre f) else k

/-- R449: no group is stepped, stopped or about to stop. -/
def State.Undebugged (s : State) : Prop := ∀ e ∈ s.groups, e.2.dbg.mode = .off ∧ e.2.dbg.stopping = none

/-- The room of a vector or mask register in the quota of its fibre (R113). -/
def Fibre.room (x : Fibre) (d : VDest) : Nat := x.quota - (x.runsUsed - x.occupancy d)

/-- R79, R172, R191: the fibre with one more operation outstanding, of the issuing unit, counted in its class; what the unit pushes to store queues, the operation
pushes, and it counts as stores. -/
def Fibre.outstanding (x : Fibre) (op : PendOp) (dest : PendDest) (hold : Bool) : Fibre :=
  { x.countPushes with
    pend := x.pend ++ [{ op := op, dest := dest, unit := x.unit, hold := hold, pushes := x.pushing, pops := x.pops, rep := x.rep, pass := x.place }],
    counts := if op.class = .ld then { x.counts with ld := x.counts.ld + 1, st := x.counts.st + x.pushing.length }
      else { x.counts with st := x.counts.st + 1 + x.pushing.length } }

/-- R191, R172: instruction i of fibre f, in state x, is outstanding with the loads, from state u, with a result known at issue. Where it goes: to the element of
a store queue that the unit pushes, else to the destination. -/
def State.ReturnsWithLoads (s u : State) (f : Nat) (x : Fibre) (i : Instr) (d : Dst) (vs : List Word) (fl : FlagSet) : Prop :=
  let issues (y : Fibre) (dest : PendDest) : Prop := exec i s = .next (s.settle f x (.done (u.setFibre f (y.outstanding (.value vs fl) dest false))))
  (∀ e rest, x.pushing = e :: rest → issues x (.element e.2.1 e.2.2)) ∧
  (x.pushing = [] → (∀ j, d = .n j → issues x (.named j.val)) ∧ (d = .push → issues (x.push 0) (.age 0)))

/-- R311: no byte of n at an address of a context was freed. -/
def State.Unfreed (s : State) (c va n : Nat) : Prop := ∀ k, s.contexts.get? c = some k → ∀ i < n, k.freedAt (va + i) = false

/-- R112: i is a position at which one run of a register ends and the next begins. -/
def Cut (r : Runs) (i : Nat) : Prop := ∃ k, 0 < k ∧ k < r.length ∧ runsLen (r.take k) = i

/-- R116, R117: a result r of l elements is split where `cuts` says, and under a mask other than m0 where the mask and the old destination are; under `.c` only
between different values. No run is empty. -/
def Fibre.Split (x : Fibre) (d : VDest) (l : Nat) (mk : MReg) (c : Bool) (r : Runs) (cuts : Nat → Prop) : Prop :=
  (∀ e ∈ r, 0 < e.count) ∧
  ∀ i, 0 < i → i < l →
    (Cut r i ↔ (cuts i ∨ (mk ≠ 0 ∧ (Cut x.masks[mk] i ∨ Cut (x.oldRuns d l) i))) ∧ (c = true → runsElem r (i - 1) ≠ runsElem r i))

/-- R119: instruction i, issued by fibre f in state x, computes a destination of l elements element by element: where every source, and under a mask other than
m0 the mask and the old destination, has length l, element j of the result is `op j` where j is active and the old element elsewhere, the flags of active
elements join, and the result is written when its runs, at most l, fit the quota; else FLT_RUN_OVERFLOW. Else FLT_LENGTH. A destination m0 discards (R114).
The runs split where those of a source do, and at the positions `extra` (R116, R117). -/
def State.Elementwise (s : State) (f : Nat) (x : Fibre) (i : Instr) (d : VDest) (l : Nat) (srcs : List Runs) (mk : MReg) (c : Bool) (extra : List Nat)
    (op : Nat → Flagged Word) : Prop :=
  let fits : Prop := (∀ r ∈ srcs, runsLen r = l) ∧ (mk ≠ 0 → runsLen x.masks[mk] = l ∧ runsLen (x.oldRuns d l) = l)
  (¬ fits → exec i s = .next (s.trapped f x .length 0 0)) ∧
  (fits → ∃ (r : Runs) (fl : FlagSet),
    r.length ≤ l ∧ runsLen r = l ∧ (∀ j < l, runsElem r j = if x.maskTrue mk j then (op j).1 else runsElem (x.oldRuns d l) j) ∧
    (∀ b : Nat, fl.getLsbD b = true ↔ ∃ j < l, x.maskTrue mk j = true ∧ (op j).2.getLsbD b = true) ∧
    x.Split d l mk c r (fun j => (∃ q ∈ srcs, Cut q j) ∨ j ∈ extra) ∧
    (d.isM0 = true → exec i s = .next (s.completed f x x)) ∧
    (d.isM0 = false → r.length ≤ x.room d → exec i s = .next (s.completed f x ((x.setRuns d r).orFlags fl))) ∧
    (d.isM0 = false → x.room d < r.length → exec i s = .next (s.trapped f x .runOverflow 0 0)))

/-- R142, WRITEV: the same for an instruction that moves elements: element j of its result is `elem j`, no flag changes, and its run list splits where `cuts`
says. -/
def State.Rearranges (s : State) (f : Nat) (x : Fibre) (i : Instr) (vd : VReg) (l : Nat) (mk : MReg) (c : Bool) (elem : Nat → Word) (cuts : Nat → Prop) :
    Prop :=
  let fits : Prop := mk ≠ 0 → runsLen x.masks[mk] = l ∧ runsLen x.vregs[vd] = l
  (¬ fits → exec i s = .next (s.trapped f x .length 0 0)) ∧
  (fits → ∃ r : Runs,
    r.length ≤ l ∧ runsLen r = l ∧ (∀ j < l, runsElem r j = if x.maskTrue mk j then elem j else runsElem x.vregs[vd] j) ∧
    x.Split (.v vd) l mk c r cuts ∧
    (r.length ≤ x.room (.v vd) → exec i s = .next (s.completed f x { x with vregs := x.vregs.set vd.val r })) ∧
    (x.room (.v vd) < r.length → exec i s = .next (s.trapped f x .runOverflow 0 0)))

/-- The elements of a register, in order. -/
def elements (r : Runs) : List Word := (List.range (runsLen r)).map (runsElem r)

end Sys2Proof.Machine
end

