-- ==== Sys2Proof/Certificates/Slice0/Obligations.lean ====
section
/-! DEFINITION. What is claimed of the machine, for the provers: one proposition per claim, each with the rules of spec/ that it says. -/

open Sys2Proof Sys2Proof.Machine

/-- R56-R63, R67, R77: words that the chapters write out bit by bit decode to the instructions that they stand for. -/
def Obligations.Decode_words : Prop :=
  decode 0x04000023 = .ok (.mul .push (.a 0) (.a 0) .n64) ∧ decode 0x18003093 = .ok (.setpLt (.a 0) (.k 0) 1 .n64) ∧
  decode 0x60000002 = .ok (.bra 2) ∧ decode 0x20000064 = .ok (.addImm .push (.a 0) 100) ∧ decode 0x70000030 = .ok .exit ∧
  decode 0x8844_8082 = .ok (.vcmpLt 1 1 2 0 .s32 true) ∧ decode 0xC5245000 = .ok (.st (.n 2) (.n 1) .f32 0) ∧
  decode 0xE8619813 = .ok (.kick (.k 0) (.k 3) (some 3)) ∧ decode 0xF80C0000 = .ok (.launch .push (.k 0)) ∧
  decode 0xFFA00000 = .ok (.rareModifierHint true .rz false .default) ∧ decode 0x00000000 = .error .unassignedOpcode

/-- R51-R67: the word of every instruction decodes to that instruction, every operand at every value. -/
def Obligations.Decode_encode : Prop :=
  ∀ (i : Instr) (w : InsnWord), encode i = some w → decode w = .ok i

/-- R51-R67, R73: a word that decodes is the word of its instruction, so no two words decode alike and no bit of an instruction is ignored; read as bytes,
it is the word and the bytes after it. -/
def Obligations.Encode_decode : Prop :=
  (∀ (w : InsnWord) (i : Instr), decode w = .ok i → encode i = some w) ∧
  ∀ (w : InsnWord) (i : Instr) (bs : List Byte), decode w = .ok i → decodeBytes (wordBytes w ++ bs) = .ok (i, bs)

/-- R52, R71, R73, R74, R80, R84: a step of the issuing member fetches the word at its pc and executes the instruction that the word decodes to; what is
no assigned instruction, or no legal unit, executes as an illegal encoding. Here no queue register is bound, no repeat prefix stands before the word,
and the fibre runs no target program. A fetch that faults raises its fault, and an FLT_STEP that is due (R449) is raised first. The model's choice
(assumptions 2 and 17): between passes the next happening of the schedule takes place, which is an instruction only where no word encodes it. -/
def Obligations.Step_runs_decoded : Prop :=
  (∀ (s : State) (p : Pass) (f : Nat) (x : Fibre), s.pass = some p → p.opened = true → s.Issues f x → x.target = none → x.bindingFault = none →
    (x.stepDue = true → step s = .next (s.takeStep f).memberDone) ∧
    (∀ e, x.stepDue = false → s.fetchWord f x = .error e → step s = .next (s.takeTrap f x.unit x.rep .fetch e (x.pc.zeroExtend 64) 0).memberDone) ∧
    ∀ w t, x.stepDue = false → s.fetchWord f x = .ok (w, t) →
      (∀ e, decode w = .error e → step s = exec .illegalEncoding t) ∧
      ∀ i, decode w = .ok i →
        (i.wf = false → step s = exec .illegalEncoding t) ∧
        (i.wf = true → isHint w = true → step s = exec i t) ∧
        (i.wf = true → isHint w = false → unitOk x w i = false → step s = exec .illegalEncoding t) ∧
        (i.wf = true → isHint w = false → unitOk x w i = true → x.hints.rep = none → x.rep = 0 → (∀ q : Fin 4, x.queues[q] = none) →
          step s = exec i (t.setFibre f x))) ∧
  (∀ (s : State) (h : Happening) (rest : List Happening), s.pass = none → s.schedule = h :: rest →
    let u : State := { s with schedule := rest }
    (∀ i, h = .event i → encode i = none → i.wf = true → i ≠ .illegalEncoding → step s = exec i u) ∧
    (∀ n, h = .time n → step s = .next { u with time := u.time + n })) ∧
  ∀ s : State, s.pass = none → s.schedule = [] → step s = .next s

/-- R215, R244, R294, R312, R344, R347, R357, R451, R454: after reset the package is in step 0 of boot with neither die in service and no link up; there
is no context, launch, group, fibre, frame, queue or collective; every mode byte is plain. The model's choice (assumptions 1, 2 and 8): the memory
lists nothing, the package is node 0 with nothing fenced and no byte in error, and a step without a schedule changes nothing. -/
def Obligations.Reset_state : Prop :=
  let s := State.reset
  s.platform.step = 0 ∧ s.platform.failed = false ∧ s.diesUp = [] ∧ s.fullService = false ∧ s.link.control = 0 ∧ s.node = 0 ∧
  (∀ u, s.link.unit u = .down) ∧ s.contexts = [] ∧ s.launches = [] ∧ s.groups = [] ∧ s.fibres = [] ∧ s.frames = [] ∧ s.queues = [] ∧ s.collectives = [] ∧
  s.home.modes = [] ∧ s.fences = [] ∧ s.home.bad = [] ∧ s.home.badModes = [] ∧ s.home.mem = [] ∧ step s = .next s

/-- The model's own form (assumption 1): after reset the memory of the package and host memory are in canonical form. -/
def Obligations.Reset_memory_canonical : Prop :=
  State.reset.home.mem.wf = true ∧ State.reset.host.wf = true

/-- The model's own invariant (assumption 1): every step keeps the memory of the package and host memory in canonical form, addresses strictly rising and
no entry of 0, so that memories that read alike are equal data. -/
def Obligations.Memory_stays_canonical : Prop :=
  ∀ s t : State, s.home.mem.wf = true → s.host.wf = true → step s = .next t → t.home.mem.wf = true ∧ t.host.wf = true

/-- R95, R29: without saturation add, sub, mul, neg, abs and mad compute modulo 2^W on the low W bits of their operands; min, max and mulh are exact. The
result is extended to 64 bits; no flag changes, and nothing else of the fibre. R30, R95, R96: under the saturation modifier a result outside the
type's range is replaced by the nearer end of the range and the overflow flag is set; a result inside it is as it is. R30: the quotient truncates
toward zero and the remainder has the sign of the dividend; the exceptional divisions give the table's results and flags, and never fault. R99, R64,
R69: an immediate form computes as the register form with its extended immediate, which a wide hint continues upward, in place of b. -/
def Obligations.Integer_results : Prop :=
  (∀ (s : State) (f : Nat) (x : Fibre), s.Issues f x → ∀ (d : Dst) (a b : Src) (t : Ty),
     let A : BitVec t.width := (s.operand x a).setWidth t.width
     let B : BitVec t.width := (s.operand x b).setWidth t.width
     let C : BitVec t.width := (x.old d).setWidth t.width
     let done (v : BitVec t.width) : Host.Outcome State Fault Refusal := .next (s.completed f x (x.write d (t.extend v)))
     (x.hints.sat = false →
       exec (.add d a b t) s = done (A + B) ∧ exec (.sub d a b t) s = done (A - B) ∧ exec (.mul d a b t) s = done (A * B) ∧
       exec (.neg d a t) s = done (-A) ∧ exec (.abs d a t) s = done (if t.signed && A.msb then -A else A) ∧ exec (.mad d a b t) s = done (C + A * B)) ∧
     exec (.min d a b t) s = done (if t.number A ≤ t.number B then A else B) ∧
     exec (.max d a b t) s = done (if t.number A ≤ t.number B then B else A) ∧
     exec (.mulh d a b t) s = done (BitVec.ofInt t.width ((t.number A * t.number B) / 2 ^ t.width))) ∧
  (∀ (s : State) (f : Nat) (x : Fibre), s.Issues f x → x.hints.sat = true → ∀ (d : Dst) (a b : Src) (t : Ty),
     let A : Int := t.number ((s.operand x a).setWidth t.width)
     let B : Int := t.number ((s.operand x b).setWidth t.width)
     let C : Int := t.number ((x.old d).setWidth t.width)
     let low : Int := if t.signed then -(2 ^ (t.width - 1)) else 0
     let high : Int := if t.signed then 2 ^ (t.width - 1) - 1 else 2 ^ t.width - 1
     let done (v : Int) : Host.Outcome State Fault Refusal :=
       .next (s.completed f x
         (if v < low then (x.write d (t.extend (BitVec.ofInt t.width low))).orFlags Flag.overflow
          else if high < v then (x.write d (t.extend (BitVec.ofInt t.width high))).orFlags Flag.overflow
          else x.write d (t.extend (BitVec.ofInt t.width v))))
     exec (.add d a b t) s = done (A + B) ∧ exec (.sub d a b t) s = done (A - B) ∧ exec (.mul d a b t) s = done (A * B) ∧ exec (.neg d a t) s = done (-A) ∧
       exec (.abs d a t) s = done (A.natAbs : Int) ∧ exec (.mad d a b t) s = done (C + A * B)) ∧
  (∀ (s : State) (f : Nat) (x : Fibre), s.Issues f x → ∀ (d : Dst) (a b : Src) (t : Ty),
     let A : BitVec t.width := (s.operand x a).setWidth t.width
     let B : BitVec t.width := (s.operand x b).setWidth t.width
     let done (i : Instr) (v : BitVec t.width) (fl : FlagSet) : Prop :=
       exec i s = .next (s.completed f x ((x.write d (t.extend v)).orFlags fl))
     (B = 0 → done (.rem d a b t) A Flag.divzero) ∧
     (B = 0 → t.signed = false → done (.div d a b t) (BitVec.allOnes t.width) Flag.divzero) ∧
     (B = 0 → t.signed = true → A.msb = false → done (.div d a b t) (BitVec.intMax t.width) Flag.divzero) ∧
     (B = 0 → t.signed = true → A.msb = true → done (.div d a b t) (BitVec.intMin t.width) Flag.divzero) ∧
     (B ≠ 0 → t.signed = false → done (.div d a b t) (A / B) 0 ∧ done (.rem d a b t) (A % B) 0) ∧
     (t.signed = true → A = BitVec.intMin t.width → B = BitVec.allOnes t.width →
       done (.div d a b t) (BitVec.intMin t.width) Flag.overflow ∧ done (.rem d a b t) 0 Flag.overflow) ∧
     (B ≠ 0 → t.signed = true → ¬ (A = BitVec.intMin t.width ∧ B = BitVec.allOnes t.width) →
       done (.div d a b t) (A.sdiv B) 0 ∧ done (.rem d a b t) (A.srem B) 0)) ∧
  (∀ (s : State) (f : Nat) (x : Fibre), s.Issues f x → ∀ (d : Dst) (a : Src) (imm : BitVec 14),
     let va := s.operand x a
     let signed : Word := match x.hints.wide with
       | some p => (p ++ imm).signExtend 64
       | none => imm.signExtend 64
     let plain : Word := match x.hints.wide with
       | some p => (p ++ imm).setWidth 64
       | none => imm.setWidth 64
     let done (i : Instr) (v : Word) : Prop := exec i s = .next (s.completed f x (x.write d v))
     (x.hints.sat = false → done (.addImm d a imm) (va + signed)) ∧
     (x.hints.sat = true → BitVec.saddOverflow va signed = false → done (.addImm d a imm) (va + signed)) ∧
     (x.hints.sat = true → BitVec.saddOverflow va signed = true →
       exec (.addImm d a imm) s =
         .next (s.completed f x ((x.write d (if va.msb then BitVec.intMin 64 else BitVec.intMax 64)).orFlags Flag.overflow))) ∧
     done (.andImm d a imm) (va &&& signed) ∧ done (.orImm d a imm) (va ||| plain) ∧ done (.xorImm d a imm) (va ^^^ plain) ∧
     done (.shlImm d a imm) (va <<< (plain.toNat % 64)) ∧ done (.shrImm d a imm) (va >>> (plain.toNat % 64)) ∧
     done (.sraImm d a imm) (va.sshiftRight (plain.toNat % 64)) ∧ done (.movImm d imm) signed)

/-- R95: the bitwise instructions, shifts and counts on W bits, zero-extended; no flag changes. Counts are said by what they count. R96: bfx extracts and
bfi inserts the field at pos = b[5..0] of wid = min(b[14..8], W) bits; no flag changes. -/
def Obligations.Bit_results : Prop :=
  (∀ (s : State) (f : Nat) (x : Fibre), s.Issues f x → ∀ (d : Dst) (a b : Src) (t : Ty),
     let A : BitVec t.width := (s.operand x a).setWidth t.width
     let B : BitVec t.width := (s.operand x b).setWidth t.width
     let n := B.toNat % t.width
     let done (i : Instr) (v : BitVec t.width) : Prop := exec i s = .next (s.completed f x (x.write d (v.setWidth 64)))
     done (.and d a b t) (A &&& B) ∧ done (.or d a b t) (A ||| B) ∧ done (.xor d a b t) (A ^^^ B) ∧ done (.not d a t) (~~~A) ∧
     done (.shl d a b t) (A <<< n) ∧ done (.shr d a b t) (A >>> n) ∧ done (.sra d a b t) (A.sshiftRight n) ∧ done (.ror d a b t) (A.rotateRight n) ∧
     done (.pcnt d a t) (BitVec.ofNat t.width ((List.range t.width).countP A.getLsbD)) ∧
     (∃ v : BitVec t.width, done (.brev d a t) v ∧ ∀ i < t.width, v.getLsbD i = A.getLsbD (t.width - 1 - i)) ∧
     (∃ k ≤ t.width, done (.clz d a t) (BitVec.ofNat t.width k) ∧ (∀ i < k, A.getLsbD (t.width - 1 - i) = false) ∧
       (k < t.width → A.getLsbD (t.width - 1 - k) = true)) ∧
     (∃ k ≤ t.width, done (.ctz d a t) (BitVec.ofNat t.width k) ∧ (∀ i < k, A.getLsbD i = false) ∧ (k < t.width → A.getLsbD k = true))) ∧
  (∀ (s : State) (f : Nat) (x : Fibre), s.Issues f x → ∀ (d : Dst) (a b : Src) (t : Ty),
     let A : BitVec t.width := (s.operand x a).setWidth t.width
     let C : BitVec t.width := (x.old d).setWidth t.width
     let pos := ((s.operand x b).extractLsb' 0 6).toNat
     let wid := Nat.min ((s.operand x b).extractLsb' 8 7).toNat t.width
     (∃ v : Word, exec (.bfx d a b t) s = .next (s.completed f x (x.write d v)) ∧ ∀ i < 64,
       v.getLsbD i = (decide (wid ≠ 0) && (if i < wid then A.getLsbD (pos + i) else t.signed && A.getLsbD (pos + wid - 1)))) ∧
     (∃ v : Word, exec (.bfi d a b t) s = .next (s.completed f x (x.write d v)) ∧ ∀ i < 64,
       v.getLsbD i = (decide (i < t.width) && (if pos ≤ i ∧ i < pos + wid then A.getLsbD (i - pos) else C.getLsbD i))))

/-- R97: `lea` writes a + (b << s) modulo 2^64; `mov` writes its operand extended by its type; `sel` writes a or b, zero-extended, as the predicate test
says. None sets a flag. -/
def Obligations.Moves : Prop :=
  ∀ (s : State) (f : Nat) (x : Fibre), s.Issues f x → ∀ (d : Dst) (a b : Src) (t : Ty) (sh : Fin 16) (neg : Bool) (p : Fin 8),
    let va := s.operand x a
    let vb := s.operand x b
    exec (.lea d a b sh) s = .next (s.completed f x (x.write d (va + vb <<< sh.val))) ∧
    exec (.mov d a t) s = .next (s.completed f x (x.write d (t.extend (va.setWidth t.width)))) ∧
    exec (.sel d a b neg p t) s =
      .next (s.completed f x (x.write d (((if x.preds.getLsbD p.val = !neg then va else vb).setWidth t.width).setWidth 64)))

/-- R98: an integer compare writes the truth of its condition to its predicate and changes nothing else: no register, no flag. -/
def Obligations.Integer_compares : Prop :=
  ∀ (s : State) (f : Nat) (x : Fibre), s.Issues f x → ∀ (a b : Src) (p : Fin 8) (t : Ty),
    let A : BitVec t.width := (s.operand x a).setWidth t.width
    let B : BitVec t.width := (s.operand x b).setWidth t.width
    let sets (i : Instr) (c : Bool) : Prop :=
      ∃ ps : BitVec 8, exec i s = .next (s.completed f x { x with preds := ps }) ∧ ∀ j < 8, ps.getLsbD j = if j = p.val then c else x.preds.getLsbD j
    sets (.setpEq a b p t) (decide (A = B)) ∧ sets (.setpNe a b p t) (decide (A ≠ B)) ∧
    sets (.setpLt a b p t) (decide (t.number A < t.number B)) ∧ sets (.setpLe a b p t) (decide (t.number A ≤ t.number B))

/-- R106, R107: `nop` changes nothing but pc; `pset` sets pj to a[j] for each j of 0 to 7 with b[j] = 1, and changes nothing else. -/
def Obligations.Nop_and_pset : Prop :=
  ∀ (s : State) (f : Nat) (x : Fibre), s.Issues f x → exec .nop s = .next (s.completed f x x) ∧ ∀ (a b : Src),
    ∃ ps : BitVec 8, exec (.pset a b) s = .next (s.completed f x { x with preds := ps }) ∧
      ∀ j < 8, ps.getLsbD j = if (s.operand x b).getLsbD j then (s.operand x a).getLsbD j else x.preds.getLsbD j

/-- R100, R101, R102, R35: a floating instruction rounds the exact result once in the mode in force, joins its flags to the fibre's word and writes
nothing but its destination. R35: of two operands that are no NaN the lesser, or the greater, bit for bit and without a flag; -0 lies below +0. R101:
the results and flags of the special inputs, as the table gives them. A reciprocal, a root and its reciprocal round a number q that lies at the exact
value, or, where it is marked, within one last place of 67 bits or more below it; exp2 of an integer and log2 of a power of two round that power and
that integer. R102, R36: `fcvt` row by row of the table: bits are copied; a float goes to a float, and an integer to one, by one rounding; an integer
wraps; a float goes to an integer by the mode, and to the nearer end of the range from outside it, a NaN to 0. A source that is both out of range and
rounded sets both flags (the model's reading, assumption 89). -/
def Obligations.Floating_results : Prop :=
  (∀ (s : State) (f : Nat) (x : Fibre), s.Issues f x → ∀ (d : Dst) (a b c : Src) (t dt : Ty) (ft : FTy),
     let X := exact t (s.operand x a)
     let Y := exact t (s.operand x b)
     let mode := x.hints.rnd.getD .rn
     let done (i : Instr) (r : Flagged Word) : Prop := exec i s = .next (s.completed f x ((x.write d r.1).orFlags r.2))
     let rounded (v : Flagged XVal) : Flagged Word := ((roundTo t mode v.1).1, v.2 ||| (roundTo t mode v.1).2)
     done (.fadd d a b t) (rounded (addX mode X Y)) ∧ done (.fsub d a b t) (rounded (addX mode X Y.negated)) ∧ done (.fmul d a b t) (rounded (mulX X Y)) ∧
     done (.ffma d a b c ft)
       ((fmaX mode (exact ft.ty (s.operand x a)) (exact ft.ty (s.operand x b)) (exact ft.ty (s.operand x c))).andThen (roundTo ft.ty mode)) ∧
     (X.isNan = true ∨ Y.isNan = true →
       done (.fmin d a b t) (canon t, flagIf (X.isSignalling || Y.isSignalling) Flag.invalid) ∧
       done (.fmax d a b t) (canon t, flagIf (X.isSignalling || Y.isSignalling) Flag.invalid)) ∧
     (X.isNan = false → Y.isNan = false →
       done (.fmin d a b t) (fminBits t (s.operand x a) (s.operand x b)) ∧ (fminBits t (s.operand x a) (s.operand x b)).2 = 0 ∧
       done (.fmax d a b t) (fmaxBits t (s.operand x a) (s.operand x b)) ∧ (fmaxBits t (s.operand x a) (s.operand x b)).2 = 0) ∧
     done (.sfnRcp d a t) (sfnBits .rcp t mode (s.operand x a)) ∧ done (.sfnRsq d a t) (sfnBits .rsq t mode (s.operand x a)) ∧
     done (.sfnSqrt d a t) (sfnBits .sqrt t mode (s.operand x a)) ∧ done (.sfnExp2 d a t) (sfnBits .exp2 t mode (s.operand x a)) ∧
     done (.sfnLog2 d a t) (sfnBits .log2 t mode (s.operand x a)) ∧ done (.sfnSin d a t) (sfnBits .sin t mode (s.operand x a)) ∧
     done (.sfnCos d a t) (sfnBits .cos t mode (s.operand x a)) ∧ done (.sfnTanh d a t) (sfnBits .tanh t mode (s.operand x a)) ∧
     done (.fcvt d a dt t) (convert t dt mode false (s.operand x a))) ∧
  (∀ (s : State) (f : Nat) (x : Fibre), s.Issues f x → ∀ (d : Dst) (a b : Src) (ft : FTy),
     let t := ft.ty
     let X := exact t (s.operand x a)
     let Y := exact t (s.operand x b)
     let done (i : Instr) (v : Word) : Prop := exec i s = .next (s.completed f x (x.write d ((v.setWidth t.width).setWidth 64)))
     let least (v w : Word) : Prop := done (.fmin d a b t) v ∧ done (.fmax d a b t) w
     X.isNan = false → Y.isNan = false →
       (cmpX X Y = .lt → least (s.operand x a) (s.operand x b)) ∧ (cmpX X Y = .gt → least (s.operand x b) (s.operand x a)) ∧
       (X.isZero = true → Y.isZero = true → X.isNeg = true → Y.isNeg = false → least (s.operand x a) (s.operand x b)) ∧
       (X.isZero = true → Y.isZero = true → X.isNeg = false → Y.isNeg = true → least (s.operand x b) (s.operand x a)) ∧
       (cmpX X Y = .eq → X.isZero = false ∨ X.isNeg = Y.isNeg → least (s.operand x a) (s.operand x a))) ∧
  (∀ (s : State) (f : Nat) (x : Fibre), s.Issues f x → ∀ (d : Dst) (a : Src) (ft : FTy),
     let t := ft.ty
     let X := exact t (s.operand x a)
     let mode := x.hints.rnd.getD .rn
     let done (i : Instr) (r : Flagged Word) : Prop := exec i s = .next (s.completed f x ((x.write d r.1).orFlags r.2))
     let zero (neg : Bool) : Word := BitVec.ofNat 64 (t.fmt.signBit neg)
     let one (neg : Bool) : Word := BitVec.ofNat 64 (t.fmt.signBit neg + t.fmt.emax.toNat * 2 ^ (t.fmt.prec - 1))
     let inf (neg : Bool) : Word := BitVec.ofNat 64 (t.fmt.signBit neg + t.fmt.infBits)
     (∀ sig, X = .nan sig →
       ∀ i ∈ [Instr.sfnRcp d a t, .sfnRsq d a t, .sfnSqrt d a t, .sfnExp2 d a t, .sfnLog2 d a t, .sfnSin d a t, .sfnCos d a t, .sfnTanh d a t],
         done i (canon t, flagIf sig Flag.invalid)) ∧
     (∀ neg, X = .inf neg →
       done (.sfnRcp d a t) (zero neg, 0) ∧ done (.sfnTanh d a t) (one neg, 0) ∧ done (.sfnSin d a t) (canon t, Flag.invalid) ∧
       done (.sfnCos d a t) (canon t, Flag.invalid)) ∧
     (X = .inf false →
       done (.sfnLog2 d a t) (inf false, 0) ∧ done (.sfnSqrt d a t) (inf false, 0) ∧ done (.sfnExp2 d a t) (inf false, 0) ∧ done (.sfnRsq d a t) (zero false, 0)) ∧
     (X = .inf true → done (.sfnExp2 d a t) (zero false, 0)) ∧
     (X.isNeg = true → X.isNan = false → X.isZero = false →
       ∀ i ∈ [Instr.sfnRsq d a t, .sfnSqrt d a t, .sfnLog2 d a t], done i (canon t, Flag.invalid)) ∧
     (X.isZero = true →
       done (.sfnRcp d a t) (inf X.isNeg, Flag.divzero) ∧ done (.sfnRsq d a t) (inf X.isNeg, Flag.divzero) ∧ done (.sfnLog2 d a t) (inf true, Flag.divzero) ∧
       done (.sfnSqrt d a t) (zero X.isNeg, 0) ∧ done (.sfnSin d a t) (zero X.isNeg, 0) ∧ done (.sfnTanh d a t) (zero X.isNeg, 0) ∧
       done (.sfnExp2 d a t) (one false, 0) ∧ done (.sfnCos d a t) (one false, 0)) ∧
     (∀ neg m, X = .fin neg m → X.isZero = false →
       (∃ (q : Mag) (e : Nat), done (.sfnRcp d a t) (roundTo t mode (.fin neg q)) ∧ q.exp + m.exp = -(e : Int) ∧
         (q.more = false → q.man * m.man = 2 ^ e) ∧
         (q.more = true → 2 ^ 66 ≤ q.man ∧ q.man * m.man < 2 ^ e ∧ 2 ^ e < (q.man + 1) * m.man)) ∧
       (neg = false →
         (∃ (q : Mag) (e : Nat), done (.sfnSqrt d a t) (roundTo t mode (.fin false q)) ∧ m.exp - 2 * q.exp = e ∧
           (q.more = false → q.man ^ 2 = m.man * 2 ^ e) ∧
           (q.more = true → 2 ^ 66 ≤ q.man ∧ q.man ^ 2 < m.man * 2 ^ e ∧ m.man * 2 ^ e < (q.man + 1) ^ 2)) ∧
         ∃ (q : Mag) (e : Nat), done (.sfnRsq d a t) (roundTo t mode (.fin false q)) ∧ 2 * q.exp + m.exp = -(e : Int) ∧
           (q.more = false → q.man ^ 2 * m.man = 2 ^ e) ∧
           (q.more = true → 2 ^ 66 ≤ q.man ∧ q.man ^ 2 * m.man < 2 ^ e ∧ 2 ^ e < (q.man + 1) ^ 2 * m.man))) ∧
     (∀ n : Int, n ≠ 0 → n.natAbs < 2 ^ 13 → cmpX X (exactInt n) = .eq → done (.sfnExp2 d a t) (roundTo t mode (.fin false ⟨1, n, false⟩))) ∧
     (∀ k : Int, X.isNan = false → cmpX X (.fin false ⟨1, k, false⟩) = .eq → done (.sfnLog2 d a t) (roundTo t mode (exactInt k)))) ∧
  (∀ (s : State) (f : Nat) (x : Fibre), s.Issues f x → ∀ (d : Dst) (a : Src) (src dst : Ty),
     let v := (s.operand x a).setWidth src.width
     let X := exact src (s.operand x a)
     let mode := x.hints.rnd.getD .rn
     let done (r : Flagged Word) : Prop := exec (.fcvt d a dst src) s = .next (s.completed f x ((x.write d r.1).orFlags r.2))
     let low : Int := if dst.signed then -(2 ^ (dst.width - 1)) else 0
     let high : Int := if dst.signed then 2 ^ (dst.width - 1) - 1 else 2 ^ dst.width - 1
     let int (i : Int) : Word := dst.extend (BitVec.ofInt dst.width i)
     (src.isBits = true ∨ dst.isBits = true → done (dst.extend (v.setWidth dst.width), 0)) ∧
     (src.isBits = false → dst.isBits = false →
       (src.isFloat = true → dst.isFloat = true → done (roundTo dst mode X)) ∧
       (src.isFloat = false → dst.isFloat = true → done (roundTo dst mode (exactInt (src.number v)))) ∧
       (src.isFloat = false → dst.isFloat = false → done (int (src.number v), 0)) ∧
       (src.isFloat = true → dst.isFloat = false →
         (X.isNan = true → done (0, Flag.invalid)) ∧ (X = .inf true → done (int low, Flag.invalid)) ∧ (X = .inf false → done (int high, Flag.invalid)) ∧
         ∀ neg m, X = .fin neg m →
           let unit := 2 ^ (-m.exp).toNat
           let n := m.man * 2 ^ m.exp.toNat / unit
           let rest := m.man * 2 ^ m.exp.toNat % unit
           let up : Bool := match mode with
             | .rn => decide (unit < 2 * rest) || (decide (2 * rest = unit) && n % 2 == 1)
             | .rz => false
             | .rp => rest != 0 && !neg
             | .rm => rest != 0 && neg
           let i : Int := (if neg then -1 else 1) * ((n + up.toNat : Nat) : Int)
           let inexact := flagIf (rest != 0) Flag.inexact
           (low ≤ i → i ≤ high → done (int i, inexact)) ∧ (i < low → done (int low, Flag.invalid ||| inexact)) ∧
           (high < i → done (int high, Flag.invalid ||| inexact)))))

/-- R103, R34: a floating compare writes its truth to its predicate: false for a NaN, true for `un`. lt and le set invalid for any NaN, eq and un for a
signalling one. -/
def Obligations.Floating_compares : Prop :=
  ∀ (s : State) (f : Nat) (x : Fibre), s.Issues f x → ∀ (a b : Src) (p : Fin 8) (t : Ty),
    let X := exact t (s.operand x a)
    let Y := exact t (s.operand x b)
    let nan := X.isNan || Y.isNan
    let sig := X.isSignalling || Y.isSignalling
    let sets (i : Instr) (c : Bool) (invalid : Bool) : Prop :=
      ∃ ps : BitVec 8,
        exec i s = .next (s.completed f x { x with preds := ps, flags := x.flags ||| (if invalid then Flag.invalid else 0) }) ∧
        ∀ j < 8, ps.getLsbD j = if j = p.val then c else x.preds.getLsbD j
    sets (.fsetpEq a b p t) (!nan && decide (cmpX X Y = .eq)) sig ∧ sets (.fsetpUn a b p t) nan sig ∧
    sets (.fsetpLt a b p t) (!nan && decide (cmpX X Y = .lt)) nan ∧ sets (.fsetpLe a b p t) (!nan && decide (cmpX X Y ≠ .gt)) nan

/-- R104, R59: a branch sets pc to its target: the word's address plus four times the signed offset (modulo 2^52, assumption 9); `brp` goes on at the next
word when its test fails; `call` pushes the address of the next word. -/
def Obligations.Branches : Prop :=
  ∀ (s : State) (f : Nat) (x : Fibre), s.Issues f x → ∀ (neg : Bool) (p : Fin 8) (off : BitVec 22),
    let target := x.pc + off.signExtend 52 * 4
    exec (.bra off) s = .next (s.settle f x (.jump s target)) ∧
    exec (.brp neg p off) s = .next (s.settle f x (.jump s (if x.preds.getLsbD p.val = !neg then target else x.pc + 4))) ∧
    exec (.call off) s = .next (s.settle f x (.jump (s.setFibre f (x.push ((x.pc + 4).setWidth 64))) target))

/-- R105: `jmpi` and `ret` set pc to operand a, and `calli` does so after it pushes the address of its word + 4. A target whose bits 1..0 are not zero
raises FLT_ALIGN, one whose bits 63..52 are not zero raises FLT_TRANSLATION at the transfer; either fault leaves pc and the age queue as they are.
That FLT_ALIGN comes first where both hold is the model's choice (assumption 105), and that the fault's address is the operand its reading (assumption
23). -/
def Obligations.Indirect_transfers : Prop :=
  ∀ (s : State) (f : Nat) (x : Fibre), s.Issues f x → ∀ (a : Src),
    let v := s.operand x a
    (v.extractLsb' 0 2 = 0 → v.extractLsb' 52 12 = 0 →
      exec (.jmpi a) s = .next (s.settle f x (.jump s (v.setWidth 52))) ∧ exec (.ret a) s = .next (s.settle f x (.jump s (v.setWidth 52))) ∧
      exec (.calli a) s = .next (s.settle f x (.jump (s.setFibre f (x.push ((x.pc + 4).setWidth 64))) (v.setWidth 52)))) ∧
    (v.extractLsb' 0 2 ≠ 0 → ∀ i ∈ [Instr.jmpi a, .ret a, .calli a], exec i s = .next (s.trapped f x .align v 0)) ∧
    (v.extractLsb' 0 2 = 0 → v.extractLsb' 52 12 ≠ 0 → ∀ i ∈ [Instr.jmpi a, .ret a, .calli a], exec i s = .next (s.trapped f x .translation v 0))

/-- R92, R93: `getsv` writes the special value that its selector names and changes nothing else. R92, R93: `setsv` writes operand a to the special value,
keeps the bits that the value holds, and changes nothing else; a read-only value ignores it. A write of sp that is not a multiple of 8 raises
FLT_ALIGN, and one outside the stack FLT_STACK; that all 64 bits of the operand are compared with the stack is the model's choice (assumption 104). -/
def Obligations.Special_values : Prop :=
  (∀ (s : State) (f : Nat) (x : Fibre), s.Issues f x → ∀ (d : Dst),
     let reads (sv : SpecialValue) (v : Word) : Prop := exec (.getsv d sv) s = .next (s.completed f x (x.write d v))
     reads .sp (x.sp.setWidth 64) ∧ reads .fid (BitVec.ofNat 64 x.fid) ∧ reads .ms (x.milestone.setWidth 64) ∧ reads .rkey x.rkey ∧ reads .rctr x.rctr ∧
     reads .rep (BitVec.ofNat 64 x.rep) ∧ reads .flags (x.flags.setWidth 64) ∧ reads .preds (x.preds.setWidth 64) ∧
     reads .clock (BitVec.ofNat 64 (s.core x.core).clock) ∧
     (∀ r c, s.frames.get? f = some r → s.contexts.get? r.context = some c → reads .fp (BitVec.ofNat 64 (c.desc.frameBase + 64 * r.slot))) ∧
     (∀ l, s.launches.get? x.launch = some l →
       reads .launch (BitVec.ofNat 64 (l.slot + 2 ^ 32 * l.depth)) ∧
       reads .fxyz (BitVec.ofNat 64 (x.fid % l.kernel.gx + 2 ^ 10 * (x.fid / l.kernel.gx % l.kernel.gy) + 2 ^ 20 * (x.fid / (l.kernel.gx * l.kernel.gy)))) ∧
       ∀ r, s.frames.get? f = some r →
         reads .gx (BitVec.ofNat 64 (r.linear % l.record.x)) ∧ reads .gy (BitVec.ofNat 64 (r.linear / l.record.x % l.record.y)) ∧
         reads .gz (BitVec.ofNat 64 (r.linear / (l.record.x * l.record.y)))) ∧
     (∀ p, s.pass = some p → p.members.length ≤ 32 → f ∈ p.members →
       reads .cvi (BitVec.ofNat 64 (p.members.idxOf f + 2 ^ 8 * (p.members.length - 1) + 2 ^ 16 * x.core)))) ∧
  (∀ (s : State) (f : Nat) (x : Fibre), s.Issues f x → ∀ (a : Src),
     let v := s.operand x a
     exec (.setsv a .rkey) s = .next (s.completed f x { x with rkey := v }) ∧ exec (.setsv a .rctr) s = .next (s.completed f x { x with rctr := v }) ∧
     exec (.setsv a .flags) s = .next (s.completed f x { x with flags := v.setWidth 6 }) ∧
     exec (.setsv a .preds) s = .next (s.completed f x { x with preds := v.setWidth 8 }) ∧
     (∀ sv ∈ [SpecialValue.fp, .fid, .fxyz, .gx, .gy, .gz, .launch, .ms, .rep, .cvi, .clock], exec (.setsv a sv) s = .next (s.settle f x (.done s))) ∧
     (v.toNat % 8 = 0 → stackBase ≤ v.toNat → v.toNat ≤ x.stackTop → exec (.setsv a .sp) s = .next (s.completed f x { x with sp := v.setWidth 52 })) ∧
     (v.toNat % 8 ≠ 0 → exec (.setsv a .sp) s = .next (s.trapped f x .align 0 0)) ∧
     (v.toNat % 8 = 0 → v.toNat < stackBase ∨ x.stackTop < v.toNat → exec (.setsv a .sp) s = .next (s.trapped f x .stack 0 0)))

/-- R52, R71, R80: outside a target program, where no group is being debugged, a completed unit leaves its fibre at the next repetition, or at the next
word with its hint words and repeat index gone, and its new operations to the slice are numbered and come after what it knows (R213); and it changes
nothing else but the pass, the cycle count and the convoys of its core, the model's key counter, and the records of open trace sessions. R79, R80,
R83, R162, R201: outside a target program, where no group is being debugged: a fibre that does not issue its unit yet stalls at the unit's first word,
with nothing else of it changed; one that arrives at a list-form instruction stalls where it is; one whose unit has taken effect and waits stalls as
that effect left it; and one that leaves stands as its unit left it, its new operations to the slice numbered (R213). Each is in no convoy afterwards,
and nothing else changes but what the pass's end changes. R88, R54: a push shifts the age queue, whose last value is gone, and writes a0; a named
destination changes that register and no other; neither changes anything else of the fibre, but that every outstanding load moves with its slot
(R191). R104, R105: a transfer that completes leaves its fibre at its target, with no hint word and repetition 0, and everything else as a completed
unit leaves it. -/
def Obligations.Completed_units : Prop :=
  (∀ (s : State) (f : Nat) (x y : Fibre), s.Issues f x → x.target = none → s.Undebugged →
     let t := s.completed f x y
     let z := y.commitQueues
     let w : Fibre := match z.hints.rep with
       | some r => if z.rep + 1 < r.count then { z with pc := z.unit, rep := z.rep + 1, hints := {} } else { z with pc := z.pc + 4, rep := 0, hints := {} }
       | none => { z with pc := z.pc + 4, rep := 0, hints := {} }
     t.fibres = s.fibres.put f w.numbered ∧ s.NotesSlice t f w ∧
     (∃ cores groups queues fresh pass, t = { s with fibres := t.fibres, cores := cores, groups := groups, queues := queues, fresh := fresh, pass := pass }) ∧
     (∀ c, ∃ clock convoys, t.core c = { s.core c with clock := clock, convoys := convoys }) ∧
     (∀ q k, t.queues.get? q = some k → ∃ j, s.queues.get? q = some j ∧ k = { j with trace := k.trace })) ∧
  (∀ (s u : State) (f : Nat) (x y : Fibre) (why : Stall), s.Issues f x → x.target = none → s.Undebugged →
     u.Undebugged → u.pass = s.pass → u.fibres.get? f = some y → y.core = x.core →
     let leaves (v t : State) (z : Fibre) : Prop :=
       t.fibres = v.fibres.put f z ∧
       (∃ cores groups queues fresh pass, t = { v with fibres := t.fibres, cores := cores, groups := groups, queues := queues, fresh := fresh, pass := pass }) ∧
       (∀ c, ∃ clock convoys, t.core c = { v.core c with clock := clock, convoys := convoys }) ∧ ∀ e ∈ (t.core x.core).convoys, f ∉ e.2.members
     (s.settle f x (.stall why)).groups = s.groups ∧ (s.settle f x (.arrive why)).groups = s.groups ∧ (s.settle f x (.wait u why)).groups = u.groups ∧
     u.NotesSlice (s.settle f x (.leave u)) f y.commitQueues ∧
     leaves s (s.settle f x (.stall why)) { x with popped := [], pops := [], pushing := [], life := .stalled why, pc := x.unit, hints := {} } ∧
     leaves s (s.settle f x (.arrive why)) { x with life := .stalled why } ∧ leaves u (s.settle f x (.wait u why)) { y with life := .stalled why } ∧
     leaves u (s.settle f x (.leave u)) y.commitQueues.numbered) ∧
  (∀ (x : Fibre) (v : Word),
     ((x.write .push v).ages[0] = v ∧ (∀ i (h : i + 1 < 16), (x.write .push v).ages[i + 1] = x.ages[i]) ∧
       x.write .push v = { x with ages := (x.write .push v).ages, pend := x.pend.map fun p => { p with dest := p.dest.pushed } }) ∧
     ∀ j : Fin 32, (x.write (.n j) v).named[j] = v ∧ (∀ i : Fin 32, i ≠ j → (x.write (.n j) v).named[i] = x.named[i]) ∧
       x.write (.n j) v = { x with named := (x.write (.n j) v).named }) ∧
  (∀ (s : State) (f : Nat) (x y : Fibre) (pc : BitVec 52), s.Issues f x → x.target = none → s.Undebugged →
     let t := s.settle f x (.jump (s.setFibre f y) pc)
     let w : Fibre := { y.commitQueues with pc := pc, rep := 0, hints := {} }
     t.fibres = s.fibres.put f w.numbered ∧ s.NotesSlice t f w ∧
     (∃ cores groups queues fresh pass, t = { s with fibres := t.fibres, cores := cores, groups := groups, queues := queues, fresh := fresh, pass := pass }) ∧
     (∀ c, ∃ clock convoys, t.core c = { s.core c with clock := clock, convoys := convoys }) ∧
     (∀ q k, t.queues.get? q = some k → ∃ j, s.queues.get? q = some j ∧ k = { j with trace := k.trace }))

/-- R338, R337, R9: a fault of a fibre whose in-handler bit is clear, in a context whose tvec is not zero, writes the trap fields, sets the bit and sets
pc to tvec; the fibre leaves its convoy. Every register, the age queue, the flags and the counters keep their values, and so does memory. FLT_BREAK of
a member of a group under the break-to-debugger flag is another case. R338: a fault taken with the in-handler bit set, or where tvec is zero, is a
double fault: the fibre ends as `exit` ends it, and its context's ring gets a kind-8 event that carries the code (R332). Here the fibre has no
unfinished child (R209), no copy fault that it has not raised (R261), and is not speculative. -/
def Obligations.Trap_entry : Prop :=
  (∀ (s : State) (f : Nat) (x : Fibre) (c : Context) (code : FaultCode) (addr info : Word),
     s.Issues f x → x.target = none → s.Undebugged → s.contexts.get? x.context = some c → c.desc.tvec ≠ 0 → x.trap.inHandler = false →
     (c.desc.breakToDebugger = false ∨ x.group = none ∨ code ≠ .break_) →
     let t := s.trapped f x code addr info
     t.fibres = s.fibres.put f
       { x with
         popped := [], pops := [], pushing := [], life := x.life.readied, pc := c.desc.tvec, rep := 0, hints := {}, rayRequest := none,
         trap := { inHandler := true, code := BitVec.ofNat 16 code.code, unit := x.unit, rep := BitVec.ofNat 7 x.rep, addr := addr, info := info } } ∧
     (∃ cores queues fresh pass, t = { s with fibres := t.fibres, cores := cores, queues := queues, fresh := fresh, pass := pass }) ∧
     (∀ e ∈ (t.core x.core).convoys, f ∉ e.2.members) ∧
     (∀ k, ∃ clock convoys, t.core k = { s.core k with clock := clock, convoys := convoys })) ∧
  (∀ (s : State) (f : Nat) (x : Fibre) (c : Context) (r : Frame) (l : Launch) (code : FaultCode) (addr info : Word),
     s.Issues f x → x.target = none → s.Undebugged → s.contexts.get? x.context = some c → (c.desc.tvec = 0 ∨ x.trap.inHandler = true) →
     (c.desc.breakToDebugger = false ∨ x.group = none ∨ code ≠ .break_) → x.speculative = false → x.copyFaults = [] →
     s.frames.get? f = some r → r.pending = 0 → s.launches.get? x.launch = some l → l.context = x.context →
     let t := s.trapped f x code addr info
     (∃ y, t.fibres.get? f = some y ∧ y.life = .exiting ∧ y.named = x.named ∧ y.ages = x.ages ∧ y.flags = x.flags ∧ y.counts = x.counts ∧ y.trap = x.trap) ∧
     t.frames.get? f = some { r with state := .exiting } ∧
     t.contexts.get? x.context = some { c with events := { c.events with held := c.events.held ++ [
       { kind := 8, status := code.code, queue := l.queue, tag := l.tag, low := BitVec.ofNat 32 l.slot, high := BitVec.ofNat 32 r.linear,
         word := BitVec.ofNat 64 s.time, context := x.context }] } } ∧
     t.home = s.home ∧ t.host = s.host ∧ (∀ g, g ≠ f → t.fibres.get? g = s.fibres.get? g))

/-- R341, R337, R340: with the in-handler bit set, `trap.rd` reads a trap field, `trap.wr` writes `unit` or `rep` under its mask, and `trap.ret` clears
the bit and sets pc and the repeat index to the saved ones. With the bit clear each raises FLT_ILLEGAL. -/
def Obligations.Trap_forms : Prop :=
  ∀ (s : State) (f : Nat) (x : Fibre), s.Issues f x → ∀ (d : Dst) (b : Src),
    let v := s.operand x b
    (x.trap.inHandler = true →
      exec (.trapRd d 0) s = .next (s.completed f x (x.write d (x.trap.code.setWidth 64))) ∧
      exec (.trapRd d 1) s = .next (s.completed f x (x.write d (x.trap.unit.setWidth 64))) ∧
      exec (.trapRd d 2) s = .next (s.completed f x (x.write d (x.trap.rep.setWidth 64))) ∧
      exec (.trapRd d 3) s = .next (s.completed f x (x.write d x.trap.addr)) ∧ exec (.trapRd d 4) s = .next (s.completed f x (x.write d x.trap.info)) ∧
      exec (.trapWr 1 b) s =
        .next (s.completed f x { x with trap := { x.trap with unit := (v.extractLsb' 2 50 ++ 0#2 : BitVec 52) } }) ∧
      exec (.trapWr 2 b) s = .next (s.completed f x { x with trap := { x.trap with rep := v.setWidth 7 } }) ∧
      exec .trapRet s = .next (s.settle f x (.resume (s.setFibre f
        { x with pc := x.trap.unit, rep := x.trap.rep.toNat, hints := {}, trap := { x.trap with inHandler := false } })))) ∧
    (x.trap.inHandler = false → ∀ n : Fin 64,
      ∀ i ∈ [Instr.trapRd d n, .trapWr n b, .trapRet], exec i s = .next (s.trapped f x .illegal 0 0))

/-- R343, R73: `brk` raises FLT_BREAK with its code as info; what is no instruction raises FLT_ILLEGAL. Taking a fault is the effect of both. The unit
field of the trap that a `brk` enters is the unit of the `brk`, and its info the code. -/
def Obligations.Break_and_illegal : Prop :=
  ∀ (s : State) (f : Nat) (x : Fibre), s.Issues f x →
    (∀ n : Fin 64, exec (.brk n) s = .next (s.trapped f x .break_ 0 (BitVec.ofNat 64 n.val)) ∧
      ∀ c : Context, x.target = none → s.Undebugged → s.contexts.get? x.context = some c → c.desc.tvec ≠ 0 → x.trap.inHandler = false →
        c.desc.breakToDebugger = false →
        ∃ y, (s.trapped f x .break_ 0 (BitVec.ofNat 64 n.val)).fibres.get? f = some y ∧ y.trap.unit = x.unit ∧ y.trap.info = BitVec.ofNat 64 n.val ∧
          y.trap.inHandler = true ∧ y.pc = c.desc.tvec) ∧
    exec .illegalEncoding s = .next (s.trapped f x .illegal 0 0)

/-- R119, R128, R129: the element-wise instructions of two or three registers compute every active element from the same element of each source, whatever
the runs. The function of an element is that of the scalar instruction, floating or integer by the type. R119, R128, R129: the forms with a uniform
scalar compute every active element from the element of va and the scalar. -/
def Obligations.Vector_arithmetic : Prop :=
  (∀ (s : State) (f : Nat) (x : Fibre), s.Issues f x → ∀ (vd va vb : VReg) (mk : MReg) (t : Ty) (c : Bool),
     let A := runsElem x.vregs[va]
     let B := runsElem x.vregs[vb]
     let two (i : Instr) (op : Word → Word → Flagged Word) : Prop :=
       s.Elementwise f x i (.v vd) (runsLen x.vregs[va]) [x.vregs[va], x.vregs[vb]] mk c [] fun j => op (A j) (B j)
     let one (i : Instr) (op : Word → Flagged Word) : Prop := s.Elementwise f x i (.v vd) (runsLen x.vregs[va]) [x.vregs[va]] mk c [] fun j => op (A j)
     two (.vadd vd va vb mk t c) (fun v w => if t.isFloat then faddBits t x.mode v w else addInt t x.hints.sat v w) ∧
     two (.vsub vd va vb mk t c) (fun v w => if t.isFloat then fsubBits t x.mode v w else subInt t x.hints.sat v w) ∧
     two (.vmul vd va vb mk t c) (fun v w => if t.isFloat then fmulBits t x.mode v w else mulInt t x.hints.sat v w) ∧
     two (.vdiv vd va vb mk t c) (fun v w => if t.isFloat then fdivBits t x.mode v w else divInt t v w) ∧
     two (.vmin vd va vb mk t c) (fun v w => if t.isFloat then fminBits t v w else (minInt t v w, 0)) ∧
     two (.vmax vd va vb mk t c) (fun v w => if t.isFloat then fmaxBits t v w else (maxInt t v w, 0)) ∧
     two (.vand vd va vb mk t c) (fun v w => (andBits t v w, 0)) ∧ two (.vor vd va vb mk t c) (fun v w => (orBits t v w, 0)) ∧
     two (.vxor vd va vb mk t c) (fun v w => (xorBits t v w, 0)) ∧ two (.vshl vd va vb mk t c) (fun v w => (shlBits t v w, 0)) ∧
     two (.vshr vd va vb mk t c) (fun v w => (shrBits t v w, 0)) ∧ two (.vsra vd va vb mk t c) (fun v w => (sraBits t v w, 0)) ∧
     one (.vabs vd va mk t c) (fun v => if t.isFloat then fsignBits t XVal.absolute v else absInt t x.hints.sat v) ∧
     one (.vneg vd va mk t c) (fun v => if t.isFloat then fsignBits t XVal.negated v else negInt t x.hints.sat v) ∧
     s.Elementwise f x (.vfma vd va vb mk t c) (.v vd) (runsLen x.vregs[va]) [x.vregs[va], x.vregs[vb], x.vregs[vd]] mk c []
       fun j => ffmaBits t x.mode (A j) (B j) (runsElem x.vregs[vd] j)) ∧
  (∀ (s : State) (f : Nat) (x : Fibre), s.Issues f x → ∀ (vd va : VReg) (b : Src) (mk : MReg) (t : Ty),
     let A := runsElem x.vregs[va]
     let w := s.operand x b
     let each (i : Instr) (op : Word → Flagged Word) : Prop := s.Elementwise f x i (.v vd) (runsLen x.vregs[va]) [x.vregs[va]] mk false [] fun j => op (A j)
     each (.vaddS vd va b mk t) (fun v => if t.isFloat then faddBits t x.mode v w else addInt t x.hints.sat v w) ∧
     each (.vsubS vd va b mk t) (fun v => if t.isFloat then fsubBits t x.mode v w else subInt t x.hints.sat v w) ∧
     each (.vmulS vd va b mk t) (fun v => if t.isFloat then fmulBits t x.mode v w else mulInt t x.hints.sat v w) ∧
     each (.vdivS vd va b mk t) (fun v => if t.isFloat then fdivBits t x.mode v w else divInt t v w) ∧
     each (.vminS vd va b mk t) (fun v => if t.isFloat then fminBits t v w else (minInt t v w, 0)) ∧
     each (.vmaxS vd va b mk t) (fun v => if t.isFloat then fmaxBits t v w else (maxInt t v w, 0)) ∧
     each (.vandS vd va b mk t) (fun v => (andBits t v w, 0)) ∧ each (.vorS vd va b mk t) (fun v => (orBits t v w, 0)) ∧
     each (.vxorS vd va b mk t) (fun v => (xorBits t v w, 0)) ∧ each (.vshlS vd va b mk t) (fun v => (shlBits t v w, 0)) ∧
     each (.vshrS vd va b mk t) (fun v => (shrBits t v w, 0)) ∧ each (.vsraS vd va b mk t) (fun v => (sraBits t v w, 0)) ∧
     s.Elementwise f x (.vfmaS vd va b mk t) (.v vd) (runsLen x.vregs[va]) [x.vregs[va], x.vregs[vd]] mk false []
       fun j => ffmaBits t x.mode (A j) w (runsElem x.vregs[vd] j))

/-- R130, R131, R137: compares write truths to a mask register, `vsel` selects by a mask and the mask operations combine truths, element by element. -/
def Obligations.Compares_and_masks : Prop :=
  ∀ (s : State) (f : Nat) (x : Fibre), s.Issues f x → ∀ (vd va vb : VReg) (md ma mb mk ms : MReg) (t : Ty) (c : Bool),
    let A := runsElem x.vregs[va]
    let B := runsElem x.vregs[vb]
    let compares (i : Instr) (cond : Cond) : Prop :=
      s.Elementwise f x i (.m md) (runsLen x.vregs[va]) [x.vregs[va], x.vregs[vb]] mk c []
        fun j => (if (cmpAny cond t (A j) (B j)).1 then 1 else 0, (cmpAny cond t (A j) (B j)).2)
    let masks (i : Instr) (mb : MReg) (op : Bool → Bool → Bool) : Prop :=
      ma ≠ 0 ∨ mb ≠ 0 →
        s.Elementwise f x i (.m md) (runsLen (if ma = 0 then x.masks[mb] else x.masks[ma])) ((x.mask ma).toList ++ (x.mask mb).toList) mk c []
          fun j => (if op (x.maskTrue ma j) (x.maskTrue mb j) then 1 else 0, 0)
    compares (.vcmpEq md va vb mk t c) .eq ∧ compares (.vcmpNe md va vb mk t c) .ne ∧ compares (.vcmpLt md va vb mk t c) .lt ∧
    compares (.vcmpLe md va vb mk t c) .le ∧ compares (.vcmpUn md va vb mk t c) .un ∧
    s.Elementwise f x (.vsel vd va vb ms c) (.v vd) (runsLen x.vregs[va]) ([x.vregs[va], x.vregs[vb]] ++ (x.mask ms).toList) 0 c []
      (fun j => (if x.maskTrue ms j then A j else B j, 0)) ∧
    masks (.mand md ma mb mk c) mb (fun a b => a && b) ∧ masks (.mor md ma mb mk c) mb (fun a b => a || b) ∧
    masks (.mxor md ma mb mk c) mb (fun a b => a != b) ∧ masks (.mnot md ma mk c) ma (fun a _ => !a)

/-- R134, R136, R32: conversions and special functions, element by element, in the mode in force; a stochastic conversion takes the draw of the same
element (R44). The shared-exponent conversion quantises every element with its span (R135). -/
def Obligations.Vector_functions : Prop :=
  ∀ (s : State) (f : Nat) (x : Fibre), s.Issues f x → ∀ (vd va vb : VReg) (mk : MReg) (dt t : Ty) (fmt : SxFmt) (c : Bool),
    let A := runsElem x.vregs[va]
    let one (i : Instr) (c : Bool) (op : Word → Flagged Word) : Prop :=
      s.Elementwise f x i (.v vd) (runsLen x.vregs[va]) [x.vregs[va]] mk c [] fun j => op (A j)
    let spans : List Nat := [8, 16, 24, 32, 40, 48, 56]
    one (.vsfnRcp vd va mk t) false (sfnBits .rcp t x.mode) ∧ one (.vsfnRsq vd va mk t) false (sfnBits .rsq t x.mode) ∧
    one (.vsfnSqrt vd va mk t) false (sfnBits .sqrt t x.mode) ∧ one (.vsfnExp2 vd va mk t) false (sfnBits .exp2 t x.mode) ∧
    one (.vsfnLog2 vd va mk t) false (sfnBits .log2 t x.mode) ∧ one (.vsfnSin vd va mk t) false (sfnBits .sin t x.mode) ∧
    one (.vsfnCos vd va mk t) false (sfnBits .cos t x.mode) ∧ one (.vsfnTanh vd va mk t) false (sfnBits .tanh t x.mode) ∧
    one (.vmov vd va mk c) c (fun v => (v, 0)) ∧ one (.vcvt vd va vb mk false dt t c) c (convert t dt x.mode false) ∧
    s.Elementwise f x (.vcvt vd va vb mk true dt t c) (.v vd) (runsLen x.vregs[va]) [x.vregs[va], x.vregs[vb]] mk c []
      (fun j => (BitVec.ofNat 64 (sround dt.fmt (exact t (A j)) ((runsElem x.vregs[vb] j).setWidth 32).toNat).1,
        (sround dt.fmt (exact t (A j)) ((runsElem x.vregs[vb] j).setWidth 32).toNat).2)) ∧
    s.Elementwise f x (.vcvtSx vd va vb mk false fmt t c) (.v vd) (runsLen x.vregs[va]) [x.vregs[va]] mk c spans
      (quantElem fmt t (.rnd x.mode) x.vregs[va] []) ∧
    s.Elementwise f x (.vcvtSx vd va vb mk true fmt t c) (.v vd) (runsLen x.vregs[va]) [x.vregs[va], x.vregs[vb]] mk c spans
      (quantElem fmt t .sr x.vregs[va] x.vregs[vb])

/-- R139, R140, R147, R149-R151, R153: what the instructions that make and move elements put at each position, and where the runs of the result split:
those of `vidx` and `vilv` are single elements, that of `vsplat` is one, and `vins` makes its position one of its own. R148: `vdilv` takes every k-th
element into each of k registers, a run each unless `.c` merges them, all or none. R138, R152: a scalar read from a vector or mask register: its
length, its runs, its true elements, its first true element, and one element; a position past the end raises FLT_LENGTH. No register but the
destination changes. R133, R141: `vcoal` keeps every element and merges neighbouring runs of equal value; `vsetl` sets the length, keeping elements
and adding zeros. Either raises FLT_RUN_OVERFLOW where the runs do not fit. -/
def Obligations.Rearrangements : Prop :=
  (∀ (s : State) (f : Nat) (x : Fibre), s.Issues f x → ∀ (vd va vb : VReg) (b : Src) (mk : MReg) (t : Ty) (c : Bool),
     let A := runsElem x.vregs[va]
     let l := runsLen x.vregs[va]
     let w := s.operand x b
     s.Rearranges f x (.vperm vd va vb mk c) vd (runsLen x.vregs[vb]) mk c
       (fun j => let p := ((runsElem x.vregs[vb] j).setWidth 32).toNat; if p < l then A p else 0) (Cut x.vregs[vb]) ∧
     s.Rearranges f x (.vrev vd va mk c) vd l mk c (fun j => A (l - 1 - j)) (fun j => Cut x.vregs[va] (l - j)) ∧
     s.Rearranges f x (.vslideUp vd va b mk) vd l mk false (fun j => if j < w.toNat then 0 else A (j - w.toNat))
       (fun j => j = w.toNat ∨ (w.toNat < j ∧ Cut x.vregs[va] (j - w.toNat))) ∧
     s.Rearranges f x (.vslideDown vd va b mk) vd l mk false (fun j => if j + w.toNat < l then A (j + w.toNat) else 0)
       (fun j => j + w.toNat = l ∨ (j + w.toNat < l ∧ Cut x.vregs[va] (j + w.toNat))) ∧
     s.Rearranges f x (.vsplat vd va b mk t) vd l mk false (fun _ => t.extend (w.setWidth t.width)) (fun _ => False) ∧
     (w.toNat ≤ 64 → s.Rearranges f x (.vidx vd b mk t) vd w.toNat mk false (fun j => t.extend (BitVec.ofNat t.width j)) fun _ => True) ∧
     (64 < w.toNat → exec (.vidx vd b mk t) s = .next (s.trapped f x .length 0 0)) ∧
     (0 < l → w.toNat < runsLen x.vregs[vd] →
       s.Rearranges f x (.vins vd va b) vd (runsLen x.vregs[vd]) 0 false (fun j => if j = w.toNat then A 0 else runsElem x.vregs[vd] j)
         fun j => Cut x.vregs[vd] j ∨ j = w.toNat ∨ j = w.toNat + 1) ∧
     (l = 0 ∨ runsLen x.vregs[vd] ≤ w.toNat → exec (.vins vd va b) s = .next (s.trapped f x .length 0 0)) ∧
     ∀ k, (k = 2 ∨ k = 3 ∨ k = 4) → va.val + k ≤ 16 →
       let i : Instr := if k = 2 then .vilv2 vd va c else if k = 3 then .vilv3 vd va c else .vilv4 vd va c
       let src (n : Nat) : Runs := x.vregs.toList.getD (va.val + n) []
       ((∀ n < k, runsLen (src n) = l) → k * l ≤ 64 → s.Rearranges f x i vd (k * l) 0 c (fun j => runsElem (src (j % k)) (j / k)) fun _ => True) ∧
       ((∃ n < k, runsLen (src n) ≠ l) ∨ 64 < k * l → exec i s = .next (s.trapped f x .length 0 0))) ∧
  (∀ (s : State) (f : Nat) (x : Fibre), s.Issues f x → ∀ (vd va : VReg) (c : Bool) (k : Nat), (k = 2 ∨ k = 3 ∨ k = 4) → vd.val + k ≤ 16 →
     let l := runsLen x.vregs[va]
     let i : Instr := if k = 2 then .vdilv2 vd va c else if k = 3 then .vdilv3 vd va c else .vdilv4 vd va c
     let old := ((List.range k).map fun n => (x.vregs.toList.getD (vd.val + n) []).length).sum
     (l % k ≠ 0 → exec i s = .next (s.trapped f x .length 0 0)) ∧
     (l % k = 0 → ∃ y : Fibre, y = { x with vregs := y.vregs } ∧
       (∀ n < k, let r := y.vregs.toList.getD (vd.val + n) []; runsLen r = l / k ∧ r.length ≤ l / k ∧
         (∀ j < l / k, runsElem r j = runsElem x.vregs[va] (j * k + n)) ∧ x.Split (.v vd) (l / k) 0 c r fun _ => True) ∧
       (∀ v : VReg, v.val < vd.val ∨ vd.val + k ≤ v.val → y.vregs[v] = x.vregs[v]) ∧
       let new := ((List.range k).map fun n => (y.vregs.toList.getD (vd.val + n) []).length).sum
       (new ≤ x.quota - (x.runsUsed - old) → exec i s = .next (s.completed f x y)) ∧
       (x.quota - (x.runsUsed - old) < new → exec i s = .next (s.trapped f x .runOverflow 0 0)))) ∧
  (∀ (s : State) (f : Nat) (x : Fibre), s.Issues f x → ∀ (va : VReg) (ma : MReg) (d : Dst) (b : Src),
     let done (i : Instr) (n : Nat) : Prop := exec i s = .next (s.completed f x (x.write d (BitVec.ofNat 64 n)))
     let truths := (elements x.masks[ma]).map fun v => v.getLsbD 0
     done (.vlen va d) (elements x.vregs[va]).length ∧ done (.vruns va d) x.vregs[va].length ∧ done (.mpop ma d) (truths.count true) ∧
     done (.mfirst ma d) (truths.idxOf true) ∧
     (∀ v, (elements x.vregs[va])[(s.operand x b).toNat]? = some v → exec (.vext va b) s = .next (s.completed f x (x.push v))) ∧
     ((elements x.vregs[va])[(s.operand x b).toNat]? = none → exec (.vext va b) s = .next (s.trapped f x .length 0 0))) ∧
  (∀ (s : State) (f : Nat) (x : Fibre), s.Issues f x → ∀ (vd va : VReg) (b : Src),
     let w := (s.operand x b).toNat
     let writes (i : Instr) (r : Runs) : Prop :=
       (r.length ≤ x.room (.v vd) → exec i s = .next (s.completed f x { x with vregs := x.vregs.set vd.val r })) ∧
       (x.room (.v vd) < r.length → exec i s = .next (s.trapped f x .runOverflow 0 0))
     (∃ r : Runs, writes (.vcoal vd va) r ∧ elements r = elements x.vregs[va] ∧ r.length ≤ x.vregs[va].length ∧
       ∀ i (h : i + 1 < r.length), r[i].value ≠ r[i + 1].value) ∧
     (64 < w → exec (.vsetl vd b) s = .next (s.trapped f x .length 0 0)) ∧
     (w ≤ 64 → ∃ r : Runs, writes (.vsetl vd b) r ∧ runsLen r = w ∧ r.length ≤ x.vregs[vd].length + 1 ∧
       ∀ j < w, runsElem r j = if j < runsLen x.vregs[vd] then runsElem x.vregs[vd] j else 0))

/-- R154, R155: a reduction writes one run of count 1: over the active elements, for an integer or raw type, their sum, their least or greatest, their
AND, OR or XOR, and the identity where there is none; for a floating type by SUMX, SUMORD and R35. R156: element j of a scan is the reduction of the
contributors at positions up to j. Its runs are the segments of va under the mask, but single elements in the active ones for add and xor; `.c`
merges. R157-R159: `vsort` and `vtopk` write the runs of va as units in ascending and in descending total order, `.c` merging, and `vtopk.i` writes
the positions of the elements in descending order; ties stand in ascending position. -/
def Obligations.Reductions_and_sorts : Prop :=
  (∀ (s : State) (f : Nat) (x : Fibre), s.Issues f x → ∀ (vd va : VReg) (mk : MReg) (t : Ty),
     let r := x.vregs[va]
     let active := ((List.range (runsLen r)).filter (x.maskTrue mk)).map (runsElem r)
     let terms := contributors r (maskedSegments r (x.mask mk)) (runsLen r)
     let each : List (Instr × RedOp) :=
       [(.vredAdd vd va mk t, .add), (.vredMin vd va mk t, .min), (.vredMax vd va mk t, .max), (.vredAnd vd va mk t, .and), (.vredOr vd va mk t, .or),
         (.vredXor vd va mk t, .xor)]
     let writes (i : Instr) (v : Flagged Word) : Prop :=
       (1 ≤ x.room (.v vd) → exec i s = .next (s.completed f x (Fibre.orFlags { x with vregs := x.vregs.set vd.val [⟨v.1, 1⟩] } v.2))) ∧
       (x.room (.v vd) = 0 → exec i s = .next (s.trapped f x .runOverflow 0 0))
     (mk ≠ 0 → runsLen x.masks[mk] ≠ runsLen r → ∀ e ∈ each, exec e.1 s = .next (s.trapped f x .length 0 0)) ∧
     (mk = 0 ∨ runsLen x.masks[mk] = runsLen r →
       (∀ e ∈ each, writes e.1 (reduce e.2 t x.mode x.hints.sat terms)) ∧
       (t.isFloat = false → x.hints.sat = false →
         writes (.vredAdd vd va mk t) (t.extend (BitVec.ofInt t.width (active.map fun v => t.number (v.setWidth t.width)).sum), 0)) ∧
       (t.isFloat = false →
         writes (.vredMin vd va mk t) (active.foldl (minInt t) (t.extend (if t.signed then BitVec.intMax t.width else BitVec.allOnes t.width)), 0) ∧
         writes (.vredMax vd va mk t) (active.foldl (maxInt t) (t.extend (if t.signed then BitVec.intMin t.width else 0)), 0)) ∧
       writes (.vredAnd vd va mk t) (((active.map fun v => v.setWidth t.width).foldl (· &&& ·) (BitVec.allOnes t.width)).setWidth 64, 0) ∧
       writes (.vredOr vd va mk t) (((active.map fun v => v.setWidth t.width).foldl (· ||| ·) (0 : BitVec t.width)).setWidth 64, 0) ∧
       writes (.vredXor vd va mk t) (((active.map fun v => v.setWidth t.width).foldl (· ^^^ ·) (0 : BitVec t.width)).setWidth 64, 0))) ∧
  (∀ (s : State) (f : Nat) (x : Fibre), s.Issues f x → ∀ (vd va : VReg) (mk : MReg) (t : Ty) (c : Bool),
     let r := x.vregs[va]
     let segs := maskedSegments r (x.mask mk)
     let each : List (Instr × RedOp) :=
       [(.vscanAdd vd va mk t c, .add), (.vscanMin vd va mk t c, .min), (.vscanMax vd va mk t c, .max), (.vscanAnd vd va mk t c, .and),
         (.vscanOr vd va mk t c, .or), (.vscanXor vd va mk t c, .xor)]
     ∀ e ∈ each,
       (mk ≠ 0 → runsLen x.masks[mk] ≠ runsLen r → exec e.1 s = .next (s.trapped f x .length 0 0)) ∧
       (mk = 0 ∨ runsLen x.masks[mk] = runsLen r → ∃ (q : Runs) (fl : FlagSet),
         q.length ≤ runsLen r ∧ runsLen q = runsLen r ∧
         (∀ j < runsLen r, runsElem q j = (reduce e.2 t x.mode x.hints.sat (contributors r segs (j + 1))).1) ∧
         x.Split (.v vd) (runsLen r) 0 c q (fun j => Cut r j ∨ (mk ≠ 0 ∧ Cut x.masks[mk] j) ∨ ((e.2 = .add ∨ e.2 = .xor) ∧ x.maskTrue mk j = true)) ∧
         (q.length ≤ x.room (.v vd) → exec e.1 s = .next (s.completed f x (Fibre.orFlags { x with vregs := x.vregs.set vd.val q } fl))) ∧
         (x.room (.v vd) < q.length → exec e.1 s = .next (s.trapped f x .runOverflow 0 0)))) ∧
  (∀ (s : State) (f : Nat) (x : Fibre), s.Issues f x → ∀ (vd va : VReg) (t : Ty) (c : Bool),
     let r := x.vregs[va]
     let writes (i : Instr) (q : Runs) : Prop :=
       (q.length ≤ x.room (.v vd) → exec i s = .next (s.completed f x { x with vregs := x.vregs.set vd.val q })) ∧
       (x.room (.v vd) < q.length → exec i s = .next (s.trapped f x .runOverflow 0 0))
     let key (p : Nat) : Int := totalKey t (r.getD p ⟨0, 0⟩).value
     let sorts (i : Instr) (before : Nat → Nat → Prop) : Prop := ∃ (q : Runs) (order : List Nat),
       let moved := order.map fun p => r.getD p ⟨0, 0⟩
       writes i q ∧ q.length ≤ runsLen r ∧ order.Perm (List.range r.length) ∧ order.Pairwise before ∧ elements q = elements moved ∧
       x.Split (.v vd) (runsLen r) 0 c q (Cut moved)
     sorts (.vsort vd va t c) (fun p q => key p < key q ∨ (key p = key q ∧ p < q)) ∧
     sorts (.vtopk vd va t c) (fun p q => key q < key p ∨ (key p = key q ∧ p < q)) ∧
     (∃ order : List Nat, writes (.vtopkI vd va t) (order.map fun p => ⟨BitVec.ofNat 64 p, 1⟩) ∧ order.Perm (List.range (runsLen r)) ∧
       order.Pairwise fun p q => totalKey t (runsElem r q) < totalKey t (runsElem r p) ∨ (totalKey t (runsElem r p) = totalKey t (runsElem r q) ∧ p < q)))

/-- R160, R161, R163, R165-R168: in the mask form an instruction completes within its pass, over the members of the pass whose convoy-relative index has
its bit set in the fibre's own word, each as the pass began (itself alone where its own bit is clear; a fibre of no group is alone, assumption 92):
`shfl` copies the va of the participant of the source rank, or its own; votes combine the participants' truths; `xred` reduces them element by
element, and unequal lengths raise FLT_LENGTH. R160, R162-R164, R168: in the list form a detached fibre raises FLT_DETACHED, a list out of limits
FLT_MASK_MISMATCH; a fibre that its list does not name acts alone; one that it names stalls at the instruction until every listed fibre has arrived at
it with the same word, and then all complete together, each with the result of its own rank. A result that does not fit is held, and the same word at
the same address writes it without a new meeting. The model's choices: a new held result replaces an older one (assumption 108), a ballot over more
than 64 ranks keeps the first 64 (assumption 107), and FLT_DETACHED comes before FLT_MASK_MISMATCH (assumption 114). R162: a waiting fibre of the list
that completes goes on past its instruction, with its own result, its new operations to the slice numbered (R213). -/
def Obligations.Cross_fibre : Prop :=
  (∀ (s : State) (f : Nat) (x : Fibre), s.Issues f x → ∀ (vd va : VReg) (md : MReg) (b : Src) (d : Fin 32) (pd ps : Fin 8) (neg : Bool) (t : Ty),
     (s.operand x b).msb = false →
     let bits := ((s.operand x b).setWidth 32).toNat
     let set := s.maskSet f bits x
     let writes (i : Instr) (dest : VDest) (r : Flagged Runs) : Prop :=
       (dest.isM0 = true → exec i s = .next (s.completed f x x)) ∧
       (dest.isM0 = false → r.1.length ≤ x.room dest → exec i s = .next (s.completed f x ((x.setRuns dest r.1).orFlags r.2))) ∧
       (dest.isM0 = false → x.room dest < r.1.length → exec i s = .next (s.settle f x (.trapIn (s.setFibre f x) .runOverflow 0)))
     let from_ (rank : Int) : Runs := match set.parts.find? fun e => (e.1 : Int) == rank with
       | some e => e.2.vregs[va]
       | none => x.vregs[va]
     let truth (e : Nat × Fibre) : Bool := e.2.preds.getLsbD ps.val != neg
     let rs := set.parts.map fun e => e.2.vregs[va]
     let each : List (Instr × RedOp) :=
       [(.xredAdd vd va b t, .add), (.xredMin vd va b t, .min), (.xredMax vd va b t, .max), (.xredAnd vd va b t, .and), (.xredOr vd va b t, .or),
         (.xredXor vd va b t, .xor)]
     (∀ p, s.pass = some p →
       let own := p.members.idxOf f
       (x.group ≠ none → bits.testBit own = true → set.rank = own ∧ (set.parts.map (·.1)).Pairwise (· < ·) ∧
         ∀ e, e ∈ set.parts ↔ bits.testBit e.1 = true ∧ ∃ m, p.members[e.1]? = some m ∧ p.snapshot.get? m = some e.2) ∧
       (x.group = none ∨ bits.testBit own = false → set.rank = 0 ∧ set.parts = [(0, x)])) ∧
     writes (.shflIdx vd va b d) (.v vd) (from_ d.val, 0) ∧ writes (.shflUp vd va b d) (.v vd) (from_ (set.rank - d.val), 0) ∧
     writes (.shflDown vd va b d) (.v vd) (from_ (set.rank + d.val), 0) ∧ writes (.shflXor vd va b d) (.v vd) (from_ (set.rank ^^^ d.val : Nat), 0) ∧
     exec (.voteAny pd neg ps b) s = .next (s.completed f x (x.setPred pd (set.parts.any truth))) ∧
     exec (.voteAll pd neg ps b) s = .next (s.completed f x (x.setPred pd (set.parts.all truth))) ∧
     (∃ r : Runs, writes (.voteBallot md neg ps b) (.m md) (r, 0) ∧ runsLen r = 32 ∧
       (∀ j < 32, runsElem r j = if set.parts.any fun e => e.1 == j && truth e then 1 else 0) ∧ ∀ i (h : i + 1 < r.length), r[i].value ≠ r[i + 1].value) ∧
     ∀ e ∈ each,
       ((∃ r ∈ rs, runsLen r ≠ runsLen (rs.headD [])) → exec e.1 s = .next (s.settle f x (.trapIn (s.setFibre f x) .length 0))) ∧
       ((∀ r ∈ rs, runsLen r = runsLen (rs.headD [])) → ∃ (q : Runs) (fl : FlagSet), writes e.1 (.v vd) (q, fl) ∧ runsLen q = runsLen (rs.headD []) ∧
         ∀ j < runsLen q, runsElem q j = (reduce e.2 t x.mode x.hints.sat (rs.map fun r => (runsElem r j, 1))).1)) ∧
  (∀ (s : State) (f : Nat) (x : Fibre), s.Issues f x → ∀ (vd va : VReg) (md : MReg) (b : Src) (d : Fin 32) (pd ps : Fin 8) (neg : Bool) (t : Ty),
     (s.operand x b).msb = true →
     let w := s.operand x b
     let first := (w.extractLsb' 0 10).toNat
     let count := (w.extractLsb' 10 11).toNat
     let stride := (w.extractLsb' 21 10).toNat
     let idx := (List.range count).map fun k => first + k * stride
     let why := Stall.list w false x.pc
     let truth (y : Fibre) : Bool := y.preds.getLsbD ps.val != neg
     let pick (c : CrossSet) (y : Fibre) (rank : Int) : Flagged Runs := (match c.parts.find? fun e => (e.1 : Int) == rank with
       | some e => e.2.vregs[va]
       | none => y.vregs[va], 0)
     let moves : List (Instr × VDest × (CrossSet → Fibre → Flagged Runs)) :=
       [(.shflIdx vd va b d, .v vd, fun c y => pick c y d.val), (.shflUp vd va b d, .v vd, fun c y => pick c y (c.rank - d.val)),
         (.shflDown vd va b d, .v vd, fun c y => pick c y (c.rank + d.val)), (.shflXor vd va b d, .v vd, fun c y => pick c y (c.rank ^^^ d.val : Nat)),
         (.voteBallot md neg ps b, .m md, fun c _ => (ballotRuns c neg ps, 0))]
     let reds : List (Instr × RedOp) :=
       [(.xredAdd vd va b t, .add), (.xredMin vd va b t, .min), (.xredMax vd va b t, .max), (.xredAnd vd va b t, .and), (.xredOr vd va b t, .or),
         (.xredXor vd va b t, .xor)]
     let votes : List (Instr × (CrossSet → Bool)) :=
       [(.voteAny pd neg ps b, fun c => c.parts.any fun e => truth e.2), (.voteAll pd neg ps b, fun c => c.parts.all fun e => truth e.2)]
     let reduced (e : Instr × RedOp) (y : Fibre) (rs : List Runs) : Flagged Runs := crossReduce e.2 t y.mode y.hints.sat rs
     let writes (i : Instr) (dest : VDest) (u : State) (y kept : Fibre) (r : Flagged Runs) : Prop :=
       (dest.isM0 = true → exec i s = .next (s.settle f x (.done (u.setFibre f y)))) ∧
       (dest.isM0 = false → r.1.length ≤ x.room dest → exec i s = .next (s.settle f x (.done (u.setFibre f ((y.setRuns dest r.1).orFlags r.2))))) ∧
       (dest.isM0 = false → x.room dest < r.1.length → exec i s = .next (s.settle f x (.trapIn (u.setFibre f kept) .runOverflow 0)))
     let every (p : Instr → Prop) : Prop := (∀ e ∈ moves, p e.1) ∧ (∀ e ∈ reds, p e.1) ∧ ∀ e ∈ votes, p e.1
     let hold (y : Fibre) (r : Flagged Runs) : Fibre := { y with held := some ⟨x.pc, w, r.1, r.2⟩ }
     let alone : CrossSet := ⟨0, [(0, x)], 1⟩
     let anew := ∀ h, x.held = some h → h.at_ ≠ x.pc ∨ h.word ≠ w
     (x.group = none → every fun i => exec i s = .next (s.trapped f x .detached 0 0)) ∧
     ∀ g, x.group = some g →
       (count = 0 ∨ 1024 < count ∨ stride = 0 ∨ s.indexBound g ≤ first + (count - 1) * stride → every fun i => exec i s = .next (s.trapped f x .maskMismatch 0 0)) ∧
       (0 < count → count ≤ 1024 → 0 < stride → first + (count - 1) * stride < s.indexBound g →
         (x.fid ∉ idx →
           (anew → ∀ e ∈ moves, let r := e.2.2 alone x; writes e.1 e.2.1 s x (hold x r) r) ∧
           (anew → ∀ e ∈ reds, let r := reduced e x [x.vregs[va]]; writes e.1 (.v vd) s x (hold x r) r) ∧
           ∀ e ∈ votes, exec e.1 s = .next (s.completed f x (x.setPred pd (e.2 alone)))) ∧
         (x.fid ∈ idx → s.arrived f g why idx = none → (∀ e ∈ votes, exec e.1 s = .next (s.settle f x (.arrive why))) ∧
           (anew → every fun i => exec i s = .next (s.settle f x (.arrive why)))) ∧
         (x.fid ∈ idx → ∀ here, s.arrived f g why idx = some here →
           let at_ (rank : Nat) : CrossSet := ⟨rank, here.map fun e => (e.1, e.2.2), count⟩
           let me := at_ (idx.idxOf x.fid)
           let others (k : CrossSet → Fibre → CrossResult) : State :=
             (here.filter fun e => e.2.1 != f).foldl (fun u e => u.completeListed e.2.1 w (k (at_ e.1))) s
           let rs := me.parts.map fun e => e.2.vregs[va]
           (anew → ∀ e ∈ moves, let r := e.2.2 me x; writes e.1 e.2.1 (others fun c y => .runs e.2.1 (e.2.2 c y)) x (hold x r) r) ∧
           (anew → (∀ r ∈ rs, runsLen r = runsLen (rs.headD [])) → ∀ e ∈ reds,
             let r := reduced e x rs
             writes e.1 (.v vd) (others fun _ y => .runs (.v vd) (reduced e y rs)) x (hold x r) r) ∧
           (anew → (∃ r ∈ rs, runsLen r ≠ runsLen (rs.headD [])) → ∀ e ∈ reds,
             exec e.1 s = .next (s.settle f x (.trapIn ((others fun _ _ => .fault .length).setFibre f x) .length 0))) ∧
           ∀ e ∈ votes, exec e.1 s = .next (s.settle f x (.done ((others fun c y => .other (y.setPred pd (e.2 c))).setFibre f (x.setPred pd (e.2 me)))))) ∧
         (∀ h, x.held = some h → h.at_ = x.pc → h.word = w →
           let y : Fibre := { x with held := none }
           (∀ e ∈ moves, writes e.1 e.2.1 s y (hold y (h.runs, h.flags)) (h.runs, h.flags)) ∧
           ∀ e ∈ reds, writes e.1 (.v vd) s y (hold y (h.runs, h.flags)) (h.runs, h.flags)))) ∧
  (∀ (s : State) (h : Nat) (y z : Fibre) (w : Word) (k : Fibre → CrossResult), s.fibres.get? h = some y → k y = .other z → s.Undebugged →
     (s.completeListed h w k).fibres = s.fibres.put h z.commitQueues.advance.wake.numbered)

/-- R176, R177, R190: where an access of n bytes goes. One that is not aligned raises FLT_ALIGN, one above 2^52 FLT_TRANSLATION. In the local window the
grant of the fibre's group is reached, by a member alone, and the grant word is only read. Elsewhere a page is needed: mapped, resident and reachable,
and writable for a write outside the areas that only the device writes; a load or an atomic to a package that no path reaches raises FLT_ACCESS
(R426). An access changes no more of the machine than what its walker holds, but that the bytes of a new block become free on their first access
(R310; assumption 46). -/
def Obligations.Access_checks : Prop :=
  ∀ (s : State) (f : Nat) (x : Fibre) (a : Access) (va : Word) (n : Nat), 0 < n →
    let v := va.toNat
    let o := v - Config.windowBase
    (v % n ≠ 0 → s.locate f x a va n n = .error .align) ∧
    (v % n = 0 → 2 ^ 52 ≤ v → s.locate f x a va n n = .error .translation) ∧
    (v % n = 0 → v < 2 ^ 52 → Config.windowBase ≤ v → o < Config.stackOffset →
      (x.group = none → a.detach = true → s.locate f x a va n n = .error .detached) ∧
      ∀ k g, x.group = some k → s.groups.get? k = some g →
        s.locate f x a va n n = if a.slice = true ∧ o + n ≤ g.grant then .ok (.slice o, s) else .error .access) ∧
    (v % n = 0 → v < 2 ^ 52 → Config.windowBase ≤ v → Config.stackOffset ≤ o →
      (o < Config.grantOffset ∨ a.write = true ∨ a.grant = false → s.locate f x a va n n = .error .access) ∧
      (Config.grantOffset ≤ o → a.write = false → a.grant = true →
        s.locate f x a va n n = if x.group = none then .error .detached else .ok (.grant (o - Config.grantOffset), s))) ∧
    (v % n = 0 → v < Config.windowBase →
      ((s.translate (.core x.core) x.context v).1 = none → s.locate f x a va n n = .error .translation) ∧
      ∀ size leaf, (s.translate (.core x.core) x.context v).1 = some (size, leaf) →
        let off := entryOffset leaf + v % size
        (leafResident leaf = false ∨ s.leafReachable leaf off = false → s.locate f x a va n n = .error .translation) ∧
        let lost := leafNode leaf ≠ s.node ∧ leafNode leaf ∈ s.link.unreachable ∧ (a.write = false ∨ a.atomic = true)
        (leafResident leaf = true → s.leafReachable leaf off = true → lost → s.locate f x a va n n = .error .access) ∧
        (leafResident leaf = true → s.leafReachable leaf off = true → ¬ lost →
          (a.write = true → leafWritable leaf = false ∨ s.inDeviceArea x.context v n = true → s.locate f x a va n n = .error .access) ∧
          ((a.write = true → leafWritable leaf = true ∧ s.inDeviceArea x.context v n = false) → a.orderedOk = true ∨ leafOrdered leaf = false →
            let pa := nodeKey s.node (leafNode leaf) (entryTier leaf) off
            let u := (s.translate (.core x.core) x.context v).2
            s.locate f x a va n n = .ok
              (.mem pa (leafComp leaf) (leafOrdered leaf) (policyFor x.hints.cache (leafPolicy leaf)) v, u.freshen x.context v pa (leafComp leaf)) ∧
            ((∀ k, u.contexts.get? x.context = some k → v / 256 * 256 ∉ k.unset) → u.freshen x.context v pa (leafComp leaf) = u))))

/-- R79, R172, R191, R195, R410: `ld` and `ldt` issue: a located load is outstanding in the ld class, for its destination; an age slot is pushed for it,
and a bound store queue takes it as its next element. A misplaced one raises its fault with its address, and a full counter holds the fibre. In a
target program a load of a page that is not writable reads at once. R79, R171, R196, R197: vector and block loads and `qbind` issue, held until their
data return; a misplaced one raises its fault, lengths that differ FLT_LENGTH, and a full counter holds the fibre. `qfree` unbinds at once, and its
register reads 0 (R173). -/
def Obligations.Loads_issue : Prop :=
  (∀ (s : State) (f : Nat) (x : Fibre), s.Issues f x → ∀ (d : Dst) (base : Src) (t : Ty) (off : BitVec 8),
     let va := s.operand x base + x.signedImm off
     let n := t.width / 8
     let loads (i : Instr) (a : Access) (sampler : Bool) : Prop :=
       (x.target = none → 4095 ≤ x.counts.ld → exec i s = .next (s.settle f x (.stall (.counter 0)))) ∧
       (x.target = none → x.counts.ld < 4095 →
         (∀ e, s.locate f x a va n n = .error e → exec i s = .next (s.trapped f x e va 0)) ∧
         ∀ loc u, s.locate f x a va n n = .ok (loc, u) →
           let hold := u.mayFault f x n [loc]
           let issues (y : Fibre) (dest : PendDest) : Prop := exec i s = .next (s.settle f x (.done (u.setFibre f
             (y.outstanding (.load loc t sampler) dest hold))))
           (∀ e rest, x.pushing = e :: rest → issues x (.element e.2.1 e.2.2)) ∧
           (x.pushing = [] → (∀ j, d = .n j → issues x (.named j.val)) ∧ (d = .push → hold = false → issues (x.push 0) (.age 0)) ∧
             (d = .push → hold = true → issues x .pushAtReturn))) ∧
       (x.target.isSome = true → ∀ loc u size leaf, s.locate f x { slice := false, detach := false } va n n = .ok (loc, u) →
         (u.translate (.core x.core) x.context va.toNat).1 = some (size, leaf) →
         (leafWritable leaf = true → exec i s = .next (s.trapped f x .access va 0)) ∧
         ∀ bs v, leafWritable leaf = false → u.samplerError f x n loc = false → u.readSampler f x loc n = (some bs, v) →
           exec i s = .next (s.settle f x (.done (v.setFibre f (x.write d (t.extend (BitVec.ofNat t.width (natOfBytes bs))))))))
     loads (.ld d base t off) { grant := true } false ∧ loads (.ldt d base t off) { slice := false, detach := false } true) ∧
  (∀ (s : State) (f : Nat) (x : Fibre), s.Issues f x →
     ∀ (base : Src) (vd vx : VReg) (mk : MReg) (t : Ty) (fmt : SxFmt) (voff : BitVec 7) (sh : Fin 8) (q : Fin 4),
     let n := t.width / 8
     let issued (u : State) (op : PendOp) (dest : PendDest) : Host.Outcome State Fault Refusal :=
       .next (s.settle f x (.done (u.setFibre f (x.outstanding op dest true))))
     let act (l : Nat) := (List.range l).filter (x.maskTrue mk)
     let l := runsLen x.vregs[vd]
     let lx := runsLen x.vregs[vx]
     let elements := blockHead fmt
     let at_ := s.operand x base
     let contiguous := (act l).map fun j => at_ + x.signedImm voff + BitVec.ofNat 64 (j * n)
     let indexed := (act lx).map fun j => at_ + (runsElem x.vregs[vx] j <<< sh.val)
     let equal := mk = 0 ∨ runsLen x.masks[mk] = l
     let equalX := mk = 0 ∨ (runsLen x.masks[mk] = lx ∧ l = lx)
     let equalB := mk = 0 ∨ (runsLen x.masks[mk] = elements ∧ l = elements)
     let each : List Instr := [.vld vd mk base t voff, .vldg vd mk base t vx sh, .ldq vd mk base t fmt, .qbind q base]
     (4095 ≤ x.counts.ld → ∀ i ∈ each, exec i s = .next (s.settle f x (.stall (.counter 0)))) ∧
     (x.counts.ld < 4095 →
       (¬ equal → exec (.vld vd mk base t voff) s = .next (s.trapped f x .length 0 0)) ∧
       (equal →
         (∀ e, s.locateAll f x {} n n contiguous = .error e → exec (.vld vd mk base t voff) s = .next (s.trapped f x e.1 e.2 0)) ∧
         ∀ ls u, s.locateAll f x {} n n contiguous = .ok (ls, u) →
           exec (.vld vd mk base t voff) s = issued u (.loadVec ((act l).zip ls) t mk.val l) (.vec vd.val)) ∧
       (¬ equalX → exec (.vldg vd mk base t vx sh) s = .next (s.trapped f x .length 0 0)) ∧
       (equalX →
         (∀ e, s.locateAll f x {} n n indexed = .error e → exec (.vldg vd mk base t vx sh) s = .next (s.trapped f x e.1 e.2 0)) ∧
         ∀ ls u, s.locateAll f x {} n n indexed = .ok (ls, u) →
           exec (.vldg vd mk base t vx sh) s = issued u (.loadVec ((act lx).zip ls) t mk.val lx) (.vec vd.val)) ∧
       (¬ equalB → exec (.ldq vd mk base t fmt) s = .next (s.trapped f x .length 0 0)) ∧
       (equalB →
         (∀ e, s.locate f x { slice := false } at_ 64 64 = .error e → exec (.ldq vd mk base t fmt) s = .next (s.trapped f x e at_ 0)) ∧
         ∀ loc u, s.locate f x { slice := false } at_ 64 64 = .ok (loc, u) →
           exec (.ldq vd mk base t fmt) s = issued u (.loadBlock loc t fmt mk.val) (.vec vd.val)) ∧
       (∀ e, s.locate f x {} at_ 32 32 = .error e → exec (.qbind q base) s = .next (s.trapped f x e at_ 0)) ∧
       ∀ loc u, s.locate f x {} at_ 32 32 = .ok (loc, u) → exec (.qbind q base) s = issued u (.bind q loc) .none) ∧
     exec (.qfree q) s = .next (s.completed f x
       { x with queues := x.queues.set q.val none, named := x.named.set (28 + q.val) 0 (by omega) }))

/-- R79, R191, R195, R196, R198: a store issues: it is outstanding in the st class with the bytes of its width and where they go; memory is as it was. A
misplaced one raises its fault, lengths that differ FLT_LENGTH, one that a task's buffers have no room for FLT_ACCESS (R269; the room is the model's
choice, assumption 33), and a full counter holds the fibre. Where its writes are redirected and find no room, the fibre stalls. Only a speculative
fibre's are: room is that the lines of its launch stay within its budget in KiB and those of its context within the region of each die (R304). The
lines of stores not yet accepted count among them by the model's choice (assumption 87). R253, R254: `swinit` and `swadd` issue as stores of the st
class, with an operand of at most 2^62, at least 1 for a target; any other operand raises FLT_ACCESS, a misplaced word its fault. A speculative fibre
stalls until resolution. Performed, `swinit` leaves count 0, the target and generation 0, and `swadd` adds by ADDSW: with a target the count wraps
there and the generation counts the wraps. -/
def Obligations.Stores_issue : Prop :=
  (∀ (s : State) (f : Nat) (x : Fibre), s.Issues f x →
     ∀ (a base : Src) (vd vb vx : VReg) (mk : MReg) (t : Ty) (fmt : SxFmt) (sr : Bool) (off : BitVec 8) (voff : BitVec 7) (sh : Fin 8),
     let n := t.width / 8
     let each : List Instr := [.st a base t off, .vst vd mk base t voff, .vstg vd mk base t vx sh, .stq vd base t fmt sr vb]
     let issues (i : Instr) (u : State) (ws : List (Loc × List Byte)) (fl : FlagSet) : Prop :=
       (u.bufferRoom x (u.buffering f x (.store ws fl)) = false →
         exec i s = .next (s.trapped f x .access (((ws.map (·.1)).find? (u.buffers f x)).elim 0 Loc.address) 0)) ∧
       (u.bufferRoom x (u.buffering f x (.store ws fl)) = true →
         (u.specRoom f x ws = true → exec i s = .next (s.settle f x (.done (u.setFibre f
           (x.outstanding (.store ws fl) .none false))))) ∧
         (u.specRoom f x ws = false → exec i s = .next (s.settle f x (.stall .specRoom))))
     let R := x.vregs[vd]
     let active := (List.range (runsLen R)).filter (x.maskTrue mk)
     let bytes := active.map fun j => bytesOfNat n (((runsElem R j).setWidth t.width).toNat)
     let contiguous := active.map fun j => s.operand x base + x.signedImm voff + BitVec.ofNat 64 (j * n)
     let indexed := active.map fun j => s.operand x base + (runsElem x.vregs[vx] j <<< sh.val)
     let values := x.blockValues vd fmt
     let draws := if sr then x.blockValues vb fmt else []
     let va := s.operand x base + x.signedImm off
     let vq := s.operand x base
     let blocks := values.length ≤ fmt.elements ∧ (sr = true → draws.length = values.length)
     let equal := mk = 0 ∨ runsLen x.masks[mk] = runsLen R
     (4095 ≤ x.counts.st → ∀ i ∈ each, exec i s = .next (s.settle f x (.stall (.counter 1)))) ∧
     (x.counts.st < 4095 →
       (∀ e, s.locate f x { write := true } va n n = .error e → exec (.st a base t off) s = .next (s.trapped f x e va 0)) ∧
       (∀ loc u, s.locate f x { write := true } va n n = .ok (loc, u) →
         issues (.st a base t off) u [(loc, bytesOfNat n ((s.operand x a).setWidth t.width).toNat)] 0) ∧
       (¬ equal → ∀ i ∈ [Instr.vst vd mk base t voff, .vstg vd mk base t vx sh], exec i s = .next (s.trapped f x .length 0 0)) ∧
       (runsLen x.vregs[vx] ≠ runsLen R → exec (.vstg vd mk base t vx sh) s = .next (s.trapped f x .length 0 0)) ∧
       (equal →
         (∀ e, s.locateAll f x { write := true } n n contiguous = .error e → exec (.vst vd mk base t voff) s = .next (s.trapped f x e.1 e.2 0)) ∧
         (∀ ls u, s.locateAll f x { write := true } n n contiguous = .ok (ls, u) → issues (.vst vd mk base t voff) u (ls.zip bytes) 0) ∧
         (runsLen x.vregs[vx] = runsLen R →
           (∀ e, s.locateAll f x { write := true } n n indexed = .error e → exec (.vstg vd mk base t vx sh) s = .next (s.trapped f x e.1 e.2 0)) ∧
           ∀ ls u, s.locateAll f x { write := true } n n indexed = .ok (ls, u) → issues (.vstg vd mk base t vx sh) u (ls.zip bytes) 0)) ∧
       (¬ blocks → exec (.stq vd base t fmt sr vb) s = .next (s.trapped f x .length 0 0)) ∧
       (blocks →
         (∀ e, s.locate f x { write := true, slice := false } vq 64 64 = .error e → exec (.stq vd base t fmt sr vb) s = .next (s.trapped f x e vq 0)) ∧
         ∀ loc u, s.locate f x { write := true, slice := false } vq 64 64 = .ok (loc, u) →
           let q := sxQuantise fmt 0 (if sr then .sr else .rnd x.mode) (values.map (exact t)) (draws.map fun v => v.toNat % 2 ^ 32)
           issues (.stq vd base t fmt sr vb) u [(loc, q.1)] q.2)) ∧
     (∀ (u : State) ws fl, (∀ w ∈ ws, u.buffers f x w.1 = false) → u.bufferRoom x (u.buffering f x (.store ws fl)) = true) ∧
     (x.speculative = false → ∀ u ws, State.specRoom u f x ws = true) ∧
     (x.speculative = true → ∀ (u : State) (l : Launch) (k : Context) ws,
       u.launches.get? x.launch = some l → u.contexts.get? x.context = some k →
       let mine := distinct (u.launchLines x.launch l.spec ++ u.redirected f x ws)
       let others := (u.launches.filter fun e => e.1 != x.launch && e.2.context == x.context).map fun e => distinct (u.launchLines e.1 e.2.spec)
       let on (d : Nat) (ls : List (Nat × Nat)) : Nat := (ls.filter fun k => lineDie k.2 == d).length
       (u.specRoom f x ws = true ↔ mine.length * 64 ≤ l.record.budget * 1024 ∧
         ∀ d < 2, (on d mine + (others.map (on d)).sum) * 64 ≤ k.desc.specMib * 2 ^ 20))) ∧
  ((∀ (s : State) (f : Nat) (x : Fibre), s.Issues f x → ∀ (a b : Src),
     let va := s.operand x a
     let n := s.operand x b
     let each (p : Instr → Prop) : Prop := p (.swinit a b) ∧ p (.swadd a b)
     (x.speculative = true → each fun i => exec i s = .next (s.settle f x (.stall .resolution))) ∧
     (x.speculative = false → 4095 ≤ x.counts.st → each fun i => exec i s = .next (s.settle f x (.stall (.counter 1)))) ∧
     (x.speculative = false → x.counts.st < 4095 →
       (∀ e, s.locate f x (syncAccess true) va 32 32 = .error e → each fun i => exec i s = .next (s.trapped f x e va 0)) ∧
       ∀ (loc : Loc) (u : State), s.locate f x (syncAccess true) va 32 32 = .ok (loc, u) →
         let issued (op : PendOp) : Host.Outcome State Fault Refusal := .next (s.settle f x (.done (u.setFibre f (x.outstanding op .none loc.node.isSome))))
         (1 ≤ n.toNat → n.toNat ≤ 2 ^ 62 → exec (.swinit a b) s = issued (.syncInit loc n)) ∧ (n.toNat ≤ 2 ^ 62 → exec (.swadd a b) s = issued (.syncAdd loc n)) ∧
         (n = 0 → exec (.swinit a b) s = .next (s.trapped f x .access va 0)) ∧
         (2 ^ 62 < n.toNat → each fun i => exec i s = .next (s.trapped f x .access va 0)))) ∧
   ∀ (w : List Byte), w.length = 32 →
     (∀ target : Word, let r := initSyncWord target w
       fieldOf r 0 8 = 0 ∧ fieldOf r 8 8 = target.toNat ∧ fieldOf r 16 4 = 0 ∧ r.drop 20 = w.drop 20 ∧ r.length = 32) ∧
     ∀ n, let r := addSyncWord n w
       let sum := fieldOf w 0 8 + n
       let target := fieldOf w 8 8
       r.length = 32 ∧ fieldOf r 8 8 = target ∧ r.drop 20 = w.drop 20 ∧
       (target = 0 → fieldOf r 0 8 = sum % 2 ^ 64 ∧ fieldOf r 16 4 = fieldOf w 16 4) ∧
       (target ≠ 0 → fieldOf r 0 8 = sum % target ∧ fieldOf r 16 4 = (fieldOf w 16 4 + sum / target) % 2 ^ 32))

/-- R181, R191, R195, R269, R281, R304: what a read of a fibre finds. Of the slice: the bytes there, but those that it has not acquired are free. On an
ordered page, in a task: memory as its phase began. Else, for a speculative fibre, the bytes that its group has redirected, and under them the core's
dirty bytes, then the line that the core holds, or its home; with the policy that bypasses L1, the home after the line's write-back (R72). No freed
byte is among them (R311), and the core holds no byte of the tile dirty under another class (R359). Nothing but what the core caches changes by it.
R186, R269, R304: what a read through the sampler path finds, without compression: on an ordered page, in a task, memory as its phase began; else,
under the bytes that a speculative fibre's group has redirected, the line that the sampler cache holds, or the home after the core's own dirty bytes
of the line. R88, R172, R191: where a returned value goes: into the age slot that was pushed at issue, or a slot pushed now; into the named register,
whose value also goes to the store queues that the unit pushes; or it becomes the outstanding store of a queue's element. The operation is over, and
nothing else of the fibre changes. R190, R191, R195-R197, R171: the data of a load return, once no earlier operation of the fibre to its bytes is
outstanding and its package is reached. A scalar load's destination receives them extended by the type; a vector load's, at its active elements, as
maximal runs; a block load's, its elements' exact values; a queue is bound to its descriptor. A read that faults raises its fault at the unit of the
load: FLT_ACCESS where no path has reached the package for 10 ms (R426), FLT_ECC where later units waited for it (assumption 32), FLT_DECODE for a
tile that breaks R355. Nothing else changes but what the end of a waited unit does. R443, R449: the end of a unit that waited for its data changes
nothing, where no group is being debugged, but the records of open trace sessions and a mark of the pass in progress; of an operation that later units
did not wait for there is nothing to end. R72, R181, R191, R213, R215, R269, R281, R304, R359: where the bytes of a write of a fibre go. In the slice
of its group they are there, and every other byte of the slice is as it was; here no matrix command has read or may read the slice. On an ordered
page, a task's write is buffered for its launch. A speculative fibre's is redirected for its group, or finds no room. Else its core holds the bytes
dirty under its release sequence and their class, where L1 has room for the lines: what it held of the line under an older release, or of the tile
under another class, goes home (assumption 11), and no other byte at home changes. A policy that bypasses L1 writes the home. R191, R192, R195, R196,
R198: a store of a fibre, of one element or of many, is performed when no earlier operation of the fibre touches its bytes and no store of an earlier
member of its pass to them is outstanding: its writes are made in order, the operation is over, and its flags join. Before that, and where a
redirected write finds no room (R304), nothing happens. -/
def Obligations.Loads_and_stores_perform : Prop :=
  (∀ (s : State) (f n : Nat) (x : Fibre) (who : Party),
     let core := s.core x.core
     let redirected (a : Nat) : Option SpecByte := if x.speculative then (s.specBytes x.launch (s.specGroup f x)).find? fun b => b.pa == a else none
     let laid (pa : Nat) (under : Nat → Byte) : List Byte := (List.range n).map fun i => match redirected (pa + i), core.dirty.get? (pa + i) with
       | some b, _ => b.value
       | none, some b => b.value
       | none, none => under i
     let reads (loc : Loc) (bs : List Byte) : Prop := ∃ u : State, s.readLoc f x loc n who = (some bs, u) ∧ u.fibres = s.fibres ∧ u.groups = s.groups ∧
       ∀ c, c ≠ x.core → u.core c = s.core c
     (∀ g off r, x.group = some g → s.groups.get? g = some r → ∃ bs u, s.readLoc f x (.slice off) n who = (some bs, u) ∧ u = { s with freeCount := u.freeCount } ∧
       ∀ i < n, r.unacquired who (off + i) = false → bs[i]? = some (r.slice.read (off + i))) ∧
     (∀ pa comp policy va t l, s.taskOf f x = some t → s.launches.get? t.1 = some l → s.Unfreed x.context va n →
       s.readLoc f x (.mem pa comp true policy va) n who = (l.phaseMem.read pa n comp, s)) ∧
     ∀ pa comp ordered policy va, ordered = false ∨ s.phaseImages f x = none → s.Unfreed x.context va n →
       (∀ e ∈ core.dirty, e.1 / 256 = pa / 256 → e.2.comp = comp) → core.dirty.Pairwise (fun a b => a.1 < b.1) →
       (comp = 0 → policy ≠ .nol1 → (∀ l ∈ core.clean, pa + n ≤ l.pa + l.bytes.length ∨ l.pa + l.bytes.length ≤ pa) → pa % 64 + n ≤ 64 →
         reads (.mem pa 0 ordered policy va) (laid pa fun i => match findLine core.clean pa 0 with
           | some l => l.bytes.getD (pa + i - l.pa) 0
           | none => s.home.mem.read (pa + i))) ∧
       (comp = 0 → policy = .nol1 → pa % 64 + n ≤ 64 → reads (.mem pa 0 ordered .nol1 va) (laid pa fun i => s.home.mem.read (pa + i))) ∧
       (comp ≠ 0 → policy ≠ .nol1 → findLine core.clean pa comp = none → allDirty core.dirty pa n = false →
         (∀ raw, s.home.read pa n comp = some raw → raw.length = n → reads (.mem pa comp ordered policy va) (laid pa fun i => raw.getD i 0)) ∧
         (s.home.read pa n comp = none → (s.readLoc f x (.mem pa comp ordered policy va) n who).1 = none))) ∧
  (∀ (s : State) (f n pa va : Nat) (x : Fibre) (policy : CachePolicy), s.Unfreed x.context va n →
     let core := s.core x.core
     let redirected (a : Nat) : Option SpecByte := if x.speculative then (s.specBytes x.launch (s.specGroup f x)).find? fun b => b.pa == a else none
     (∀ comp t l, s.taskOf f x = some t → s.launches.get? t.1 = some l → s.readSampler f x (.mem pa comp true policy va) n = (l.phaseMem.read pa n comp, s)) ∧
     ∀ ordered, ordered = false ∨ s.phaseImages f x = none → pa % 64 + n ≤ 64 →
       (∀ l ∈ core.sampler, pa + n ≤ l.pa + l.bytes.length ∨ l.pa + l.bytes.length ≤ pa) → core.dirty.Pairwise (fun a b => a.1 < b.1) →
       (∀ e ∈ s.cores, ∀ d ∈ e.2.dirty, d.1 / 256 = pa / 256 → e.1 = x.core ∧ d.2.comp = 0) →
       ∃ u, s.readSampler f x (.mem pa 0 ordered policy va) n = (some ((List.range n).map fun i => match redirected (pa + i), findLine core.sampler pa 0 with
         | some b, _ => b.value
         | none, some l => l.bytes.getD (pa + i - l.pa) 0
         | none, none => match core.dirty.get? (pa + i) with
           | some b => b.value
           | none => s.home.mem.read (pa + i)), u) ∧ u.fibres = s.fibres ∧ u.groups = s.groups) ∧
  (∀ (x : Fibre) (k : Nat) (p : Pend) (v : Word), x.pend[k]? = some p →
     let rest : Fibre := { x with pend := x.pend.eraseIdx k, counts := { x.counts with ld := x.counts.ld - 1 } }
     (∀ i, (h : i < 16) → p.dest = .age i → x.returnValues k p [v] = { rest with ages := x.ages.set i v }) ∧
     (p.dest = .pushAtReturn → x.returnValues k p [v] = rest.push v) ∧
     (∀ j, (h : j < 32) → p.dest = .named j → x.returnValues k p [v] =
       { rest with
         named := x.named.set j v
         pend := x.pend.take k ++ p.pushes.map (Fibre.pushStore { rest with named := x.named.set j v } p.unit) ++ x.pend.drop (k + 1) }) ∧
     (∀ t loc, p.dest = .element t loc → x.returnValues k p [v] =
       { x with
         counts := { x.counts with ld := x.counts.ld - 1 }
         pend := x.pend.set k { p with op := .store [(loc, bytesOfNat (t.width / 8) (v.setWidth t.width).toNat)] 0, dest := .none, hold := false, pushes := [] } })) ∧
  (∀ (s : State) (f k : Nat) (x : Fibre) (p : Pend), s.fibres.get? f = some x → x.pend[k]? = some p → x.performable k = true → s.reaches x p.op = true →
     let back (u : State) (y : Fibre) : Prop := exec (.loadDataReturn f k) s = .next ((u.setFibre f y).unitReturns f x p)
     let faults (e : FaultCode) (va : Word) : Prop :=
       exec (.loadDataReturn f k) s = .next ((s.setFibre f ((x.dropPend k .ld).undoQueues p)).takeTrap f p.unit p.rep .unit e va 0)
     let one (sampler : Bool) (loc : Loc) (n : Nat) (ends : List Byte → State → Prop) : Prop :=
       (∀ e, s.readChecked f x p.hold sampler loc n (p.party f) = .error e → faults e loc.address) ∧
       ∀ bs u, s.readChecked f x p.hold sampler loc n (p.party f) = .ok (bs, u) → ends bs u
     (∀ sampler loc n who, s.readChecked f x p.hold sampler loc n who =
       if s.leavesCore x.core n loc && s.cutOff loc then .error .access
       else if p.hold && (if sampler then s.samplerError f x n loc else s.hasError f x n loc) then .error .ecc
       else match if sampler then s.readSampler f x loc n else s.readLoc f x loc n who with
         | (none, _) => .error .decode
         | (some bs, u) => .ok (bs, u)) ∧
     (∀ loc t sampler, p.op = .load loc t sampler →
       one sampler loc (t.width / 8) fun bs u => back u (x.returnValues k p [t.extend (BitVec.ofNat t.width (natOfBytes bs))])) ∧
     (∀ es t (m : MReg) len (vd : VReg), p.op = .loadVec es t m.val len → p.dest = .vec vd.val →
       (∀ e, s.readAll f x p.hold (t.width / 8) (p.party f) (es.map (·.2)) = .error e → faults e.1 e.2) ∧
       ∀ bss u, s.readAll f x p.hold (t.width / 8) (p.party f) (es.map (·.2)) = .ok (bss, u) → ∃ r : Runs,
         runsLen r = len ∧ (∀ i (h : i + 1 < r.length), r[i].value ≠ r[i + 1].value) ∧
         (∀ j < len, runsElem r j = match ((es.map (·.1)).zip bss).find? fun e => e.1 == j with
           | some e => t.extend (BitVec.ofNat t.width (natOfBytes e.2))
           | none => runsElem x.vregs[vd] j) ∧
         (∀ y, x.writev (.v vd) r m false = .ok y → back u (y.dropPend k .ld)) ∧ ∀ e, x.writev (.v vd) r m false = .error e → faults e 0) ∧
     (∀ loc t fmt (m : MReg) (vd : VReg), p.op = .loadBlock loc t fmt m.val → p.dest = .vec vd.val →
       one false loc 64 fun bs u =>
         (∀ e, x.writeSxBlock vd.val m.val t fmt bs = .error e → faults e 0) ∧
         ∀ y, x.writeSxBlock vd.val m.val t fmt bs = .ok y → back u (y.dropPend k .ld) ∧ y = { x with vregs := y.vregs, flags := y.flags } ∧
           (sxMalformed fmt bs = true → sxAllZero bs = false → y.flags.getLsbD 0 = true) ∧
           (fmt ≠ .sx4 → (∀ v, v ≠ vd → y.vregs[v] = x.vregs[v]) ∧ runsLen y.vregs[vd] = fmt.elements ∧
             ∀ j < fmt.elements, runsElem y.vregs[vd] j =
               if x.maskTrue m j then (((sxDecode fmt bs).getD j (.nan false, 0)).andThen (roundTo t .rn)).1 else runsElem x.vregs[vd] j)) ∧
     (∀ (q : Fin 4) loc, p.op = .bind q loc → one false loc 32 fun bs u =>
       (queueDescOk bs = false → faults .access loc.address) ∧
       (queueDescOk bs = true → back u
         { x with
           pend := x.pend.eraseIdx k, counts := { x.counts with ld := x.counts.ld - 1 }
           queues := x.queues.set q.val (some ⟨bs, 0, []⟩), named := x.named.set (28 + q.val) 0 (by omega) })) ∧
     (∀ vs fl, p.op = .value vs fl → back s ((x.returnValues k p vs).orFlags fl))) ∧
  (∀ (s : State) (f : Nat) (x : Fibre) (p : Pend),
     (p.hold = false → s.unitReturns f x p = s) ∧
     (s.Undebugged → ∃ queues pass, s.unitReturns f x p = { s with queues := queues, pass := pass } ∧
       ∀ q k, queues.get? q = some k → ∃ j, s.queues.get? q = some j ∧ k = { j with trace := k.trace })) ∧
  (∀ (s : State) (f : Nat) (x : Fibre) (bs : List Byte) (who : Party),
     (∀ off g r, x.group = some g → s.groups.get? g = some r → (∀ i < bs.length, r.unacquired who (off + i) = false) → r.matrix = [] → r.doneMatrix = [] →
       ∃ r' : Group, s.writeLoc f x (.slice off) bs who = some { s with groups := s.groups.put g r' } ∧
         (∀ i (h : i < bs.length), r'.slice.read (off + i) = bs[i]) ∧ ∀ o, o < off ∨ off + bs.length ≤ o → r'.slice.read o = r.slice.read o) ∧
     (∀ pa comp policy va t l, s.taskOf f x = some t → s.launches.get? t.1 = some l →
       let loc : Loc := .mem pa comp true policy va
       let m : Launch := { l with buffered := l.buffered ++ [⟨t.2, x.lineage, .store [(loc, bs)] 0, (x.launch, s.specGroup f x)⟩] }
       s.writeLoc f x loc bs who = some { s with launches := s.launches.put t.1 m }) ∧
     ∀ pa comp ordered policy va, ordered = false ∨ s.taskOf f x = none →
       let loc : Loc := .mem pa comp ordered policy va
       let inside (a : Nat) : Prop := pa ≤ a ∧ a < pa + bs.length
       let core := s.core x.core
       let older (e : Nat × DirtyByte) : Prop := (e.1 / 256 = pa / 256 ∧ e.2.comp ≠ comp) ∨ (e.1 / 64 = pa / 64 ∧ e.2.stamp ≠ core.release)
       (x.speculative = true → ∀ l, s.launches.get? x.launch = some l →
         let g := s.specGroup f x
         (s.specFits x.launch x.context (s.redirected f x [(loc, bs)]) = false → s.writeLoc f x loc bs who = none) ∧
         (s.specFits x.launch x.context (s.redirected f x [(loc, bs)]) = true → ∃ spec,
           s.writeLoc f x loc bs who = some { s with launches := s.launches.put x.launch { l with spec := spec } } ∧
           (∀ i (h : i < bs.length), ∃ b ∈ spec, b.group = g ∧ b.pa = pa + i) ∧
           (∀ b ∈ spec, b.group = g → inside b.pa → b.value = bs.getD (b.pa - pa) 0 ∧ b.comp = comp) ∧
           ∀ b, ¬ (b.group = g ∧ inside b.pa) → (b ∈ spec ↔ b ∈ l.spec))) ∧
       (x.speculative = false → core.dirty.Pairwise (fun a b => a.1 < b.1) → pa % 64 + bs.length ≤ 64 →
         (policy ≠ .nol1 →
           (distinct ((core.dirty.map fun e => e.1 / 64) ++ (List.range bs.length).map fun i => (pa + i) / 64)).length ≤ 1024 * core.boundary →
           ∃ t, s.writeLoc f x loc bs who = some t ∧ t.fibres = s.fibres ∧ t.host = s.host ∧ t.groups = s.groups ∧ (∀ c, c ≠ x.core → t.core c = s.core c) ∧
             (∀ i (h : i < bs.length), ∃ e, (t.core x.core).dirty.get? (pa + i) = some e ∧ e.value = bs[i] ∧ e.stamp = core.release ∧ e.comp = comp) ∧
             (∀ a, ¬ inside a → (∀ e, core.dirty.get? a = some e → ¬ older (a, e)) → (t.core x.core).dirty.get? a = core.dirty.get? a) ∧
             (∀ a e, ¬ inside a → core.dirty.get? a = some e → older (a, e) → (t.core x.core).dirty.get? a = none ∧
               ((∀ d ∈ core.dirty, d.1 / 256 = a / 256 → d.2.comp = 0) → t.home.mem.read a = e.value)) ∧
             ∀ a, (∀ d ∈ core.dirty, older d → d.1 / 256 ≠ a / 256) → t.home.mem.read a = s.home.mem.read a) ∧
         (policy = .nol1 → comp = 0 → (∀ e ∈ core.dirty, e.1 / 64 = pa / 64 → e.2.comp = 0) →
           ∃ t, s.writeLoc f x loc bs who = some t ∧ t.fibres = s.fibres ∧ t.host = s.host ∧ t.groups = s.groups ∧
             (∀ i (h : i < bs.length), t.home.mem.read (pa + i) = bs[i]) ∧ (∀ a, a / 64 = pa / 64 → (t.core x.core).dirty.get? a = none) ∧
             (∀ a, a / 64 ≠ pa / 64 → (t.core x.core).dirty.get? a = core.dirty.get? a ∧ t.home.mem.read a = s.home.mem.read a) ∧
             ∀ a, a / 64 = pa / 64 → ¬ inside a → t.home.mem.read a = match core.dirty.get? a with
               | some e => e.value
               | none => s.home.mem.read a))) ∧
  (∀ (s : State) (f k : Nat) (x : Fibre) (p : Pend) (ws : List (Loc × List Byte)) (fl : FlagSet), s.fibres.get? f = some x → x.pend[k]? = some p →
     p.op = .store ws fl →
     (x.performable k = false ∨ s.storeTurn f p = false → exec (.storeAccept f k) s = .next s) ∧
     (x.performable k = true → s.storeTurn f p = true →
       (s.writeAllLocs f x (p.party f) ws = none → exec (.storeAccept f k) s = .next s) ∧
       ∀ u y, s.writeAllLocs f x (p.party f) ws = some u → u.fibres.get? f = some y →
         exec (.storeAccept f k) s = .next ((u.setFibre f
           { y with pend := y.pend.eraseIdx k, counts := { y.counts with st := y.counts.st - 1 }, flags := y.flags ||| fl }).unitReturns f x p)) ∧
     s.writeAllLocs f x (p.party f) [] = some s ∧
     ∀ w vs, s.writeAllLocs f x (p.party f) (w :: vs) = (s.writeLoc f x w.1 w.2 (p.party f)).bind fun u => u.writeAllLocs f x (p.party f) vs)

/-- R213, R215, R216: reconciling an edge writes back every dirty byte that the releasing core stamped at or below the edge's value: each is then at its
home and no longer dirty there; bytes stamped later stay, and the home's other bytes do not change. The acquirer drops its clean lines. For bytes
without compression. The stamps are those that the model's stores leave, one for each line (assumption 11). R216, R217: the first edge that a fibre
owes is reconciled, and is owed no longer; where no write to another package is unacknowledged, nothing is owed for it. An edge towards another
package is owed until its acknowledgement. The dirty bytes of a tile under compression are written at their home, in one step where they are of one
class, and the core holds them dirty no longer (R356). R195, R187, R175: a prefetch changes no fibre and no group, and no byte at its home but in
tiles that its core holds dirty (R359) or that are new (R310); a fence drops what the sampler cache of its core, or of the cores of its die, holds; a
queue is read ahead by one element, where that element can be read. -/
def Obligations.Coherence : Prop :=
  (∀ (s : State) (acquirer core release : Nat), core < 192 → (s.core core).dirty.Pairwise (fun a b => a.1 < b.1) →
     (∀ e ∈ (s.core core).dirty, e.2.comp = 0) →
     let t := s.reconcile acquirer (core, release)
     (∀ a b, (s.core core).dirty.get? a = some b → b.stamp ≤ release → t.home.mem.read a = b.value ∧ (t.core core).dirty.get? a = none) ∧
     (∀ a b, (s.core core).dirty.get? a = some b → release < b.stamp → (t.core core).dirty.get? a = some b) ∧
     (∀ a, (∀ b, (s.core core).dirty.get? a = some b → release < b.stamp) → t.home.mem.read a = s.home.mem.read a) ∧ (t.core acquirer).clean = []) ∧
  ((∀ (s : State) (f : Nat) (x : Fibre) (e : Edge) (es : List Edge), s.fibres.get? f = some x → x.acquired = e :: es →
     (e.1 < 256 → (s.reconcile x.core e).link.sent = [] → (s.reconcile x.core e).link.waiting = [] →
       exec (.reconciliation f) s = .next ((s.reconcile x.core e).setFibre f { x with acquired := es })) ∧
     (e.1 < 256 → let r := (s.reconcile x.core e).sendMarkers
       exec (.reconciliation f) s = .next (r.1.setFibre f { x with acquired := es ++ r.2 })) ∧
     (256 ≤ e.1 → s.unacked e = true → exec (.reconciliation f) s = .next s) ∧
     (256 ≤ e.1 → s.unacked e = false → exec (.reconciliation f) s = .next (s.setFibre f { x with acquired := es }))) ∧
   ∀ (s : State) (core tile : Nat), (s.core core).dirty.Pairwise (fun a b => a.1 < b.1) →
     ∃ t, exec (.compressedTileWrite core tile) s = .next t ∧
       (∀ a b, (s.core core).dirty.get? a = some b → (t.core core).dirty.get? a = if a / 256 = tile ∧ b.comp ≠ 0 then none else some b) ∧
       (∀ cls, cls ≠ 0 → (∀ e ∈ (s.core core).dirty, e.1 / 256 = tile → e.2.comp ≠ 0 → e.2.comp = cls) →
         t.home.mem = (s.home.write cls (((s.core core).dirty.filter fun e => e.1 / 256 == tile && e.2.comp != 0).map fun e => (e.1, e.2.value))).mem) ∧
       t.fibres = s.fibres ∧ t.groups = s.groups ∧ ∀ c, c ≠ core → t.core c = s.core c) ∧
  ((∀ (s : State) (f : Nat) (x : Fibre), s.Issues f x → ∀ (base : Src) (off : BitVec 8),
     (∃ u, exec (.pref base off) s = .next (s.settle f x (.done u)) ∧ u.fibres = s.fibres ∧ u.groups = s.groups ∧ u.host = s.host ∧
       ((∀ k, s.contexts.get? x.context = some k → k.unset = []) →
         ∀ a, (∀ e ∈ (s.core x.core).dirty, e.1 / 256 ≠ a / 256) → u.home.mem.read a = s.home.mem.read a)) ∧
     (∃ u, exec .pfence s = .next (s.settle f x (.done u)) ∧ u = { s with cores := u.cores } ∧ (u.core x.core).sampler = [] ∧
       (u.core x.core).dirty = (s.core x.core).dirty ∧ ∀ c, c ≠ x.core → u.core c = s.core c) ∧
     (∃ u, exec .pfenceDie s = .next (s.settle f x (.done u)) ∧ u = { s with cores := u.cores } ∧
       (∀ c, dieOf c = dieOf x.core → (u.core c).sampler = []) ∧ (u.core x.core).fenced = true ∧ (∀ c, (u.core c).dirty = (s.core c).dirty) ∧
       ∀ c, dieOf c ≠ dieOf x.core → u.core c = s.core c)) ∧
   ∀ (s : State) (f : Nat) (q : Fin 2) (x : Fibre) (b : QueueBinding) (loc : Loc) (u v : State) (bs : List Byte), s.fibres.get? f = some x →
     x.queues[q.val] = some b → b.ahead.length < 16 → x.life ≠ .gone → s.queueElement f x b b.ahead.length false = .ok (loc, u) →
     u.elementFault f x b loc = none → u.readLoc f x loc (b.ty.width / 8) = (some bs, v) →
     exec (.queueReadAhead f q.val) s = .next (v.setFibre f
       { x with queues := x.queues.set q.val (some { b with ahead := b.ahead ++ [b.ty.extend (BitVec.ofNat b.ty.width (natOfBytes bs))] }) }))

/-- R226-R229, R79: an atomic issues: it is outstanding in the ld class, a reduction in the st class, with its operation, operand and compared value, for
its destination. A misplaced one raises its fault, and a full counter holds the fibre. A speculative fibre stalls until resolution (R304), but for a
reduction that is buffered. Later units wait for one that may fault with its data, and for one that may read the sequence word of a waymark (R435; the
model's reading, assumption 100). R218, R226: an atomic is performed in one step: in memory of this package without compression, its bytes at home are
the operation's result on what was there, once the core's own dirty bytes of the line are written back; no other byte of the line's home changes by
it, and the destination receives the old value. -/
def Obligations.Atomics : Prop :=
  (∀ (s : State) (f : Nat) (x : Fibre), s.Issues f x → ∀ (d : Dst) (a b : Src) (t : Ty),
     let va := s.operand x a
     let n := t.width / 8
     let each : List (Instr × AtomOp) :=
       [(.atomAdd d a b t, .add), (.atomMin d a b t, .min), (.atomMax d a b t, .max), (.atomAnd d a b t, .and), (.atomOr d a b t, .or),
         (.atomXor d a b t, .xor), (.atomExch d a b t, .exch), (.atomCas d a b t, .cas)]
     let reds : List (Instr × AtomOp) :=
       [(.aredAdd a b t, .add), (.aredMin a b t, .min), (.aredMax a b t, .max), (.aredAnd a b t, .and), (.aredOr a b t, .or)]
     let seq (bytes : Nat) (loc : Loc) : Bool := match loc with
       | .mem pa _ _ _ _ => decide (pa % 64 + bytes = 64)
       | .slice _ | .grant _ => false
     (∀ e ∈ each,
       (x.speculative = true → exec e.1 s = .next (s.settle f x (.stall .resolution))) ∧
       (x.speculative = false → 4095 ≤ x.counts.ld → exec e.1 s = .next (s.settle f x (.stall (.counter 0)))) ∧
       (x.speculative = false → x.counts.ld < 4095 →
         (∀ c, s.locate f x { write := true, orderedOk := false, atomic := true } va n n = .error c → exec e.1 s = .next (s.trapped f x c va 0)) ∧
         ∀ loc u, s.locate f x { write := true, orderedOk := false, atomic := true } va n n = .ok (loc, u) →
           let hold := s.mayFault f x n [loc] || (t.width == 32 && seq 4 loc)
           let y := x.loadDest d hold
           let op : PendOp := .atom loc (.op e.2 t x.mode x.hints.sat (s.operand x b) (x.old d))
           exec e.1 s = .next (s.settle f x (.done (u.setFibre f
             (y.1.outstanding op y.2 hold)))))) ∧
     (∀ e ∈ reds,
       (4095 ≤ x.counts.st → exec e.1 s = .next (s.settle f x (.stall (.counter 1)))) ∧
       (x.counts.st < 4095 →
         (∀ c, s.locate f x { write := true, atomic := true } va n n = .error c → exec e.1 s = .next (s.trapped f x c va 0)) ∧
         ∀ loc u, s.locate f x { write := true, atomic := true } va n n = .ok (loc, u) →
           let op : PendOp := .ared loc (.op e.2 t x.mode x.hints.sat (s.operand x b) 0)
           let room := s.bufferRoom x (s.buffering f x op)
           (x.speculative = true → s.buffers f x loc = false → exec e.1 s = .next (s.settle f x (.stall .resolution))) ∧
           (x.speculative = false ∨ s.buffers f x loc = true → room = false → exec e.1 s = .next (s.trapped f x .access va 0)) ∧
           (x.speculative = false ∨ s.buffers f x loc = true → room = true → exec e.1 s = .next (s.settle f x (.done (u.setFibre f
             (x.outstanding op .none loc.node.isSome))))) ∧
           (s.buffers f x loc = false → room = true))) ∧
     ∀ i j : Fin 32, i.val + 1 < 32 → j.val + 1 < 32 →
       let pair (r : Fin 32) : Word × Word := (x.named[r.val], x.named.toList.getD (r.val + 1) 0)
       let wide (w : Instr) (write : Bool) (k : AtomKind) : Prop :=
         (x.speculative = true → exec w s = .next (s.settle f x (.stall .resolution))) ∧
         (x.speculative = false → 4095 ≤ x.counts.ld → exec w s = .next (s.settle f x (.stall (.counter 0)))) ∧
         (x.speculative = false → x.counts.ld < 4095 →
           (∀ c, s.locate f x { write := write, orderedOk := false, atomic := true } va 16 16 = .error c → exec w s = .next (s.trapped f x c va 0)) ∧
           ∀ loc u, s.locate f x { write := write, orderedOk := false, atomic := true } va 16 16 = .ok (loc, u) →
             exec w s = .next (s.settle f x (.done (u.setFibre f
               (x.outstanding (.atom loc k) (.pair i.val) (s.mayFault f x 16 [loc] || (k == .wideLoad && seq 16 loc)))))))
       wide (.atomwLd (.n i) a) false .wideLoad ∧ wide (.atomwExch (.n i) a (.n j)) true (.wideExch (pair j)) ∧
       wide (.atomwCas (.n i) a (.n j)) true (.wideCas (pair i) (pair j))) ∧
  (∀ (s : State) (f k j pa va : Nat) (ordered : Bool) (policy : CachePolicy) (x : Fibre) (p : Pend) (op : AtomOp) (t : Ty) (mode : Rnd) (sat : Bool) (b c : Word),
     s.fibres.get? f = some x → x.pend[k]? = some p → p.op = .atom (.mem pa 0 ordered policy va) (.op op t mode sat b c) → p.dest = .named j → j < 32 →
     p.pushes = [] → p.hold = false → x.performable k = true → pa < 2 ^ 41 → s.Unfreed x.context va (t.width / 8) →
     let u := s.flushLine x.core pa 0
     let n := t.width / 8
     let old := t.extend (BitVec.ofNat t.width (natOfBytes ((List.range n).map fun i => u.home.mem.read (pa + i))))
     let r := atomValue op t mode sat old b c
     ∃ v, exec (.loadDataReturn f k) s = .next v ∧
       (∀ i < n, v.home.mem.read (pa + i) = (r.1.extractLsb' (8 * i) 8)) ∧ (∀ a, a < pa ∨ pa + n ≤ a → v.home.mem.read a = u.home.mem.read a) ∧
       ∃ y, v.fibres = s.fibres.put f y ∧ y.named[j]? = some old ∧ (∀ i : Fin 32, i.val ≠ j → y.named[i] = x.named[i]) ∧ y.flags = x.flags ||| r.2 ∧
         y.counts = { x.counts with ld := x.counts.ld - 1 } ∧ y.ages = x.ages)

/-- R109, R108: `pushm.n` stores the selected registers below sp, the lowest at the final sp, and lowers sp by their bytes; `popm.n` loads them from sp
upward and raises it. No other byte of the stack, and nothing else of the fibre, changes. Past an end of the stack either raises FLT_STACK, a mask bit
that names no register of the window, or a bound queue register, FLT_ILLEGAL, and a pop of a byte in error FLT_ECC (R27); bytes pushed are no longer
in error (the model's choice, assumption 32). R109, R110: `pushm.v` and `pushm.m` store one run record for each selected register and leave it empty;
`popm.v` and `popm.m` restore exactly the runs of which the records from sp upward are the records, and raise sp past them, when they fit the quota,
in which the runs that the registers held before count as free (the model's choice, assumption 106); when they do not, FLT_RUN_OVERFLOW. A record in
error raises FLT_ECC. A record over the top of the stack, or with a header, a count, a length or a padding byte that is none of a record, raises
FLT_STACK, whatever legal records stand before it. A fault changes nothing. -/
def Obligations.Spills : Prop :=
  (∀ (s : State) (f : Nat) (x : Fibre), s.Issues f x → stackBase ≤ x.sp.toNat → x.stackTop < 2 ^ 52 → ∀ (a : Src),
     let m := s.operand x a
     let rs := (List.range 32).filter m.getLsbD
     let n := 8 * rs.length
     let off := x.sp.toNat - stackBase
     let bad := ∃ j ∈ rs, x.window ≤ j ∨ (28 ≤ j ∧ ∃ b, x.queues.toList[j - 28]? = some (some b))
     (bad → exec (.pushmN a) s = .next (s.trapped f x .illegal 0 0) ∧ exec (.popmN a) s = .next (s.trapped f x .illegal 0 0)) ∧
     (¬ bad →
       (off < n → exec (.pushmN a) s = .next (s.trapped f x .stack 0 0)) ∧
       (n ≤ off → ∃ y : Fibre, exec (.pushmN a) s = .next (s.completed f x y) ∧ y = { x with sp := y.sp, stack := y.stack, badStack := y.badStack } ∧
         y.sp.toNat = x.sp.toNat - n ∧ (∀ o, o ∈ y.badStack ↔ o ∈ x.badStack ∧ (o < off - n ∨ off ≤ o)) ∧
         (∀ k b, k < rs.length → b < 8 →
           y.stack.read (off - n + 8 * k + b) = (x.named.toList.getD (rs.getD k 0) 0).extractLsb' (8 * b) 8) ∧
         ∀ o, o < off - n ∨ off ≤ o → y.stack.read o = x.stack.read o) ∧
       (x.stackSize < off + n → exec (.popmN a) s = .next (s.trapped f x .stack 0 0)) ∧
       (off + n ≤ x.stackSize → (∃ o ∈ x.badStack, off ≤ o ∧ o < off + n) → exec (.popmN a) s = .next (s.trapped f x .ecc 0 0)) ∧
       (off + n ≤ x.stackSize → (∀ o ∈ x.badStack, o < off ∨ off + n ≤ o) → ∃ y : Fibre, exec (.popmN a) s = .next (s.completed f x y) ∧ y = { x with sp := y.sp, named := y.named } ∧
         y.sp.toNat = x.sp.toNat + n ∧
         (∀ k (h : k < rs.length), y.named.toList.getD rs[k] 0 = BitVec.ofNat 64 (natOfBytes (x.stack.readBytes (off + 8 * k) 8))) ∧
         ∀ j, j < 32 → j ∉ rs → y.named.toList.getD j 0 = x.named.toList.getD j 0))) ∧
  (∀ (s : State) (f : Nat) (x : Fibre), s.Issues f x → stackBase ≤ x.sp.toNat → x.stackTop < 2 ^ 52 → ∀ (a : Src) (mask : Bool) (R : VDest → Runs),
     let m := s.operand x a
     let push : Instr := if mask then .pushmM a else .pushmV a
     let pop : Instr := if mask then .popmM a else .popmV a
     let ds : List VDest :=
       if mask then (List.finRange 8).filterMap fun i => if m.getLsbD i.val then some (.m i) else none
       else (List.finRange 16).filterMap fun i => if m.getLsbD i.val then some (.v i) else none
     let bytes (g : VDest → Runs) (ds : List VDest) := ds.flatMap fun d => runRecord (g d)
     let off := x.sp.toNat - stackBase
     let own := (bytes x.runsOf ds).length
     let stored := (bytes R ds).length
     let free := x.quota - (x.runsUsed - (ds.map x.occupancy).sum)
     let legal (r : Runs) : Prop := (∀ e ∈ r, 1 ≤ e.count ∧ e.count ≤ 64) ∧ runsLen r ≤ 64
     let malformed (o : Nat) : Prop :=
       let k := natOfBytes (x.stack.readBytes o 8)
       let n := 8 + 8 * k + 8 * ((k + 7) / 8)
       let count (j : Nat) := (x.stack.read (o + 8 + 8 * k + j)).toNat
       x.stackSize < o + 8 ∨ 64 < k ∨ x.stackSize < o + n ∨ (∃ j < k, count j = 0 ∨ 64 < count j) ∨ 64 < ((List.range k).map count).sum ∨
         ∃ b, 8 + 9 * k ≤ b ∧ b < n ∧ x.stack.read (o + b) ≠ 0
     (mask = true → m.getLsbD 0 = true → exec push s = .next (s.trapped f x .illegal 0 0) ∧ exec pop s = .next (s.trapped f x .illegal 0 0)) ∧
     ((mask = true → m.getLsbD 0 = false) →
       (off < own → exec push s = .next (s.trapped f x .stack 0 0)) ∧
       (own ≤ off → ∃ y : Fibre, exec push s = .next (s.completed f x y) ∧
         y = { x with sp := y.sp, stack := y.stack, badStack := y.badStack, vregs := y.vregs, masks := y.masks } ∧ y.sp.toNat = x.sp.toNat - own ∧
         (∀ o, o ∈ y.badStack ↔ o ∈ x.badStack ∧ (o < off - own ∨ off ≤ o)) ∧
         y.stack.readBytes (off - own) own = bytes x.runsOf ds ∧ (∀ o, o < off - own ∨ off ≤ o → y.stack.read o = x.stack.read o) ∧
         ∀ d, y.runsOf d = if d ∈ ds then [] else x.runsOf d) ∧
       ((∀ d ∈ ds, legal (R d)) → x.stack.readBytes off stored = bytes R ds → off + stored ≤ x.stackSize →
         ((∃ o ∈ x.badStack, off ≤ o ∧ o < off + stored) → exec pop s = .next (s.trapped f x .ecc 0 0)) ∧
         ((∀ o ∈ x.badStack, o < off ∨ off + stored ≤ o) →
           (free < (ds.map fun d => (R d).length).sum → exec pop s = .next (s.trapped f x .runOverflow 0 0)) ∧
           ((ds.map fun d => (R d).length).sum ≤ free → ∃ y : Fibre, exec pop s = .next (s.completed f x y) ∧
             y = { x with sp := y.sp, vregs := y.vregs, masks := y.masks } ∧ y.sp.toNat = x.sp.toNat + stored ∧
             ∀ d, y.runsOf d = if d ∈ ds then R d else x.runsOf d))) ∧
       ∀ before d rest, ds = before ++ d :: rest → (∀ e ∈ before, legal (R e)) → x.badStack = [] →
         x.stack.readBytes off (bytes R before).length = bytes R before → off + (bytes R before).length ≤ x.stackSize →
         malformed (off + (bytes R before).length) → exec pop s = .next (s.trapped f x .stack 0 0)))

/-- R223, R224, R203, R204: `spawn` with a legal word makes its children and completes; the entry must be a word address of 52 bits, and a word out of
limits or a frame area without room raises FLT_ACCESS. The address of a bad entry in the fault is the entry itself, and 0 for the word, as the model
reads R337 (assumption 23). A single child that finds room in its parent's group starts Ready there at the entry, with its ordinal in a0, the passed
registers, an empty rest, and its own record; where it finds none, or its parent is detached, it is a Task record with the entry, the ordinal, the
passed registers and the bank. Its parent counts it. R225, R201: an `await` with no unfinished child completes, and acquires what its children
released; with some, the fibre parks, past the instruction, and leaves its convoy; `.stay` keeps it from being saved. R106, R209, R80: `exit` ends the
fibre: without an unfinished child it is Exiting, with one it parks first. Its queue bindings and a held result are gone; its registers stand until
its slots are freed, and no byte of memory changes. Copy faults that it has not raised are reported, in the error record of its group (R261). -/
def Obligations.Spawns_and_exits : Prop :=
  (∀ (s : State) (f : Nat) (x : Fibre) (p : Frame), s.Issues f x → s.frames.get? f = some p → ∀ (a b : Src),
     let e := s.operand x a
     let w := s.operand x b
     let count := (w.extractLsb' 0 11).toNat
     let pass := (w.extractLsb' 11 5).toNat
     let legal := w.extractLsb' 16 48 = 0 ∧ 1 ≤ count ∧ count ≤ 1024 ∧ pass ≤ 16 ∧ pass ≤ x.window ∧ s.frameRoom x.context count = true ∧ p.pending + count < 2 ^ 32
     (e.extractLsb' 0 2 ≠ 0 → exec (.spawn a b) s = .next (s.trapped f x .align e 0)) ∧
     (e.extractLsb' 0 2 = 0 → e.extractLsb' 52 12 ≠ 0 → exec (.spawn a b) s = .next (s.trapped f x .translation e 0)) ∧
     (e.extractLsb' 0 2 = 0 → e.extractLsb' 52 12 = 0 → ¬ legal → exec (.spawn a b) s = .next (s.trapped f x .access 0 0)) ∧
     (e.extractLsb' 0 2 = 0 → e.extractLsb' 52 12 = 0 → legal →
       (∃ u, exec (.spawn a b) s = .next (s.settle f x (.done u))) ∧
       ∀ g k, count = 1 → x.group = some g → s.groups.get? g = some k → k.state = .running → s.roomInGroup g = true →
         s.roomForFibre x.core x.quota x.stackSize = true → f ≠ s.fresh →
         ∃ u y r, exec (.spawn a b) s = .next (s.settle f x (.done u)) ∧ u.fibres.get? s.fresh = some y ∧ u.frames.get? s.fresh = some r ∧
           y.life = .ready ∧ y.pc = e.setWidth 52 ∧ y.group = some g ∧ y.core = x.core ∧ y.fid = s.freeIndex g ∧ y.ages[0] = 0 ∧ y.flags = 0 ∧ y.preds = 0 ∧
           (∀ j : Fin 32, y.named[j] = if j.val < pass then x.named[j] else 0) ∧ y.rkey = x.rkey ∧ y.rctr = 0 ∧ y.trap.inHandler = false ∧
           r.parent = some f ∧ r.state = .running ∧ r.depth = p.depth ∧ r.fid = y.fid ∧
           u.frames.get? f = some { p with pending := p.pending + 1 } ∧ ∀ h, h ≠ s.fresh → u.fibres.get? h = s.fibres.get? h) ∧
     (e.extractLsb' 0 2 = 0 → e.extractLsb' 52 12 = 0 → legal → count = 1 → f ≠ s.fresh →
       (∀ g, x.group = some g → s.roomInGroup g = false ∨ s.roomForFibre x.core x.quota x.stackSize = false) →
       ∃ u r, exec (.spawn a b) s = .next (s.settle f x (.done u)) ∧ u.fibres = s.fibres ∧ u.frames.get? s.fresh = some r ∧ r.state = .task ∧
         r.pc = e.setWidth 52 ∧ r.parent = some f ∧ r.launch = x.launch ∧ r.ordinal = 0 ∧ r.core = x.core ∧ r.depth = p.depth ∧
         r.passed = ((List.range pass).map fun i => x.named.toList.getD i 0) ∧ r.bank = s.bankOf x ∧
         u.frames.get? f = some { p with pending := p.pending + 1 })) ∧
  (∀ (s : State) (f : Nat) (x : Fibre) (r : Frame), s.Issues f x → s.frames.get? f = some r → ∀ stay : Bool,
     let i : Instr := if stay then .awaitStay else .await
     (r.pending = 0 → ∃ u, exec i s = .next (s.settle f x (.done u)) ∧ u.fibres = s.fibres.put f { x with acquired := addEdges x.core x.acquired r.acquired } ∧
       u.frames.get? f = some { r with acquired := [], learned := [] }) ∧
     (r.pending ≠ 0 → ∃ u y, exec i s = .next (s.settle f x (.leave u)) ∧ u.fibres = s.fibres.put f y ∧
       y = { x.commitQueues.advance with life := .parked, parkOrder := s.fresh } ∧ u.frames.get? f = some { r with state := .parked, stay := stay, pc := y.pc })) ∧
  (∀ (s : State) (f : Nat) (x : Fibre) (r : Frame), s.Issues f x → s.frames.get? f = some r →
     ∃ u y, exec .exit s = .next (s.settle f x (.leave u)) ∧ u.fibres = s.fibres.put f y ∧ y.held = none ∧ (∀ q : Fin 4, y.queues[q] = none) ∧
       y.named = x.commitQueues.named ∧ y.ages = x.ages ∧ y.counts = x.commitQueues.counts ∧ y.acquired = x.acquired ∧ y.copyFaults = [] ∧
       (r.pending = 0 → y.life = .exiting ∧ u.frames = s.frames.put f { r with state := .exiting }) ∧
       (r.pending ≠ 0 → y.life = .parked ∧ u.frames = s.frames.put f { r with state := .parked, exitWait := true }) ∧ u.home = s.home ∧ u.host = s.host ∧
       (x.copyFaults = [] → u.groups = s.groups ∧ u.contexts = s.contexts))

/-- R80, R106, R201, R216: an Exiting fibre with nothing outstanding and every edge that it acquired reconciled is Gone: for a detached one without a
parent, its fibre and record are no more, its grid counts one less, and what it knew of the slices its grid knows (R212); any other Exiting fibre
stays. R25, R201, R204, R206, R207: the oldest record of a core, in the one order of its Task and Resumable records that the model chose (assumption
115), starts when the core is in service and has room: a Task as a Ready fibre at its pc, with its ordinal in a0, in its parent's group where it can
join it, else detached; a saved fibre goes on as it was, and one that waited to exit is Exiting. A core without records of a context steals the oldest
of the other cores of its die (assumption 91), and starts it detached. Each takes the lowest slot of the register store that no resident fibre holds
(assumption 7). R208, R336, R245: the earliest parked fibre of a core that must make room is saved to the frame area, once its group's bank writes are
in effect; a detached one leaves its core, and its record holds it, Saved, in the lowest room of the frame area (assumption 7). An error in its stack
is one in context state: the context is aborted (R457). A core that need not make room saves none. R80: a stall ends when what the fibre waits for is
there, and not before: outstanding loads or stores, a counter below its limit, resolution, edges reconciled, an element of a queue, its turn at the
ray unit (it keeps its place until its trace has issued, R21), room for matrix commands or for collectives. The fibre is Ready again, and nothing else
of it changes. A wait in effect ends as its instruction ends (R263, R283, R361), and no other stall ends by this. -/
def Obligations.Life_of_fibres : Prop :=
  (∀ (s : State) (f : Nat) (x : Fibre), s.fibres.get? f = some x →
     (x.life ≠ .exiting → exec (.fibreGone f) s = .next s) ∧
     (x.life = .exiting → ∀ g, x.group = some g → exec (.fibreGone f) s =
       .next (match (s.discardGuarded g).fibres.get? f with
         | none => s.discardGuarded g
         | some y =>
           if y.countsZero && y.acquired.isEmpty then ((s.discardGuarded g).reportCopyFault f y).goneFibre f y else s.discardGuarded g)) ∧
     (x.life = .exiting → x.group = none → x.counts ≠ {} ∨ x.pend ≠ [] ∨ x.acquired ≠ [] → exec (.fibreGone f) s = .next s) ∧
     (x.life = .exiting → x.group = none → x.counts = {} → x.pend = [] → x.acquired = [] → x.copyFaults = [] →
       ∀ r, s.frames.get? f = some r → r.parent = none →
       let u := (s.releaseOn x.core).1.learnAll [.grid x.launch] (· == .fibre f)
       exec (.fibreGone f) s =
         .next ((({ u with fibres := s.fibres.del f, frames := s.frames.del f }.updLaunch x.launch fun l =>
           { l with acquired := addEdges 193 l.acquired [(s.releaseOn x.core).2] }).gridCount x.launch (· - 1)).launchProgress x.launch))) ∧
  ((∀ (s : State) (core f : Nat) (r : Frame) (rest : List (Nat × Frame)), s.startable core = (f, r) :: rest →
     let room := s.roomForFibre core (s.recordNeeds r).1 (s.recordNeeds r).2
     (s.coreOpen core = true → room = true → ∃ t y, exec (.taskStart core) s = .next t ∧ t.fibres.get? f = some y ∧ y.core = core ∧ y.windowBase = s.fibreSlot core ∧
       (r.savedFibre = none → y.pc = r.pc ∧ y.ages[0] = BitVec.ofNat 64 r.ordinal ∧ y.group = s.joins core r ∧ y.launch = r.launch ∧
         (s.groupStopped (s.joins core r) = false → y.life = .ready)) ∧
       (∀ x, r.savedFibre = some x →
         y = { x with
           life := if r.exitWait then .exiting else .ready, core := core, windowBase := s.fibreSlot core, acquired := addEdges core x.acquired r.acquired,
           mark := if r.exitWait then none else x.mark })) ∧
     (s.coreOpen core = false ∨ room = false → exec (.taskStart core) s = .next s)) ∧
   ∀ (s : State) (thief context f : Nat) (r : Frame) (rest : List (Nat × Frame)), s.stealable thief context = (f, r) :: rest →
     let may := s.coreOpen thief = true ∧ s.startableOf thief context = []
     (¬ may → exec (.recordSteal thief context) s = .next s) ∧
     (may → s.roomForFibre thief (s.recordNeeds r).1 (s.recordNeeds r).2 = true →
       ∃ t y, exec (.recordSteal thief context) s = .next t ∧ t.fibres.get? f = some y ∧ y.core = thief ∧ y.windowBase = s.fibreSlot thief ∧
         (r.savedFibre = none → y.group = none ∧ y.pc = r.pc ∧ y.ages[0] = BitVec.ofNat 64 r.ordinal ∧ y.life = .ready) ∧
         ∀ x, r.savedFibre = some x → y.pc = x.pc ∧ y.named = x.named ∧ y.life = if r.exitWait then .exiting else .ready)) ∧
  (∀ (s : State) (core f : Nat) (x : Fibre) (rest : List (Nat × Fibre)), s.savable core = (f, x) :: rest →
     (s.mustSave core = false ∨ x.pend ≠ [] → exec (.parkedFibreSave core) s = .next s) ∧
     (s.mustSave core = true → x.pend = [] → x.badStack ≠ [] → x.group = none → exec (.parkedFibreSave core) s = .next (s.abortAny x.context)) ∧
     (s.mustSave core = true → x.pend = [] → x.badStack = [] →
       (∀ g, x.group = some g → exec (.parkedFibreSave core) s =
         .next ((s.settleBank g).saveParked f x (x.saveArea ((s.settleBank g).bankOf x)))) ∧
       (x.group = none → ∀ r base, s.frames.get? f = some r → s.takenSlots x.context + saveSlots x ≤ s.frameSlots x.context →
         firstFree (s.usedSlots x.context) (s.frameSlots x.context) (saveSlots x) = some base →
         ∃ t q y, exec (.parkedFibreSave core) s = .next t ∧ t.fibres = s.fibres.del f ∧ t.frames.get? f = some q ∧ q.state = .saved ∧
           q.saveSlot = some (base, saveSlots x) ∧ q.savedFibre = some y ∧ y = { x with bank := s.bankOf x, life := .ready, hints := {} }))) ∧
  (∀ (s : State) (f : Nat) (x : Fibre) (why : Stall), s.fibres.get? f = some x → x.life = .stalled why →
     let ready : Host.Outcome State Fault Refusal := .next { s with fibres := s.fibres.put f { x with life := .ready } }
     let ends (c : Prop) (t : Host.Outcome State Fault Refusal) : Prop := (c → exec (.stallClear f) s = t) ∧ (¬ c → exec (.stallClear f) s = .next s)
     let clears (c : Prop) : Prop := ends c ready
     let kept (limit : Option Nat) (n : Nat) : Prop := ∀ l ∈ limit, n ≤ l ∨ 4095 ≤ l
     (why = .result → clears (∀ p ∈ x.pend, p.op.class ≠ .ld ∧ p.hold = false)) ∧ (why = .stores → clears (∀ p ∈ x.pend, p.op.class ≠ .st)) ∧
     (why = .counter 0 → clears (x.counts.ld < 4095)) ∧ (why = .counter 1 → clears (x.counts.st < 4095)) ∧ (why = .counter 2 → clears (x.counts.cp < 4095)) ∧
     (why = .counter 3 → clears (x.counts.mx < 4095)) ∧ (why = .counter 4 → clears (x.counts.ry < 4095)) ∧
     (why = .resolution ∨ why = .specRoom → clears (x.speculative = false)) ∧ (why = .acquire → clears (x.acquired = [])) ∧
     (∀ since promoted, why = .rayUnit since promoted →
       ends (s.raysHeld x.core < 512 ∧ ∀ e ∈ s.rayRequests x.core, requestBefore e.1 e.2.1 e.2.2 x.cls promoted since = false)
         (.next { s with fibres := s.fibres.put f { x with life := .ready, rayRequest := some (since, promoted) } })) ∧
     (why = .collectives → clears (s.collectives.length < 64)) ∧
     (∀ g k, why = .matrixQueue → x.group = some g → s.groups.get? g = some k → clears (k.matrix.length < 64)) ∧
     (∀ q, why = .queue q → clears (∀ b, x.queues[q] = some b → 2 ≤ q.val ∨ s.elementHere f x b = true)) ∧
     (∀ r, why = .rays r → clears (∀ y ∈ x.rays, y.hit ≠ r)) ∧ (why = .migration ∨ why = .saving → clears True) ∧
     (∀ ld st cp mx ry, why = .counts ld st cp mx ry →
       ends (kept ld x.counts.ld ∧ kept st x.counts.st ∧ kept cp x.counts.cp ∧ kept mx x.counts.mx ∧ kept ry x.counts.ry) (.next (s.endWait f x cp mx ry))) ∧
     (∀ n, why = .matrix n → ends (x.counts.mx ≤ n ∨ 4095 ≤ n) (.next ((s.acquireEngines f x none (some n) none).passWait f))) ∧
     (why = .translations → ends (∀ e ∈ s.fibres, e.2.context = x.context → e.2.pend = []) (.next (s.passWait f))) ∧
     ((∃ b, why = .barrier b) ∨ (∃ w m pc, why = .list w m pc) ∨ (∃ loc n d, why = .syncWord loc n d) → exec (.stallClear f) s = .next s))

/-- R82: between passes, a core's forming step puts its Ready fibres that belong to no convoy into convoys of their kin at their program point and merges
what can be merged; it changes convoys and keys alone, and leaves every convoy of one kin, at one program point, and of at most 32 fibres. During a
pass nothing changes. R84, R85, R71: a live core's free lane starts a pass of the convoy it chooses, and only when no pass is in progress; a repeated
unit's next repetition is a pass of its fibre's convoy, and a fibre without a pending repetition has none. A Ready convoy, or a request of a unit's
queue or of the ray unit, that has waited 1,024 cycles is promoted (R21); one that has not is left as it is. -/
def Obligations.Convoys : Prop :=
  (∀ (s : State) (core : Nat),
     (s.pass ≠ none → exec (.convoyForming core) s = .next s) ∧
     (s.pass = none → s.fibres.Pairwise (fun a b => a.1 < b.1) → (s.core core).convoys.Pairwise (fun a b => a.1 < b.1) →
       (∀ c ∈ (s.core core).convoys, c.1 < s.fresh) →
       let sound (c : Convoy) : Prop :=
         c.members ≠ [] ∧ c.members.length ≤ 32 ∧ ∀ f ∈ c.members, ∃ x, s.fibres.get? f = some x ∧ x.kin = c.of ∧ (x.pc, x.rep) = s.convoyPoint c
       ∃ t, exec (.convoyForming core) s = .next t ∧ t = { s with cores := t.cores, fresh := t.fresh } ∧
         (∀ c, ∃ convoys, t.core c = { s.core c with convoys := convoys }) ∧ (∀ c, c ≠ core → t.core c = s.core c) ∧
         (∀ e ∈ s.fibresOn core, e.2.life = .ready → ∃ c ∈ (t.core core).convoys, e.1 ∈ c.2.members) ∧
         ((∀ c ∈ (s.core core).convoys, sound c.2) → ∀ c ∈ (t.core core).convoys, sound c.2))) ∧
  ((∀ (s : State) (core k : Nat) (c : Convoy), (s.core core).convoys.get? k = some c →
     let free := s.pass = none ∧ s.coreLive core = true ∧ s.chosen core c.lane = some k
     let begun : State := { s with pass := some { core := core, convoy := k, opened := false, todo := c.members, members := c.members, snapshot := [] } }
     (free → exec (.convoyPass core k) s = .next begun) ∧ (¬ free → exec (.convoyPass core k) s = .next s) ∧
     ∀ f x, s.fibres.get? f = some x → x.core = core →
       (x.rep = 0 → exec (.repetition f) s = .next s) ∧
       (0 < x.rep → ((s.core core).convoys.find? fun e => e.2.members.contains f) = some (k, c) →
         (free → exec (.repetition f) s = .next begun) ∧ (¬ free → exec (.repetition f) s = .next s))) ∧
   (∀ (s : State) (core k : Nat) (c : Convoy), (s.core core).convoys.get? k = some c →
     (c.issued + 1024 ≤ (s.core core).clock → exec (.convoyAgePromotion core k) s =
       .next (s.setCore core { s.core core with convoys := (s.core core).convoys.put k { c with promoted := true } })) ∧
     ((s.core core).clock < c.issued + 1024 → exec (.convoyAgePromotion core k) s = .next s)) ∧
   (∀ (s : State) (g : Nat) (x : Group), s.groups.get? g = some x →
     (∀ c cs, x.copies = c :: cs → exec (.requestAgePromotion (.copy g)) s =
       .next (s.setGroup g (if c.since + 1024 ≤ (s.core x.core).clock then { x with copies := { c with promoted := true } :: cs } else x))) ∧
     ∀ c cs, x.matrix = c :: cs → exec (.requestAgePromotion (.mtx g)) s =
       .next (s.setGroup g (if c.since + 1024 ≤ (s.core x.core).clock then { x with matrix := { c with promoted := true } :: cs } else x))) ∧
   ∀ (s : State) (f : Nat) (x : Fibre) (t : Nat) (b : Bool), s.fibres.get? f = some x →
     let old := decide (t + 1024 ≤ (s.core x.core).clock) || b
     (x.life = .stalled (.rayUnit t b) → exec (.requestAgePromotion (.ray f)) s = .next (s.setFibre f { x with life := .stalled (.rayUnit t old) })) ∧
     (x.life = .ready → x.rayRequest = some (t, b) → exec (.requestAgePromotion (.ray f)) s = .next (s.setFibre f { x with rayRequest := some (t, old) })))

/-- R242: `elect` finds the participant of least rank whose operand b is not zero: its group-relative index is written and only it gets a true predicate;
with none, all ones and false. In the mask form it completes within its pass; in the list form a detached fibre raises FLT_DETACHED, a list out of
limits FLT_MASK_MISMATCH, a fibre that its list does not name acts alone, and one that it names stalls until every listed fibre is there. Each
participant's b is its own: where b names a queue register that the participant has bound, the element that it popped, and elsewhere the register of
that name (R172). R243, R244: `kst` records a write of the group's bank; a detached fibre raises FLT_DETACHED. The writes take effect in the order of
their issue cycles, and of their writers' indices: of two writes to one register the later one stays. -/
def Obligations.Elections_and_banks : Prop :=
  (∀ (s : State) (f : Nat) (x : Fibre), s.Issues f x → ∀ (d : Dst) (a b : Src) (p : Fin 8),
     let w := s.operand x a
     let first := (w.extractLsb' 0 10).toNat
     let count := (w.extractLsb' 10 11).toNat
     let stride := (w.extractLsb' 21 10).toNat
     let idx := (List.range count).map fun k => first + k * stride
     let i : Instr := .elect d a b p
     let votes (e : Nat × Fibre) : Bool := e.2.lastOperand (s.bankOf e.2) (x.asNamed b) != 0
     let result (c : CrossSet) (y : Fibre) : Fibre := match c.parts.find? votes with
       | none => (y.write d (BitVec.allOnes 64)).setPred p false
       | some e => (y.write d (BitVec.ofNat 64 e.2.fid)).setPred p (decide (e.1 = c.rank))
     (x.popped = [] → x.asNamed b = b) ∧
     (∀ e q k v, x.popped = [(k, v)] → x.pops = [q] → (b = .k k → x.asNamed b = .n (Fin.ofNat 32 (28 + q.val))) ∧ (b = .a e → x.asNamed b = b)) ∧
     (∀ (y : Fibre) (bank : Vector Word 16) (c : Src), (y.popped = [] → y.lastOperand bank c = y.read bank c) ∧
       ∀ v, y.popped.getLast? = some v →
         (y.queues[0] = none → y.lastOperand bank (.n 28) = y.named[28]) ∧ (y.queues[0] ≠ none → y.lastOperand bank (.n 28) = v.2) ∧
         (y.queues[1] = none → y.lastOperand bank (.n 29) = y.named[29]) ∧ (y.queues[1] ≠ none → y.lastOperand bank (.n 29) = v.2)) ∧
     (w.msb = false → exec i s = .next (s.completed f x (result (s.maskSet f (w.setWidth 32).toNat x) x))) ∧
     (w.msb = true → x.group = none → exec i s = .next (s.trapped f x .detached 0 0)) ∧
     ∀ g, w.msb = true → x.group = some g →
       (count = 0 ∨ 1024 < count ∨ stride = 0 ∨ s.indexBound g ≤ first + (count - 1) * stride → exec i s = .next (s.trapped f x .maskMismatch 0 0)) ∧
       (0 < count → count ≤ 1024 → 0 < stride → first + (count - 1) * stride < s.indexBound g →
         (x.fid ∉ idx → exec i s = .next (s.completed f x (result ⟨0, [(0, x)], 1⟩ x))) ∧
         (x.fid ∈ idx → s.arrived f g (.list w false x.pc) idx = none → exec i s = .next (s.settle f x (.arrive (.list w false x.pc)))) ∧
         (x.fid ∈ idx → ∀ here, s.arrived f g (.list w false x.pc) idx = some here →
           let at_ (rank : Nat) : CrossSet := ⟨rank, here.map fun e => (e.1, e.2.2), count⟩
           exec i s = .next (s.settle f x (.done
             (((here.filter fun e => e.2.1 != f).foldl (fun u e => u.completeListed e.2.1 w fun y => .other (result (at_ e.1) y)) s).setFibre f
               (result (at_ (idx.idxOf x.fid)) x))))))) ∧
  ((∀ (s : State) (f : Nat) (x : Fibre), s.Issues f x → ∀ (a : Src) (k : Fin 16),
     (x.group = none → exec (.kst a k) s = .next (s.trapped f x .detached 0 0)) ∧
     ∀ g r, x.group = some g → s.groups.get? g = some r → exec (.kst a k) s =
       .next (s.settle f x (.done (s.setGroup g { r with bankWrites := r.bankWrites ++ [((s.core x.core).clock, x.fid, k, s.operand x a)] })))) ∧
   ∀ (s : State) (g : Nat) (r : Group), s.groups.get? g = some r → r.bankWrites ≠ [] →
     ∃ t q, exec (.kstTakeEffect g) s = .next t ∧ t.groups = s.groups.put g q ∧ q = { r with bank := q.bank, bankWrites := [] } ∧ t.fibres = s.fibres ∧
       t.home = s.home ∧
       (∀ k : Fin 16, (∀ w ∈ r.bankWrites, w.2.2.1 ≠ k) → q.bank[k] = r.bank[k]) ∧
       ∀ w ∈ r.bankWrites, (∀ v ∈ r.bankWrites, v.2.2.1 = w.2.2.1 → v = w ∨ v.1 < w.1 ∨ (v.1 = w.1 ∧ v.2.1 < w.2.1)) → q.bank[w.2.2.1] = w.2.2.2)

/-- R248: a member that arrives at a barrier waits while some member has not; with the last arrival the barrier's phase rises by one, no arrival remains,
and every member goes on, after the stores that their core held to compressible pages have reached their tiles (R463, as the model reads it:
assumption 124). A detached fibre raises FLT_DETACHED. R250: `barm` in the mask form completes in its pass, and the members that its word names know
what each of them knew of the slice; in the list form a member waits until every listed fibre is at a `barm` with its word, and then all of them go
on. A fibre that its word does not name goes on at once; a detached one raises FLT_DETACHED in the list form, and a list out of limits
FLT_MASK_MISMATCH. R251: a stuck group's members take FLT_MASK_MISMATCH, each with a trap vector and outside its handler going on at that vector, and
every arrival is withdrawn; a group that is not stuck is left alone. -/
def Obligations.Barriers : Prop :=
  (∀ (s : State) (f : Nat) (x : Fibre), s.Issues f x → ∀ (id : Fin 64), id.val < 16 →
     (x.group = none → exec (.bar id) s = .next (s.trapped f x .detached 0 0)) ∧
     ∀ g k, x.group = some g → s.groups.get? g = some k → (k.barriers.toList.getD id.val {}).arrivals.contains f = false →
       let b := k.barriers.toList.getD id.val {}
       let arrived := b.arrivals ++ [f]
       let set (v : Barrier) : State := s.setGroup g { k with barriers := k.barriers.setIfInBounds id.val v }
       b.arrivals.Nodup →
       ((∃ e ∈ s.members g, e.1 ∉ arrived) →
         exec (.bar id) s = .next (s.settle f x (.wait (set { b with arrivals := arrived }) (.barrier id.val)))) ∧
       ((∀ e ∈ s.members g, e.1 ∈ arrived) →
         exec (.bar id) s = .next (s.settle f x (.done ((b.arrivals.foldl State.passWait
           ((set { phase := b.phase + 1, arrivals := [] }).writeBackIf x.core fun _ y => y.comp != 0)).meet g arrived))))) ∧
  (∀ (s : State) (f : Nat) (x : Fibre), s.Issues f x → ∀ a : Src,
     let w := s.operand x a
     let first := (w.extractLsb' 0 10).toNat
     let count := (w.extractLsb' 10 11).toNat
     let stride := (w.extractLsb' 21 10).toNat
     (x.group = none → w.msb = false → exec (.barm a) s = .next (s.settle f x (.done s))) ∧
     (x.group = none → w.msb = true → exec (.barm a) s = .next (s.trapped f x .detached 0 0)) ∧
     ∀ g p, x.group = some g → s.pass = some p →
       (w.msb = false → (w.setWidth 32).getLsbD (p.members.idxOf f) = false → exec (.barm a) s = .next (s.settle f x (.done s))) ∧
       (w.msb = false → (w.setWidth 32).getLsbD (p.members.idxOf f) = true →
         exec (.barm a) s = .next (s.settle f x (.done (s.meet g
           (((List.range p.members.length).filter fun i => (w.setWidth 32).getLsbD i).map fun i => p.members.getD i f))))) ∧
       (w.msb = true → s.badList g first count stride = true → exec (.barm a) s = .next (s.trapped f x .maskMismatch 0 0)) ∧
       (w.msb = true → s.badList g first count stride = false →
         ((∀ i < count, first + i * stride ≠ x.fid) → exec (.barm a) s = .next (s.settle f x (.done s))) ∧
         ((∃ i < count, first + i * stride = x.fid) →
           let waits (i : Nat) : Prop := ∃ e ∈ s.members g, e.2.fid = i ∧ ∃ pc, e.2.waitsFor = some (.list w true pc)
           ((∃ i < count, first + i * stride ≠ x.fid ∧ ¬ waits (first + i * stride)) →
             exec (.barm a) s = .next (s.settle f x (.arrive (.list w true x.pc)))) ∧
           ((∀ i < count, first + i * stride ≠ x.fid → waits (first + i * stride)) →
             let others := ((s.members g).filter fun e => (listIndices first count stride).contains e.2.fid && e.1 != f).map (·.1)
             exec (.barm a) s = .next (s.settle f x (.done ((others.foldl State.passWait s).meet g (f :: others)))))))) ∧
  (∀ (s : State) (g : Nat),
     (s.stuck g = false → exec (.stuckGroupFault g) s = .next s) ∧
     (s.stuck g = true → ∃ t, exec (.stuckGroupFault g) s = .next t ∧
       (∀ q, t.groups.get? g = some q → ∀ b ∈ q.barriers.toList, b.arrivals = []) ∧
       ∀ f x c, s.fibres.get? f = some x → (f, x) ∈ s.members g → s.contexts.get? x.context = some c → c.desc.tvec ≠ 0 → x.trap.inHandler = false →
         s.fibres.Pairwise (fun a b => a.1 < b.1) →
         ∃ y, t.fibres.get? f = some y ∧ y.life = .ready ∧ y.pc = c.desc.tvec ∧ y.trap.inHandler = true ∧ y.trap.code = 8 ∧ y.trap.unit = x.unit ∧ y.named = x.named))

/-- R234, R240, R179: after saved groups, the first of a die's placeable Waiting groups is placed, on the core that its order of cores gives, or, of a
coresident grid that comes first on both dies, every Waiting group of it in one step; where it does not fit, or its records find no room in the frame
area (the model's choice, assumption 116), nothing is placed. The boundary of a core's local array moves by at most one step and once in 65,536
cycles, writing its dirty bytes back before L1 shrinks. R298-R300, R233: the prologue engine runs one binding at a time, once what the group acquired
is reconciled; a fault of one leaves its destination undefined and is the members' to raise at their first units. The addition of a speculative
group's binding is held. With the bindings done, or one faulted, the group runs and its members are Ready. -/
def Obligations.Placement : Prop :=
  ((∀ (s : State) (die : Nat),
     let u := s.restoreSaved fun g => g.die == die
     exec (.groupPlacement die) s = .next (u.placeFirst (u.placeable die)) ∧ u.placeFirst [] = u) ∧
   (∀ (s : State) (g : Nat) (k : Group) (l : Launch) (rest : List (Nat × Group)), s.launches.get? k.launch = some l →
     (l.kernel.coresident = false → ∀ core, s.placeOn l k.die l.kernel.smin = some core → s.recordsFit l = true → s.placeFirst ((g, k) :: rest) = s.placeGroup g k l core) ∧
     (l.kernel.coresident = false → s.placeOn l k.die l.kernel.smin = none ∨ s.recordsFit l = false → s.placeFirst ((g, k) :: rest) = s) ∧
     (l.kernel.coresident = true → s.firstOnDies k.launch = true → ∀ t, s.placeAll k.launch l = some t → s.placeFirst ((g, k) :: rest) = t) ∧
     (l.kernel.coresident = true → s.firstOnDies k.launch = false ∨ s.placeAll k.launch l = none → s.placeFirst ((g, k) :: rest) = s)) ∧
   ∀ (s : State) (core : Nat) (lowHits : Bool), ∃ t, exec (.localBoundaryStep core lowHits) s = .next t ∧ t.fibres = s.fibres ∧ t.groups = s.groups ∧
     (s.core core).interval < (t.core core).interval ∧ 65536 * (t.core core).interval ≤ (t.core core).clock ∧
     ((t.core core).boundary = (s.core core).boundary ∨ (t.core core).boundary = (s.core core).boundary + 1 ∨
       ((t.core core).boundary + 1 = (s.core core).boundary ∧ (t.core core).dirty = []))) ∧
  (∀ (s : State) (g : Nat) (k : Group) (l : Launch), s.groups.get? g = some k → s.launches.get? k.launch = some l → s.contextRuns k.context = true →
     k.state = .prologue →
     (k.prologueFault = none → ∀ b, l.bindings[k.binding]? = some b →
       ((s.engineAcquires k.acquired).2 = false → exec (.prologueBinding g) s = .next (s.engineAcquires k.acquired).1) ∧
       ((s.engineAcquires k.acquired).2 = true →
         let u := (s.engineAcquires k.acquired).1
         let base := (b.src.toNat : Int) + k.gx * b.gsx + k.gy * b.gsy + k.gz * b.gsz
         let rows := u.bindingRows b k.linear base 0 { u.groupAgent g k none with group := none } b.rows ([], 0)
         (∀ e, rows = .error e → exec (.prologueBinding g) s = .next (u.bindingFaults g k b l.bindings.length e.1 e.2 true)) ∧
         ∀ ws fl v q, rows = .ok ((ws, fl), v) → v.groups.get? g = some q →
           let q' : Group := { q with slice := ws.foldl (fun m w => m.writeBytes w.1.toNat w.2) q.slice, binding := q.binding + 1,
                                      prologueFlags := q.prologueFlags ||| fl }
           let n := b.cols * b.rows * typeBytes b.dtype
           (b.sync = 0 → exec (.prologueBinding g) s = .next (v.setGroup g q')) ∧
           (b.sync ≠ 0 → k.speculative = true → exec (.prologueBinding g) s =
             .next (v.setGroup g { q' with heldAdds := q.heldAdds ++ [⟨b.sync, BitVec.ofNat 64 n, none⟩] })) ∧
           (b.sync ≠ 0 → k.speculative = false →
             (∀ t, (v.setGroup g q').engineAdd k.die k.context (l.kernel.ordered || l.task.isSome) b.sync n [] = .ok t → exec (.prologueBinding g) s = .next t) ∧
             ∀ e, (v.setGroup g q').engineAdd k.die k.context (l.kernel.ordered || l.task.isSome) b.sync n [] = .error e →
               exec (.prologueBinding g) s = .next ((v.setGroup g q').bindingFaults g k b l.bindings.length e b.sync false)))) ∧
     (l.bindings.length ≤ k.binding → exec (.prologueBinding g) s = .next s) ∧
     (k.binding < l.bindings.length → exec (.prologueComplete g) s = .next s) ∧
     (l.bindings.length ≤ k.binding → k.stream = none → k.dbg.stopping = none → s.fibres.Pairwise (fun a b => a.1 < b.1) →
       ∃ t, exec (.prologueComplete g) s = .next t ∧ t.groups = s.groups.put g { k with state := .running } ∧ t.home = s.home ∧
         (∀ f x, (f, x) ∈ s.members g → x.life = .placed →
           t.fibres.get? f = some { x with life := .ready, flags := x.flags ||| k.prologueFlags, bindingFault := k.prologueFault }) ∧
         ∀ f, (∀ e ∈ s.members g, e.1 ≠ f) → t.fibres.get? f = s.fibres.get? f))

/-- R67-R72, R52: a hint word of a kind above the one before it, at most three to a unit, is kept for the unit and pc moves past it; any other makes the
unit illegal. -/
def Obligations.Hint_words : Prop :=
  ∀ (s : State) (f : Nat) (x : Fibre), s.Issues f x →
    let word (i : Instr) (kind : Nat) (h : Hints) : Prop :=
      (x.hints.words < 3 → (∀ k, x.hints.lastKind = some k → k < kind) →
        exec i s = .next (s.setFibre f { x with pc := x.pc + 4, hints := { h with words := x.hints.words + 1, lastKind := some kind } })) ∧
      (3 ≤ x.hints.words ∨ (∃ k, x.hints.lastKind = some k ∧ kind ≤ k) → exec i s = .next (s.trapped f x .illegal 0 0))
    (∀ p, word (.wideImmediateHint p) 0 { x.hints with wide := some p }) ∧
    (∀ (n : Fin 64) (d a b c : Bool), word (.repeatPrefix n d a b c) 1 { x.hints with rep := some ⟨n.val + 1, d, a, b, c⟩ }) ∧
    word .hintNone 2 { x.hints with sched := some 0 } ∧ word .hintYield 2 { x.hints with sched := some 1 } ∧
    word .hintJoin 2 { x.hints with sched := some 2 } ∧ word .hintLong 2 { x.hints with sched := some 3 } ∧
    ∀ (en : Bool) (rnd : Rnd) (sat : Bool) (cache : CachePolicy), word (.rareModifierHint en rnd sat cache) 3
      { x.hints with rnd := if en then some rnd else none, sat := sat, cache := cache }

/-- R255, R256, R261: `swwait` on a word whose generation has reached the awaited one completes: the generation is written, and the releases of the
additions are acquired. On any other it stalls, and a later read that finds the generation lets it go on past the instruction. A word that is
misplaced or cannot be read raises its fault, at the instruction and at a later read; a copy fault not yet raised is raised there. The generation of a
freed word is undefined (R311). R263, R264, R283: a wait completes when every count that it bounds is at or below its limit, where a limit of 63 of
`wait` bounds nothing, and acquires what the engine operations that its limits cover did; one that bounds no engine class acquires nothing. Else the
fibre stalls. A copy fault not yet raised is raised at a `wait` (R261). -/
def Obligations.Waits : Prop :=
  ((∀ (s : State) (f : Nat) (x : Fibre), s.Issues f x → ∀ (a b : Src) (d : Dst),
     let at_ := s.operand x a
     let want := (s.operand x b).setWidth 32
     (∀ c rest, x.copyFaults = c :: rest →
       exec (.swwait a b d) s = .next (s.settle f x (.copyTrap (s.setFibre f (s.raisesCopyFault x)) c.code c.addr c.record))) ∧
     (x.copyFaults = [] →
       (∀ e, s.locate f x (syncAccess false) at_ 32 32 = .error e → exec (.swwait a b d) s = .next (s.trapped f x e at_ 0)) ∧
       (∀ o t, s.locate f x (syncAccess false) at_ 32 32 = .ok (.slice o, t) ∨ s.locate f x (syncAccess false) at_ 32 32 = .ok (.grant o, t) →
         exec (.swwait a b d) s = .next (s.trapped f x .access at_ 0)) ∧
       ∀ pa comp o p va t, s.locate f x (syncAccess false) at_ 32 32 = .ok (.mem pa comp o p va, t) →
         let u := t.flushLine x.core pa comp
         (u.atomicError f x 32 (.mem pa comp o p va) = true → exec (.swwait a b d) s = .next (s.trapped f x .ecc at_ 0)) ∧
         (u.atomicError f x 32 (.mem pa comp o p va) = false →
           (u.home.read pa 32 comp = none → exec (.swwait a b d) s = .next (s.trapped f x .decode at_ 0)) ∧
           ∀ bs, u.home.read pa 32 comp = some bs → ∃ gen v, u.readGen x.context va pa comp = some (gen, v) ∧
             (u.Unfreed x.context va 32 → gen = BitVec.ofNat 32 (fieldOf bs 16 4) ∧ v = u) ∧
             ((gen - want).toNat < 2 ^ 31 → ∃ t y, exec (.swwait a b d) s = .next (s.settle f x (.done t)) ∧ t.fibres = v.fibres.put f y ∧
               y = (x.write d (gen.setWidth 64)).acquire (v.edgesOf pa) ∧ t = { v with fibres := t.fibres, groups := t.groups } ∧
               ∀ g k, v.groups.get? g = some k → t.groups.get? g = some (k.learn [.fibre f] (· == .word pa))) ∧
             (2 ^ 31 ≤ (gen - want).toNat → exec (.swwait a b d) s = .next (s.settle f x (.wait v (.syncWord at_ want d))))))) ∧
   ∀ (s : State) (f : Nat) (x : Fibre) (va : Word) (want : BitVec 32) (d : Dst), s.fibres.get? f = some x → x.life = .stalled (.syncWord va want d) →
     (x.copyFaults ≠ [] → exec (.swwaitPoll f) s = .next (s.takeCopyFault f x)) ∧
     (x.copyFaults = [] →
       (∀ e, s.readWord f x va = .error e → exec (.swwaitPoll f) s = .next (s.trapAtWait f x .unit e va 0)) ∧
       ∀ pa gen u, s.readWord f x va = .ok (pa, gen, u) →
         (2 ^ 31 ≤ (gen - want).toNat → exec (.swwaitPoll f) s = .next u) ∧
         ((gen - want).toNat < 2 ^ 31 → u.Undebugged → ∃ t y, exec (.swwaitPoll f) s = .next t ∧ t.fibres.get? f = some y ∧ y.life = .ready ∧
           (x.hints.rep = none → y.pc = x.pc + 4) ∧
           (∀ j, d = .n j → y.named[j] = gen.setWidth 64) ∧ (d = .push → y.ages[0] = gen.setWidth 64) ∧ t.home = u.home))) ∧
  (∀ (s : State) (f : Nat) (x : Fibre), s.Issues f x →
     let limit (n : Fin 64) : Option Nat := if n.val = 63 then none else some n.val
     let wait (i : Instr) (ld st cp mx ry : Option Nat) : Prop :=
       let met := (∀ n, ld = some n → x.counts.ld ≤ n) ∧ (∀ n, st = some n → x.counts.st ≤ n) ∧ (∀ n, cp = some n → x.counts.cp ≤ n) ∧
         (∀ n, mx = some n → x.counts.mx ≤ n) ∧ ∀ n, ry = some n → x.counts.ry ≤ n
       (¬ met → exec i s = .next (s.settle f x (.wait s (.counts ld st cp mx ry)))) ∧
       (met → x.copyFaults = [] → exec i s = .next (s.settle f x (.done (s.acquireEngines f x cp mx ry)))) ∧
       (met → ∀ c rest, x.copyFaults = c :: rest →
         exec i s = .next (s.settle f x (.copyTrap ((s.acquireEngines f x cp mx ry).updFibre f s.raisesCopyFault) c.code c.addr c.record)))
     s.acquireEngines f x none none none = s ∧
     (∀ ld st cp, wait (.wait ld st cp) (limit ld) (limit st) (limit cp) none none) ∧
     (∀ mx ry, wait (.waitMxRy mx ry) none none none (limit mx) (limit ry)) ∧
     ∀ a,
       let n := (s.operand x a).toNat
       (x.counts.mx ≤ n → exec (.mwait a) s = .next (s.settle f x (.done (s.acquireEngines f x none (some n) none)))) ∧
       (n < x.counts.mx → exec (.mwait a) s = .next (s.settle f x (.wait s (.matrix n)))))

/-- R258, R79: `kick` with an aligned list of 1 to 256 records appends its command to the queue of the fibre's group, or of the fibre itself when it is
detached, and its cp count rises by one; the list is read later. A misplaced list or another count raises a fault, and so does a guard in a fibre of
no group; with 4,095 commands outstanding it stalls. The guard writes in force by then have taken effect (R266), and none that is not. R265, R266:
`gset` and `gset.open` record a write of a guard slot, and a `gset` of True is a release; a detached fibre raises FLT_DETACHED. The writes take effect
in the order of their issue cycles and of their writers: the last of a slot is its state, and a slot not written keeps its own. A command at the head
tests the state before a write, but one that was issued after the write, by the same fibre, the state after it. R259, R265, R268: the command at the
head of a group's copy queue starts when its guard slot is True and it is its turn, once the releases that it acquires are reconciled, and not while
the slot is Open. With the slot False it is discarded: it never starts, and the cp count of its fibre falls. A detached fibre's command, and the copy
list of a packet, start without a guard. R257, R259, R261: a record of a started copy command that cannot be read, or that breaks a limit, faults. One
of one row of at most 64 bytes, within one line of device memory on either side, completes: the bytes read at its source are at its destination, its
addition is made, and the command is at its next record, or over after its last. An addition that fails faults too, with its bytes as written (R484).
Of faults of one record, those of its fields come first, then its source, then its destination, and an address that R261 does not give is 0, as the
model reads it (assumption 29). The owner is not speculative (R304), and source and destination share no byte (R260). -/
def Obligations.Copies : Prop :=
  (∀ (s : State) (f : Nat) (x : Fibre), s.Issues f x → ∀ (a b : Src) (g : Guard),
     let list := s.operand x a
     let n := (s.operand x b).toNat
     let good := list.toNat % 64 = 0 ∧ list.toNat < 2 ^ 52
     (list.toNat % 64 ≠ 0 → exec (.kick a b g) s = .next (s.trapped f x .align list 0)) ∧
     (list.toNat % 64 = 0 → 2 ^ 52 ≤ list.toNat → exec (.kick a b g) s = .next (s.trapped f x .translation list 0)) ∧
     (good → n = 0 ∨ 256 < n → exec (.kick a b g) s = .next (s.trapped f x .access 0 0)) ∧
     (good → 1 ≤ n → n ≤ 256 →
       (g.isSome = true → x.group = none → exec (.kick a b g) s = .next (s.trapped f x .detached 0 0)) ∧
       (g = none ∨ x.group ≠ none → 4095 ≤ x.counts.cp → exec (.kick a b g) s = .next (s.settle f x (.stall (.counter 2)))) ∧
       (x.counts.cp < 4095 → x.mark = none →
         let e := s.releaseOn x.core
         let c : CopyCommand :=
           { fibre := some f, number := x.issued.cp, unit := x.unit, list := list, count := n, guard := g, acquired := [e.2], since := (s.core x.core).clock }
         let counted (y : Fibre) : Fibre := { y with counts := { y.counts with cp := y.counts.cp + 1 }, issued := { y.issued with cp := y.issued.cp + 1 } }
         (∀ k r y, x.group = some k → (e.1.dueGuards k).groups.get? k = some r → (e.1.dueGuards k).fibres.get? f = some y →
           exec (.kick a b g) s = .next (s.settle f x (.done (((e.1.dueGuards k).setGroup k
             { r.learn [.operation f .cp x.issued.cp] (· == .fibre f) with copies := r.copies ++ [c] }).setFibre f (counted y))))) ∧
         (x.group = none → g = none → ∃ t, exec (.kick a b g) s = .next (s.settle f x (.done t)) ∧
           t.fibres.get? f = some { counted x with copies := x.copies ++ [c] } ∧ t = { e.1 with fibres := t.fibres } ∧ ∀ h, h ≠ f → t.fibres.get? h = s.fibres.get? h)) ∧
       ∀ (u : State) k r, u.groups.get? k = some r → (∀ w ∈ r.guardWrites, (u.core r.core).clock < w.1 + 2) → u.dueGuards k = u)) ∧
  ((∀ (s : State) (f : Nat) (x : Fibre), s.Issues f x → ∀ (slot : Fin 64) (b : Src), slot.val < 16 →
     (x.group = none → exec (.gset slot b) s = .next (s.trapped f x .detached 0 0) ∧ exec (.gsetOpen slot) s = .next (s.trapped f x .detached 0 0)) ∧
     ∀ g r, x.group = some g → s.groups.get? g = some r →
       let e := s.releaseOn x.core
       let write (u : State) (k : Group) (v : GuardState) (e : Edge) : Host.Outcome State Fault Refusal := .next (s.settle f x (.done (u.setGroup g
         { k with guardWrites := r.guardWrites ++ [((s.core x.core).clock, x.fid, Fin.ofNat 16 slot.val, v, e)] })))
       (s.operand x b ≠ 0 → exec (.gset slot b) s = write e.1 (r.learn [.release e.2.1 e.2.2] (· == .fibre f)) .true_ e.2) ∧
       (s.operand x b = 0 → exec (.gset slot b) s = write s r .false_ (x.core, 0)) ∧ exec (.gsetOpen slot) s = write s r .open_ (x.core, 0)) ∧
   ∀ (s : State) (g : Nat) (r : Group), s.groups.get? g = some r →
     (r.guardWrites = [] → exec (.gsetTakeEffect g) s = .next s) ∧
     (r.guardWrites ≠ [] → (∃ t, exec (.gsetTakeEffect g) s = .next t) ∧
       (s.members g ≠ [] → r.copies = [] → r.matrix = [] → ∃ t q, exec (.gsetTakeEffect g) s = .next t ∧
         t = { s with cores := t.cores, groups := s.groups.put g q } ∧ q = { r with guards := q.guards, guardEdges := q.guardEdges, guardWrites := [] } ∧
         (∀ i : Fin 16, (∀ w ∈ r.guardWrites, w.2.2.1 ≠ i) → q.guards[i] = r.guards[i]) ∧
         ∀ w ∈ r.guardWrites, (∀ v ∈ r.guardWrites, v.2.2.1 = w.2.2.1 → v = w ∨ v.1 < w.1 ∨ (v.1 = w.1 ∧ v.2.1 < w.2.1)) →
           q.guards[w.2.2.1] = w.2.2.2.1) ∧
       ∀ c w i f x, r.copies = [c] → r.matrix = [] → r.guardWrites = [w] → c.guard = some i → c.passed = false → w.2.2.1 = i → c.fibre = some f →
         s.fibres.get? f = some x → s.members g ≠ [] →
         let own := x.fid = w.2.1 ∧ w.1 ≤ c.since
         ∃ t q, exec (.gsetTakeEffect g) s = .next t ∧ t.groups.get? g = some q ∧
           ((own ∧ w.2.2.2.1 = .true_) ∨ (¬ own ∧ r.guards[i] = .true_) ∨ (¬ own ∧ r.guards[i] = .open_ ∧ w.2.2.2.1 = .true_) →
             ∃ d, q.copies = [d] ∧ d.passed = true ∧ d.list = c.list) ∧
           ((own ∧ w.2.2.2.1 = .false_) ∨ (¬ own ∧ r.guards[i] = .false_) ∨ (¬ own ∧ r.guards[i] = .open_ ∧ w.2.2.2.1 = .false_) → q.copies = []) ∧
           ((own ∨ r.guards[i] = .open_) → w.2.2.2.1 = .open_ → q.copies = [c]))) ∧
  ((∀ (s : State) (g : Nat) (r : Group) (c : CopyCommand) (i : Fin 16), s.groups.get? g = some r → s.groups.Pairwise (fun a b => a.1 < b.1) → r.copies = [c] →
     r.matrix = [] → c.guard = some i → c.passed = false → c.started = none → r.guardWrites = [] →
     (r.guards[i] = .open_ → exec (.copyCommandStart (.group g)) s = .next s) ∧
     (r.guards[i] = .true_ → r.state = .running →
       let head : CopyCommand := { c with passed := true, acquired := c.acquired ++ r.guardEdges[i].toList }
       let u := s.setGroup g { r.learnGuard c.guard (c.fibre.map fun f => .operation f .cp c.number) with copies := [head] }
       u.ownerRuns (.group g) = true → u.copyTurn (.group g) head = true →
         ((u.engineAcquires head.acquired).2 = true → exec (.copyCommandStart (.group g)) s =
           .next ((u.engineAcquires head.acquired).1.setCopies (.group g) [{ head with started := some 0 }])) ∧
         ((u.engineAcquires head.acquired).2 = false → exec (.copyCommandStart (.group g)) s = .next (u.engineAcquires head.acquired).1)) ∧
     (r.guards[i] = .false_ → c.stamped = none → ∀ f x, c.fibre = some f → s.fibres.get? f = some x →
       exec (.copyCommandStart (.group g)) s = .next
         ((s.setGroup g { r with copies := [] }).setFibre f { x with counts := { x.counts with cp := x.counts.cp - 1 } }))) ∧
   ∀ (s : State) (o : CopyOwner) (c : CopyCommand) (rest : List CopyCommand), (∀ g, o ≠ .group g) → s.copiesOf o = c :: rest → c.guard = none → c.started = none →
     s.ownerRuns o = true → s.copyTurn o c = true →
     ((s.engineAcquires c.acquired).2 = true → exec (.copyCommandStart o) s =
       .next ((s.engineAcquires c.acquired).1.setCopies o ({ c with started := some 0, passed := true } :: rest))) ∧
     ((s.engineAcquires c.acquired).2 = false → exec (.copyCommandStart o) s = .next (s.engineAcquires c.acquired).1)) ∧
  (∀ (s : State) (w : CopyOwner) (i : Nat) (c : CopyCommand) (rest : List CopyCommand), s.copiesOf w = c :: rest → c.started = some i →
     let ag := s.copyAgent w c
     let read := s.engineBytes ag (c.list.toNat + 64 * i) 64
     (∀ e, read = .error e → exec (.copyRecordComplete w) s = .next (s.copyRecordFault w c rest ag i none e.1 e.2)) ∧
     ∀ bs t, read = .ok (bs, t) →
       (requestOf bs = none → exec (.copyRecordComplete w) s = .next (t.copyRecordFault w c rest ag i none .access 0)) ∧
       ∀ r, requestOf bs = some r → r.rows = 1 → r.row ≤ 64 → r.src.toNat % 64 + r.row ≤ 64 → r.dst.toNat % 64 + r.row ≤ 64 →
         (∀ e, t.engineBytes ag r.src.toNat r.row = .error e → exec (.copyRecordComplete w) s = .next (t.copyRecordFault w c rest ag i (some r) e.1 e.2)) ∧
         ∀ data u, t.engineBytes ag r.src.toNat r.row = .ok (data, u) →
           (∀ e, u.engineLocate ag r.dst.toNat r.row true = .error e →
             exec (.copyRecordComplete w) s = .next (t.copyRecordFault w c rest ag i (some r) e r.dst)) ∧
           ∀ pa comp o p va v, u.engineLocate ag r.dst.toNat r.row true = .ok (.mem pa comp o p va, v) → data.length = r.row → ag.speculative = false →
             (∀ b ∈ v.sourceBytes ag r, b < pa ∨ pa + r.row ≤ b) →
             let z := (v.writeHome comp (addressed pa data)).sendHome ((List.range data.length).map (pa + ·))
             (∀ e, z.copyAddition ag r = .error e → exec (.copyRecordComplete w) s = .next (z.copyRecordFault w c rest ag i none e r.sync)) ∧
             ∀ y, z.copyAddition ag r = .ok y →
               (i + 1 < c.count → exec (.copyRecordComplete w) s = .next (y.setCopies w ({ c with started := some (i + 1) } :: rest))) ∧
               (c.count ≤ i + 1 → exec (.copyRecordComplete w) s = .next (y.copyOver w c rest none)))

/-- R275, R278, R279, R281: a matrix instruction of a member whose operands keep the limits joins its group's queue, and its mx count rises; the records
of `mma` and `mew` are read from the slice at issue, as the fibre reads a slice. Limits broken raise FLT_ACCESS, a record that is misplaced or in
error its own fault, a detached fibre FLT_DETACHED; a full count or queue stalls. The address of a fault of a record is its operand, and of broken
limits 0, as the model reads R337 (assumption 23). The guard writes in force have taken effect (R266). `mrdy` covers the writes that its fibre knows
of (R280). -/
def Obligations.Matrix_commands : Prop :=
  ∀ (s : State) (f : Nat) (x : Fibre), s.Issues f x → ∀ (a b c : Src) (gd : Guard),
    (x.group = none → ∀ i ∈ [Instr.mma a b c gd, .mzero a gd, .mld a b c gd, .mst a b c gd, .mqnt a b c gd, .mew a b gd, .mrdy],
      exec i s = .next (s.trapped f x .detached 0 0)) ∧
    ∀ g k, x.group = some g → s.groups.get? g = some k →
      let command (fn : Nat) (a b c : Word) : MatrixCommand := { fibre := some f, unit := x.unit, fn := fn, a := a, b := b, c := c, guard := gd }
      let joins (u : State) (i : Instr) (q : MatrixCommand) : Prop :=
        (q.ok k.grant k.units = false → exec i s = .next (s.trapped f x .access 0 0)) ∧
        (q.ok k.grant k.units = true →
          (4095 ≤ x.counts.mx → exec i s = .next (s.settle f x (.stall (.counter 3)))) ∧
          (x.counts.mx < 4095 → 64 ≤ k.matrix.length → exec i s = .next (s.settle f x (.stall .matrixQueue))) ∧
          (x.counts.mx < 4095 → k.matrix.length < 64 → x.mark = none →
            let joined := { q with
              number := x.issued.mx, since := (s.core x.core).clock, stale := distinct (k.uncovered.map (·.off)), writes := q.ranges k.grant k.units }
            ∀ k' y, (u.dueGuards g).groups.get? g = some k' → (u.dueGuards g).fibres.get? f = some y →
              exec i s = .next (s.settle f x (.done (((u.dueGuards g).setGroup g
                { k'.learn [.operation f .mx x.issued.mx] (· == .fibre f) with matrix := k'.matrix ++ [joined] }).setFibre f
                { y with counts := { y.counts with mx := y.counts.mx + 1 }, issued := { y.issued with mx := y.issued.mx + 1 } })))))
      let va := s.operand x a
      let vb := s.operand x b
      let vc := s.operand x c
      let off := sliceOffset
      let bad (v : Word) (e : FaultCode) : Prop :=
        (off v % 16 ≠ 0 ∧ e = .align) ∨ (off v % 16 = 0 ∧ k.grant < off v + 16 ∧ e = .access) ∨
          (off v % 16 = 0 ∧ off v + 16 ≤ k.grant ∧ (∃ o ∈ k.badBytes, off v ≤ o ∧ o < off v + 16) ∧ e = .ecc)
      let read (u : State) (v : Word) := u.readSlice (.fibre f) k (off v) 16
      joins s (.mzero a gd) (command 1 va 0 0) ∧ joins s (.mld a b c gd) (command 2 va vb vc) ∧ joins s (.mst a b c gd) (command 3 va vb vc) ∧
      joins s (.mqnt a b c gd) (command 4 va vb vc) ∧
      (∀ v, (∀ i < 16, k.unacquired (.fibre f) (off v + i) = false) → read s v = (k.slice.readBytes (off v) 16, s)) ∧
      (∀ e, bad va e → exec (.mma a b c gd) s = .next (s.trapped f x e va 0)) ∧
      (∀ e, (∀ d, ¬ bad va d) → bad vb e → exec (.mma a b c gd) s = .next (s.trapped f x e vb 0)) ∧
      ((∀ e, ¬ bad va e) → (∀ e, ¬ bad vb e) →
        joins (read (read s va).2 vb).2 (.mma a b c gd) { command 0 va vb vc with recA := (read s va).1, recB := (read (read s va).2 vb).1 }) ∧
      (∀ e, bad vb e → exec (.mew a b gd) s = .next (s.trapped f x e vb 0)) ∧
      ((∀ e, ¬ bad vb e) → joins (read s vb).2 (.mew a b gd) { command 5 va vb 0 with recA := (read s vb).1 }) ∧
      exec .mrdy s = .next (s.settle f x (.done (s.setGroup g { k with uncovered := k.uncovered.filter fun w => !w.known.contains (.fibre f) })))

/-- R276, R21: the unguarded head of a group's matrix queue starts when it is its turn; a started command whose last step ends is gone from the queue, its
flags join its fibre's, and the fibre's mx count falls; a suspended one goes on once no command of a higher class is ready. R276, R285, R287, R288,
R289: what a step of a command does to the sixteen rows of its tile that are its turn, here of a command that reads neither bytes in error (R290) nor
bytes not covered (R280), before its last step: `mma` adds the exact product of a row of A and a column of B to each accumulator of the rows that its
mask selects, rounded once; `mzero` writes zeros; `mld` and `mst` move between slice and accumulators; `mqnt` writes quantised blocks; `mew` scales,
adds the bias and applies the activation. No other accumulator, and no other byte of the slice, changes. -/
def Obligations.Matrix_steps : Prop :=
  (∀ (s : State) (g : Nat) (k : Group) (c : MatrixCommand) (rest : List MatrixCommand), s.groups.get? g = some k → s.groups.Pairwise (fun a b => a.1 < b.1) →
     k.matrix = c :: rest → k.engineRuns = true →
     (c.guard = none → c.started = none → k.guardWrites = [] → (∀ d ∈ k.copies.head?, d.passed = true) → s.contextRuns k.context = true →
       TestUnit.core k.core ∉ s.platform.testing →
       (s.setGroup g { k with matrix := { c with passed := true } :: rest }).matrixTurn k { c with passed := true } = true →
       ∃ t, exec (.matrixCommandStart g) s = .next t ∧ t.fibres = s.fibres ∧ t.home = s.home ∧
         t.groups = s.groups.put g { k with matrix := { c with started := some 0, passed := true } :: rest }) ∧
     (c.suspended = true →
       (s.higherReady k.core k.cls = false → exec (.matrixResume g) s = .next (s.setGroup g { k with matrix := { c with suspended := false } :: rest })) ∧
       (s.higherReady k.core k.cls = true → exec (.matrixResume g) s = .next s)) ∧
     ∀ n f x, c.started = some n → c.suspended = false → c.stream = none → c.fibre = some f → s.fibres.get? f = some x → (∃ e, e ∈ s.members g) →
       (∀ d ∈ rest, d.started = none) → k.guardWrites = [] →
       let r := matrixStep { s := s, k := k, replaced := c.replaced } c n
       r.2 ≤ 16 * (n + 1) →
       ∃ t q, exec (.matrixStepEnd g) s = .next t ∧ t.groups.get? g = some q ∧ q.matrix = rest ∧ q.accumulators = r.1.k.accumulators ∧ q.slice = r.1.k.slice ∧
         t.home = s.home ∧
         t.fibres = s.fibres.put f { x with flags := x.flags ||| (c.flags ||| r.1.flags), counts := { x.counts with mx := x.counts.mx - 1 } }) ∧
  (∀ (s : State) (g n : Nat) (k : Group) (c : MatrixCommand) (rest : List MatrixCommand), s.groups.get? g = some k → k.matrix = c :: rest → k.engineRuns = true →
     c.started = some n → c.suspended = false → s.higherReady k.core k.cls = false → k.badBytes = [] → k.badAccumulators = [] → c.stale = [] →
     let step (q : Group) : Prop := ∃ fl, exec (.matrixStepEnd g) s = .next (s.setGroup g q) ∧
       q = { k with accumulators := q.accumulators, slice := q.slice, produced := q.produced, matrix := { c with started := some (n + 1), flags := fl } :: rest }
     let cell (t : Tile) (i j : Nat) : Prop := 16 * n ≤ i ∧ i < 16 * n + 16 ∧ j < t.cols
     let kept (q : Group) (t : Tile) (p : Nat → Prop) : Prop := ∀ h, (∀ i j, cell t i j → p i → h ≠ t.at i j) → q.accumulator h = k.accumulator h
     let off := sliceOffset c.b
     let stride := c.c.toNat
     (∀ p, c.fn = 0 → productOf c.recA c.recB k.grant k.units = some p → 16 * (n + 1) < p.tile.rows → ∃ q, step q ∧ q.slice = k.slice ∧
       kept q p.tile (fun i => c.c.getLsbD i = true) ∧
       ∀ i j, cell p.tile i j → c.c.getLsbD i = true → q.accumulator (p.tile.at i j) =
         (blockDot ((k.accumulator (p.tile.at i j)).setWidth 64) ((p.fmtA.elements (k.slice.readBytes (p.offA + i * p.strideA) 64)).map (·.1))
           ((p.fmtB.elements (k.slice.readBytes (p.offB + j * p.strideB) 64)).map (·.1))).1.setWidth 32) ∧
     ∀ t, tileOf c.a k.units = some t → 16 * (n + 1) < t.rows →
       (c.fn = 1 → ∃ q, step q ∧ q.slice = k.slice ∧ kept q t (fun _ => True) ∧ ∀ i j, cell t i j → q.accumulator (t.at i j) = 0) ∧
       (c.fn = 2 → ∃ q, step q ∧ q.slice = k.slice ∧ kept q t (fun _ => True) ∧
         ∀ i j, cell t i j → q.accumulator (t.at i j) = BitVec.ofNat 32 (k.slice.readNat (off + i * stride + 4 * j) 4)) ∧
       (c.fn = 3 → 4 * t.cols ≤ stride → ∃ q, step q ∧ (∀ h, q.accumulator h = k.accumulator h) ∧
         (∀ i j b, cell t i j → b < 4 → q.slice.read (off + i * stride + 4 * j + b) = (k.accumulator (t.at i j)).extractLsb' (8 * b) 8) ∧
         ∀ o, (∀ i j b, cell t i j → b < 4 → o ≠ off + i * stride + 4 * j + b) → q.slice.read o = k.slice.read o) ∧
       (∀ z, c.fn = 4 → quantiseOf c.c t off k.grant = some z → z.sr = false → 64 * z.blocks t.cols ≤ z.stride → ∃ q, step q ∧
         (∀ h, q.accumulator h = k.accumulator h) ∧
         (∀ i b, 16 * n ≤ i → i < 16 * n + 16 → b < z.blocks t.cols →
           let first := b * z.fmt.elements
           q.slice.readBytes (off + i * z.stride + 64 * b) 64 = (sxQuantise z.fmt z.scale (.rnd .rn)
             ((List.range (Nat.min z.fmt.elements (t.cols - first))).map fun e => exact .f32 ((k.accumulator (t.at i (first + e))).setWidth 64)) []).1) ∧
         ∀ o, (∀ i b e, 16 * n ≤ i → i < 16 * n + 16 → b < z.blocks t.cols → e < 64 → o ≠ off + i * z.stride + 64 * b + e) → q.slice.read o = k.slice.read o) ∧
       (c.fn = 5 → ∃ q, step q ∧ q.slice = k.slice ∧ kept q t (fun _ => True) ∧ ∀ i j, cell t i j →
         let at_ := fieldOf c.recA 4 4
         let bias := if at_ = 0xFFFFFFFF then none else some (k.slice.readNat (at_ + 4 * j) 4)
         q.accumulator (t.at i j) = (epilogue c.recA bias ((k.accumulator (t.at i j)).setWidth 64)).1.setWidth 32))

/-- R293-R298, R301, R303, R308: `launch` with a record that is read and not refused makes a child grid. With a fixed extent, not ordered and launched
outside ordered grids, its slot is written to the destination, its groups wait, one for each position, with the record's k in their bank, and the
launcher's grid counts it. With a predicted one it takes or reads its cell, by atomic accesses as the model reads R303 (assumption 47), whose place
must be one that the fibre may write (the model's choice for a cell of state 2, assumption 119). Where the launch is refused, or the context has no
free slot, it raises FLT_ACCESS at the record's address (assumption 49), where a read faults that read's fault (assumption 86), at depth 10 FLT_DEPTH,
and a speculative fibre waits for resolution. R296, R297, R302, R303: a launch that is accepted, with the lowest free slot (the model's choice,
assumption 7), has its groups waiting, one for each position, with the record's k in their bank: in the launcher's die, or in both by turns of 64. A
predicted one whose cell is idle is not resolved, its extent is the predicted one, and its groups from zmin on are speculative; one whose cell holds
an extent has that extent. With no free slot none is accepted. R303, R309, R304: `shape` on a cell that is free publishes the extent, with state 2; on
a cell that a live launch of the context waits on, with an extent inside its bounds, it also resolves that launch (R305). Any other cell or extent
raises FLT_ACCESS and changes nothing; a cell that cannot be written or read raises its fault, and a speculative fibre waits for resolution. R310,
R311, R304: `xalloc` writes the address of a new block: aligned, inside the heap, apart from every live block (the lowest such address, which is the
model's choice, assumption 7); or 0 when there is none. Sizes and alignments out of limits raise FLT_ACCESS. `xfree` of a live block removes it; of
any other address, and of a block whose free is under way, it raises FLT_ACCESS. A speculative fibre's group holds its block retractably, and its free
waits for resolution. That the lowest address is taken is the model's choice (assumption 7). -/
def Obligations.Launches : Prop :=
  (∀ (s : State) (f : Nat) (x : Fibre) (l : Launch), s.Issues f x → s.launches.get? x.launch = some l → ∀ (d : Dst) (a : Src),
     let va := s.operand x a
     let read := s.readPlan (fibreReader f x) (fibreAtomicReader f x) va.toNat (some (dieOf x.core)) (s.inOrdered x.launch)
     (x.speculative = true → exec (.launch d a) s = .next (s.settle f x (.stall .resolution))) ∧
     (x.speculative = false →
       (l.depth = 10 → exec (.launch d a) s = .next (s.trapped f x .depth 0 0)) ∧
       (l.depth ≠ 10 → va.toNat % 64 ≠ 0 → exec (.launch d a) s = .next (s.trapped f x .align va 0)) ∧
       (l.depth ≠ 10 → va.toNat % 64 = 0 →
         (∀ e, read = .error e → exec (.launch d a) s = .next (s.trapped f x e.1 e.2 0)) ∧
         (∀ t, read = .ok (none, t) → exec (.launch d a) s = .next (s.trapped f x .access va 0)) ∧
         (∀ p t, read = .ok (some p, t) → p.record.predicted = false → t.freeSlot x.context = none → exec (.launch d a) s = .next (s.trapped f x .access va 0)) ∧
         (∀ p t, read = .ok (some p, t) → p.record.predicted = true →
           let cell := t.locate f x { write := true, slice := false, detach := false } p.record.cell 16 16
           (∀ e, cell = .error e → exec (.launch d a) s = .next (s.trapped f x e p.record.cell 0)) ∧
           ∀ pa comp o q w v, cell = .ok (.mem pa comp o q w, v) →
             let e := (t.flushLine x.core pa comp).releaseOn x.core
             let told := e.1.learnAll [.release e.2.1 e.2.2] (· == .fibre f)
             let by_ := (t.flushLine x.core pa comp).launcherOf f x l e.2
             (told.accept by_ p = none → exec (.launch d a) s = .next (s.trapped f x .access va 0)) ∧
             ∀ k n u, told.accept by_ p = some (k, u) → u.launches.get? k = some n →
               exec (.launch d a) s = .next (s.settle f x (.done ((u.setFibre f
                 (({ x with launches := x.launches + 1 } : Fibre).write d (BitVec.ofNat 64 n.slot))).launchProgress k)))) ∧
         ∀ p t slot lp, read = .ok (some p, t) → p.record.predicted = false → p.predicted = none → p.kernel.ordered = false → t.taskOf f x = none →
           0 < p.record.x * p.record.y * p.record.z → t.freeSlot x.context = some slot → t.launches.get? x.launch = some lp → x.launch ≠ t.fresh →
           ∃ u n, exec (.launch d a) s = .next (s.settle f x (.done u)) ∧
             u.fibres = t.fibres.put f (({ x with launches := x.launches + 1 } : Fibre).write d (BitVec.ofNat 64 slot)) ∧
             u.launches.get? t.fresh = some n ∧ n.slot = slot ∧ n.context = x.context ∧ n.kernel = p.kernel ∧ n.bindings = p.bindings ∧ n.record = p.record ∧
             n.depth = l.depth + 1 ∧ n.parent = some (f, x.launch) ∧ n.resolved = true ∧ n.counter = p.record.x * p.record.y * p.record.z ∧
             u.launches.get? x.launch = some { lp with counter := lp.counter + 1 } ∧ u.home = t.home ∧
             ∀ i < p.record.x * p.record.y * p.record.z, ∃ g, u.groups.get? (t.fresh + 1 + i) = some g ∧ g.state = .waiting ∧ g.launch = t.fresh ∧
               g.context = x.context ∧ g.linear = i ∧ g.gx = i % p.record.x ∧ g.gy = i / p.record.x % p.record.y ∧ g.gz = i / (p.record.x * p.record.y) ∧
               g.die = dieOf x.core ∧ g.bank = p.record.k ∧ g.speculative = false))) ∧
  (∀ (s : State) (w : Launcher) (p : Plan),
     (s.freeSlot w.context = none → s.accept w p = none) ∧
     ∀ slot, s.freeSlot w.context = some slot → (∀ q, w.parent = some q → q.2 ≠ s.fresh) →
       let r := p.record
       let pending : Bool := match p.predicted with
         | some c => cellState c.2 = 0
         | none => false
       let z : Nat := match p.predicted with
         | some c => if pending = true then c.1 else fieldOf c.2 8 4
         | none => r.z
       ∃ u n, s.accept w p = some (s.fresh, u) ∧ u.launches.get? s.fresh = some n ∧ n.slot = slot ∧ n.context = w.context ∧ n.kernel = p.kernel ∧
         n.bindings = p.bindings ∧ n.record = r ∧ n.z = z ∧ n.resolved = !pending ∧ n.cls = w.cls ∧ n.depth = w.depth ∧ n.queue = w.queue ∧ n.packet = w.packet ∧
         n.tag = w.tag ∧ n.parent = w.parent ∧ n.counter = r.x * r.y * z ∧
         ∀ i < r.x * r.y * z, ∃ g, u.groups.get? (s.fresh + 1 + i) = some g ∧ g.state = .waiting ∧ g.launch = s.fresh ∧ g.context = w.context ∧ g.linear = i ∧
           g.gx = i % r.x ∧ g.gy = i / r.x % r.y ∧ g.gz = i / (r.x * r.y) ∧ g.cls = w.cls ∧ g.bank = r.k ∧
           g.speculative = (pending && decide (r.x * r.y * r.zmin ≤ i)) ∧
           (∀ d, w.child = some d → g.die = d) ∧ (w.child = none → 0 ∈ s.diesUp → 1 ∈ s.diesUp → g.die = i / 64 % 2)) ∧
  (∀ (s : State) (f : Nat) (x : Fibre), s.Issues f x → ∀ (a b : Src),
     let va := s.operand x a
     let z := (s.operand x b).toNat
     let place := s.locate f x { write := true, slice := false, detach := false } va 16 16
     (x.speculative = true → exec (.shape a b) s = .next (s.settle f x (.stall .resolution))) ∧
     (x.speculative = false →
       (∀ e, place = .error e → exec (.shape a b) s = .next (s.trapped f x e va 0)) ∧
       ∀ loc t, place = .ok (loc, t) →
         (2 ^ 32 ≤ z → exec (.shape a b) s = .next (s.trapped f x .access va 0)) ∧
         (z < 2 ^ 32 → t.atomicError f x 16 loc = true → exec (.shape a b) s = .next (s.trapped f x .ecc va 0)) ∧
         (z < 2 ^ 32 → t.atomicError f x 16 loc = false →
           (t.atomicAt f x loc 16 (fun _ => none) = none → exec (.shape a b) s = .next (s.trapped f x .decode va 0)) ∧
           ∀ c u, t.atomicAt f x loc 16 (fun _ => none) = some (c, u) →
             (2 ≤ cellState c ∨ zeroBytes c 12 4 = false → exec (.shape a b) s = .next (s.trapped f x .access va 0)) ∧
             (zeroBytes c 12 4 = true → ∀ old v,
               u.atomicAt f x loc 16 (fun b => some (b.take 4 ++ bytesOfNat 4 2 ++ bytesOfNat 4 z ++ b.drop 12)) = some (old, v) →
               let r := v.releaseOn x.core
               let e := (r.1.learnAll [.release r.2.1 r.2.2] (· == .fibre f), r.2)
               let waiting := u.pendingOn x.context (fieldOf c 0 4) va
               (cellState c = 0 → exec (.shape a b) s = .next (s.settle f x (.done e.1))) ∧
               (cellState c = 1 → waiting = none → exec (.shape a b) s = .next (s.trapped f x .access va 0)) ∧
               ∀ k l, cellState c = 1 → waiting = some (k, l) →
                 (z < l.record.zmin ∨ l.record.zmax < z → exec (.shape a b) s = .next (s.trapped f x .access va 0)) ∧
                 (l.record.zmin ≤ z → z ≤ l.record.zmax → exec (.shape a b) s = .next (s.settle f x (.done (e.1.resolve k z e.2)))))))) ∧
  (∀ (s : State) (f : Nat) (x : Fibre) (k : Context), s.Issues f x → s.contexts.get? x.context = some k → ∀ (d : Dst) (a b : Src),
     let n := (s.operand x a).toNat
     let al := (s.operand x b).toNat
     let need := (n + 255) / 256 * 256
     let fits (p : Nat) : Prop := p % 2 ^ al = 0 ∧ k.desc.heapBase ≤ p ∧ p + need ≤ k.desc.heapBase + k.desc.heapSize ∧
       ∀ o ∈ k.heap, p + need ≤ o.base ∨ o.base + o.size ≤ p
     let legal := 1 ≤ n ∧ n ≤ 2 ^ 32 ∧ 8 ≤ al ∧ al ≤ 21
     let owner := if x.speculative = true then some (x.launch, s.linearOf f) else none
     (¬ legal → exec (.xalloc d a b) s = .next (s.trapped f x .access 0 0)) ∧
     (legal → (¬ ∃ p, fits p) → exec (.xalloc d a b) s = .next (s.completed f x (x.write d 0))) ∧
     (legal → (∃ p, fits p) → ∃ p u es, fits p ∧ (∀ q, fits q → p ≤ q) ∧ exec (.xalloc d a b) s = .next (s.settle f x (.done u)) ∧
       u.fibres = s.fibres.put f ((x.write d (BitVec.ofNat 64 p)).acquire es) ∧
       (∃ j, u.contexts.get? x.context = some j ∧ j = { k with heap := k.heap ++ [{ base := p, size := need, retractable := owner }], unset := j.unset }) ∧
       ∀ c, c ≠ x.context → u.contexts.get? c = s.contexts.get? c) ∧
     ((∀ o ∈ k.heap, o.base ≠ n) → exec (.xfree a) s = .next (s.trapped f x .access (s.operand x a) 0)) ∧
     ∀ o, k.heap.find? (fun o => o.base == n) = some o →
       (o.freeing ≠ none → exec (.xfree a) s = .next (s.trapped f x .access (s.operand x a) 0)) ∧
       (o.freeing = none → ∃ u, exec (.xfree a) s = .next (s.settle f x (.done u)) ∧ u.fibres = s.fibres ∧
         (∀ c, c ≠ x.context → u.contexts.get? c = s.contexts.get? c) ∧ ∃ j, u.contexts.get? x.context = some j ∧
         let e := (s.releaseOn x.core).2
         (x.speculative = false → j = { k with
           heap := k.heap.filter (fun q => q.base != n), freed := k.freed ++ (e :: o.freedBy.toList).map (fun e => (n, o.size, e)), unset := j.unset }) ∧
         (x.speculative = true → j = { k with heap := k.heap.map fun q => if q.base = n then { q with freeing := owner, freedBy := some e } else q })))

/-- R315, R316, R327: the command processor reads a queue's doorbell. A count that is more than the ring ahead of the packets consumed halts the queue,
with an event of kind 6; an unchanged count changes nothing more; else what its additions released is acquired, and the new packets that can be read
are copied in order: one is consumed, and is the last of its queue. A doorbell that cannot be read, and a halted queue, are left alone. R330, R332:
the oldest held event of a ring with room is written to its record in host memory, once what it reports has reached memory: bytes 0 to 27 and then the
sequence number, and the ring's count rises by one; no other byte of host memory changes. A full ring waits. The acknowledgement word that is read
says how many records are free again; one that cannot be read changes nothing. -/
def Obligations.Doorbells_and_events : Prop :=
  (∀ (s : State) (q : Nat) (k : Queue), s.queues.get? q = some k →
     (k.state = .halted ∨ s.readBell k = none → exec (.doorbellPoll q) s = .next s) ∧
     ∀ count es t, k.state ≠ .halted → s.readBell k = some (count, es, t) →
       let pending := (count - k.consumed).toNat
       (2 ^ k.lsize < pending → exec (.doorbellPoll q) s = .next ((t.setQueue q { k with bellRead := count, state := .halted }).queueStateEvent q 6)) ∧
       (pending = 0 → exec (.doorbellPoll q) s = .next (t.setQueue q { k with bellRead := count })) ∧
       (1 ≤ pending → pending ≤ 2 ^ k.lsize → (t.engineAcquires es).2 = false → exec (.doorbellPoll q) s = .next (t.engineAcquires es).1) ∧
       (1 ≤ pending → pending ≤ 2 ^ k.lsize → (t.engineAcquires es).2 = true →
         let u := (t.engineAcquires es).1.setQueue q { k with bellRead := count, state := if k.state = .idle then .active else k.state }
         exec (.doorbellPoll q) s = .next ((u.copyPackets q [] pending).settleQueue q) ∧
         ∀ bs v, pending = 1 → u.engineRange (commandAgent k.context) (k.ring.toNat + 64 * (k.consumed.toNat % 2 ^ k.lsize)) 64 = .ok (bs, v) →
           ∃ w j, exec (.doorbellPoll q) s = .next w ∧ w.queues.get? q = some j ∧ j.consumed = k.consumed + 1 ∧ j.bellRead = count ∧
             j.packets = k.packets ++ [{ number := k.consumed.toNat, bytes := bs, readAt := s.time }])) ∧
  (∀ (s : State) (i : RingId) (r : Ring) (c : Nat), s.ring? i = some (r, c) →
     (∀ e rest, r.held = e :: rest →
       (r.hasRoom = false → exec (.eventWrite i) s = .next s) ∧
       (r.hasRoom = true → (s.engineAcquires e.acquired).2 = false → exec (.eventWrite i) s = .next (s.engineAcquires e.acquired).1) ∧
       (r.hasRoom = true → (s.engineAcquires e.acquired).2 = true →
         let at_ := r.base.toNat + 32 * (r.seq % 2 ^ r.size)
         ∃ t, exec (.eventWrite i) s = .next t ∧ t.ring? i = some ({ r with seq := r.seq + 1, held := rest }, c) ∧ t.fibres = s.fibres ∧
           (∀ j < 28, t.host.read (at_ + j) = e.body.getD j 0) ∧ t.host.readNat (at_ + 28) 4 = (r.seq + 1) % 2 ^ 32 ∧
           ∀ a, a < at_ ∨ at_ + 32 ≤ a → t.host.read a = s.host.read a)) ∧
     (∀ bs t, s.engineBytes (commandAgent c) r.ack.toNat 8 = .ok (bs, t) →
       exec (.eventAckPoll i) s = .next (t.setRing i { r with acked := BitVec.ofNat 32 (natOfBytes bs) })) ∧
     ∀ e, s.engineBytes (commandAgent c) r.ack.toNat 8 = .error e → exec (.eventAckPoll i) s = .next s)

/-- R317, R318, R324-R326, R329, R441, R444: the packet that a queue may start first acquires what it waits for; when it is legal, it then does what its
type says and, but for the types that wait, retires: a marker nothing, a timestamp writes the package time, a write-then-signal writes its value
first, a wait reads its word, a trace packet opens, closes or flushes a session, a reset packet resets those before it. A write that faults gives
status 7. An illegal packet retires with status 6. With no packet to start nothing changes. R320, R317: a joint launch whose fields keep the table's
limits is accepted when its grid and its job are: the grid's record is read, not refused, has room for the stream's group, a cell that can be written,
and a launch slot; the job's descriptor is read and keeps its limits. Then the packet holds its parts, which start together: the grid that was made
(`Acceptance`), the stream's count and sync word, the copy list, and the job. Else it retires with status 1, and nothing of it is accepted. R329,
R316: a reset of a queue ends its started packets that are named, drops the others and the jobs of both, closes its trace session with a mark, sets C
to the doorbell count as last read, writes the allowance that follows from it, and raises a reset event. A packet that so ends raises its event with
status 5, and its grid is gone with its groups and fibres. That jobs which work for a packet are dropped with it is the model's reading (assumption
40). R319, R323, R324, R325: a packet that retires is gone from its queue, and when its event flag is set an event of kind 4 with the lowest status
that is not 0 joins the queue's ring. A signal step of a started write-then-signal adds to its word and retires it; a wait whose generation is reached
retires once what the additions released is acquired, one whose word cannot be read retires with status 7, and any other waits on. -/
def Obligations.Packets : Prop :=
  (∀ (s : State) (q : Nat),
     let typed : List (Nat × Instr) := [(1, .jointLaunch q), (2, .writeThenSignal q), (3, .waitOnValue q), (4, .timestamp q), (6, .queueResetPacket q), (7, .marker q)]
     let traces : List Instr := [.traceOpen q, .traceClose q, .traceFlush q]
     (s.startable? q = none → (∀ i ∈ typed, exec i.2 s = .next s) ∧ ∀ i ∈ traces, exec i s = .next s) ∧
     ∀ k p, s.startable? q = some (k, p) →
       let a := s.engineAcquires (k.startEdges p)
       let t := a.1.startPacket q k p
       let f (off n : Nat) : Nat := fieldOf p.bytes off n
       let ends (u : State) (status : Nat) : Host.Outcome State Fault Refusal := .next ((u.finishPacket q p.number status).settleQueue q)
       let write (bs : List Byte) := t.commandWrite k.context (f 8 8) bs
       (a.2 = false → ∀ i ∈ typed, p.type = i.1 → exec i.2 s = .next a.1) ∧
       (a.2 = true → packetLegal p.bytes = false →
         (∀ i ∈ typed, p.takenBy i.1 = true → exec i.2 s = ends t 6) ∧ (p.type = 5 → ∀ i ∈ traces, exec i s = ends t 6)) ∧
       (a.2 = true → packetLegal p.bytes = true →
         (p.type = 7 → exec (.marker q) s = ends t 0) ∧
         (p.type = 4 → exec (.timestamp q) s = match write (bytesOfNat 8 s.time) with | some u => ends u 0 | none => ends t 7) ∧
         (p.type = 2 → exec (.writeThenSignal q) s = match write ((p.bytes.drop 16).take 8) with
           | some u => .next ((u.updQueue q fun v =>
               { v with packets := v.packets.map fun o => if o.number = p.number then { o with steps := 1 } else o }).settleQueue q)
           | none => ends t 7) ∧
         (p.type = 3 → exec (.waitOnValue q) s = .next ((t.waitRead q k p).settleQueue q)) ∧
         (p.type = 5 →
           (f 8 1 = 0 → k.trace.isSome = true ∨ f 16 8 % 64 ≠ 0 → exec (.traceOpen q) s = ends t 8) ∧
           (f 8 1 = 0 → k.trace = none → f 16 8 % 64 = 0 → ∀ bs u r, t.engineRange (commandAgent k.context) (f 16 8) 64 = .ok (bs, u) → sessionOf bs = some r →
             exec (.traceOpen q) s = ends (u.updQueue q fun v => { v with trace := some r }) 0) ∧
           (f 8 1 = 1 → exec (.traceClose q) s = ends (t.closeTrace q false) 0) ∧ (f 8 1 = 2 → exec (.traceFlush q) s = ends (t.flushTrace q) 0)) ∧
         (p.type = 6 → exec (.queueResetPacket q) s = ends (t.resetPackets q fun o =>
           k.packets.findIdx (fun a => a.number = o.number) < k.packets.findIdx (fun a => a.number = p.number)) 0))) ∧
  (∀ (s : State) (q : Nat) (k : Queue) (p : Packet), s.startable? q = some (k, p) → p.type = 1 → packetLegal p.bytes = true → (s.engineAcquires (k.startEdges p)).2 = true →
     let t := (s.engineAcquires (k.startEdges p)).1.startPacket q k p
     let f (off n : Nat) : Nat := fieldOf p.bytes off n
     let m (i : Nat) : Bool := (f 8 1).testBit i
     let ok : Prop := 1 ≤ f 8 1 ∧ f 8 1 < 16 ∧ (m 1 = true → m 0 = true) ∧ (if m 0 then f 16 8 % 64 = 0 else f 16 8 = 0) ∧
       (if m 1 then 1 ≤ f 12 4 ∧ f 12 4 ≤ 4096 ∧ f 24 8 % 32 = 0 ∧ f 56 8 % 32 = 0 else f 12 4 = 0 ∧ f 24 8 = 0 ∧ f 32 4 = 0 ∧ f 56 8 = 0) ∧
       (if m 2 then 1 ≤ f 36 4 ∧ f 36 4 ≤ 256 ∧ f 40 8 % 64 = 0 else f 36 4 = 0 ∧ f 40 8 = 0) ∧ (if m 3 then f 48 8 % 64 = 0 else f 48 8 = 0)
     let agent := commandAgent k.context
     let edges := k.launchEdges p
     let plan := t.readPlan (engineReader agent) (engineReader agent) (f 16 8) none false
     let by_ : Launcher := { context := k.context, cls := k.cls, depth := 0, queue := q, packet := p.number, tag := p.tag, edges := edges }
     let fits (r : Plan) (u : State) : Prop :=
       (m 1 = true → f 32 4 < r.record.x * r.record.y * (if r.record.predicted then r.record.zmin else r.record.z)) ∧ u.cellWritable k.context r.record = true
     let streamed (u : State) (lk : Nat) : State :=
       if m 1 then { u with groups := u.groups.mapAll fun _ g =>
         if g.launch = lk ∧ g.linear = f 32 4 then { g with stream := some (q, p.number, wordFieldOf p.bytes 24, f 12 4) } else g }
       else u
     let gridRefused : Prop := m 0 = true ∧ ((∃ e, plan = .error e) ∨ (∃ u, plan = .ok (none, u)) ∨
       ∃ r u, plan = .ok (some r, u) ∧ (¬ fits r u ∨ u.accept by_ r = none))
     let gridDone (grid : Option Nat) (u : State) : Prop := (m 0 = false ∧ grid = none ∧ u = t) ∨
       (m 0 = true ∧ ∃ lk r v w, plan = .ok (some r, v) ∧ fits r v ∧ v.accept by_ r = some (lk, w) ∧ grid = some lk ∧ u = streamed w lk)
     let jobRead (u : State) := u.engineRange agent (f 48 8) 128
     let jobRefused (u : State) : Prop := m 3 = true ∧ ((∃ e, jobRead u = .error e) ∨
       ∃ bs v, jobRead u = .ok (bs, v) ∧ jobOk u.diesUp (u.storeRecords k.context) bs = false)
     let jobDone (u : State) (job : Option Nat) (v : State) : Prop := (m 3 = false ∧ job = none ∧ v = u) ∨
       (m 3 = true ∧ ∃ bs w, jobRead u = .ok (bs, w) ∧ jobOk u.diesUp (u.storeRecords k.context) bs = true ∧ job = some w.fresh ∧
         let j : ReuseJob := { context := k.context, cls := k.cls, desc := bs, packet := some (q, p.number), root := (q, p.number), state := u.firstState, acquired := edges }
         v = { w with jobs := w.jobs.put w.fresh j, fresh := w.fresh + 1 })
     let copies : Option CopyCommand :=
       if m 2 then some { fibre := none, unit := 0, list := wordFieldOf p.bytes 40, count := f 36 4, guard := none, acquired := edges } else none
     let slotOf (v : State) (grid : Option Nat) : Nat := match grid.bind v.launches.get? with
       | some l => l.slot
       | none => 0
     let holding (v : State) (grid job : Option Nat) : State :=
       let parts : PacketParts := { launch := grid, stream := if m 1 then some (f 12 4, wordFieldOf p.bytes 56) else none, copies := copies, reuse := job }
       v.updQueue q fun u =>
         { u with packets := u.packets.map fun o => if o.number = p.number then { o with parts := parts, identity := slotOf v grid } else o }
     ((¬ ok ∨ gridRefused ∨ ∃ grid u, gridDone grid u ∧ jobRefused u) → exec (.jointLaunch q) s = .next ((t.finishPacket q p.number 1).settleQueue q)) ∧
     ∀ grid u job v, ok → gridDone grid u → jobDone u job v → exec (.jointLaunch q) s =
       .next ((match grid with
         | some lk => (holding v grid job).launchProgress lk
         | none => holding v grid job).settleQueue q)) ∧
  (∀ (s : State) (q : Nat) (k : Queue), s.queues.get? q = some k →
     (∀ which : Packet → Bool,
       let u := (k.packets.filter fun o => o.started && which o).foldl (fun u o => u.endPacket q o.number) s
       let v := (u.jobs.keys fun _ j => j.root.1 == q && !(k.packets.any fun o => o.number == j.root.2 && !which o)).foldl State.dropJob u
       let w := (v.updQueue q fun r => { r with packets := r.packets.filter fun o => !which o, state := .active }).closeTrace q true
       let t := s.resetPackets q which
       t = (((w.updQueue q fun r => { r with consumed := r.bellRead }).writeAllowance q).queueStateEvent q 5).settleQueue q ∧
       (k.device = false → t.host.readNat k.allow.toNat 8 = (k.bellRead + BitVec.ofNat 64 (2 ^ k.lsize)).toNat) ∧
       ∃ j, t.queues.get? q = some j ∧ j.consumed = k.bellRead ∧ j.allowed = k.bellRead ∧ j.bellRead = k.bellRead ∧ j.trace = none ∧
         (∀ o ∈ j.packets, which o = false) ∧ ∃ e ∈ j.events.held, e.kind = 5 ∧ e.queue = q ∧ e.context = k.context) ∧
     ∀ o, k.packets.find? (fun b => b.number == o.number) = some o →
       ∃ j, (s.endPacket q o.number).queues.get? q = some j ∧ (∀ b ∈ j.packets, b.number ≠ o.number) ∧
         (o.wantsEvent = true → ∃ e ∈ j.events.held, e.kind = 4 ∧ e.status = 5 ∧ e.tag = o.tag) ∧
         ∀ l, o.parts.launch = some l → (s.endPacket q o.number).launches.get? l = none ∧ (∀ e ∈ (s.endPacket q o.number).groups, e.2.launch ≠ l) ∧
           ∀ e ∈ (s.endPacket q o.number).fibres, e.2.launch ≠ l) ∧
  ((∀ (s : State) (q status : Nat) (k : Queue) (p : Packet), s.queues.get? q = some k → k.packets.find? (fun o => o.number == p.number) = some p →
     let e : Event := { kind := 4, status := lowestStatus (p.statuses ++ [status]), queue := q, tag := p.tag, low := BitVec.ofNat 32 p.identity,
                        word := BitVec.ofNat 64 s.time, context := k.context, acquired := p.acquired }
     ∃ j, (s.finishPacket q p.number status).queues.get? q = some j ∧ j.packets = k.packets.filter (fun o => o.number != p.number) ∧
       j.events.held = if p.wantsEvent = true then k.events.held ++ [e] else k.events.held) ∧
   ∀ (s : State) (q : Nat) (k : Queue) (p : Packet), s.queues.get? q = some k → s.contextRuns k.context = true → (∀ b, k.state ≠ .descheduled b) →
     (k.packets.find? (fun p => p.started && p.type = 2 && p.steps = 1) = some p →
       let word := wordFieldOf p.bytes 24
       (word = 0 → exec (.signalStep q) s = .next (s.finishPacket q p.number 0)) ∧
       (word ≠ 0 → exec (.signalStep q) s = match s.engineAdd 0 k.context false word (fieldOf p.bytes 32 8) p.acquired with
         | .ok t => .next (t.finishPacket q p.number 0)
         | .error _ => .next (s.finishPacket q p.number 7))) ∧
     (k.packets.find? (fun p => p.started && p.type = 3) = some p →
       let place := s.locateWord 0 k.context false (wordFieldOf p.bytes 8) false
       (∀ e, place = .error e → exec (.waitValuePoll q) s = .next ((s.finishPacket q p.number 7).settleQueue q)) ∧
       ∀ pa comp t, place = .ok (pa, comp, t) →
         (t.home.faulty pa 32 comp = true → exec (.waitValuePoll q) s = .next ((s.finishPacket q p.number 7).settleQueue q)) ∧
         (t.home.faulty pa 32 comp = false →
           (t.home.read pa 32 comp = none → exec (.waitValuePoll q) s = .next ((t.finishPacket q p.number 7).settleQueue q)) ∧
           ∀ bs, t.home.read pa 32 comp = some bs → ∃ gen v, t.readGen k.context (fieldOf p.bytes 8 8) pa comp = some (gen, v) ∧
             (t.Unfreed k.context (fieldOf p.bytes 8 8) 32 → gen = BitVec.ofNat 32 (fieldOf bs 16 4) ∧ v = t) ∧
             let reached := (gen - BitVec.ofNat 32 (fieldOf p.bytes 16 4)).toNat < 2 ^ 31
             let a := v.engineAcquires (v.edgesOf pa)
             (reached → a.2 = true → exec (.waitValuePoll q) s = .next ((a.1.finishPacket q p.number 0).settleQueue q)) ∧
             (reached → a.2 = false → exec (.waitValuePoll q) s = .next (a.1.settleQueue q)) ∧
             (¬ reached → exec (.waitValuePoll q) s = .next (v.settleQueue q)))))

/-- R351, R361-R365: `pinval` drops every cached translation of its range before it completes; `metaz` sets the metadata of regions and no byte of them;
`decomp` makes tiles plain; `pquery` is outstanding with the loads. Misplaced operands raise their faults, and `metaz` and `decomp` of a speculative
fibre wait for resolution. R351: a page moves to the other tier only while no access is in flight, to a place there that holds nothing, and where no
table and no larger page keeps its bytes: it is found there, byte for byte, and every leaf of every context that maps it is rewritten. (The model's
reading: assumption 73.) -/
def Obligations.Pages : Prop :=
  (∀ (s : State) (f : Nat) (x : Fibre), s.Issues f x → ∀ (d : Dst) (a b : Src),
     let va := s.operand x a
     let w := s.operand x b
     let from_ := if w = 0 then 0 else va.toNat
     let upto := if w = 0 then 2 ^ 52 else va.toNat + w.toNat
     (va.toNat % 65536 ≠ 0 ∨ w.toNat % 65536 ≠ 0 → exec (.pinval a b) s = .next (s.trapped f x .align va 0)) ∧
     (va.toNat % 65536 = 0 → w.toNat % 65536 = 0 → 2 ^ 52 ≤ va.toNat ∨ 2 ^ 52 < va.toNat + w.toNat →
       exec (.pinval a b) s = .next (s.trapped f x .translation va 0)) ∧
     (va.toNat % 65536 = 0 → w.toNat % 65536 = 0 → va.toNat < 2 ^ 52 → va.toNat + w.toNat ≤ 2 ^ 52 →
       ∃ u, exec (.pinval a b) s = .next (s.settle f x (.wait u .translations)) ∧ u.fibres = s.fibres ∧
         (∀ i, ∀ l ∈ (u.core i).tlb, l.context = x.context → upto ≤ l.va ∨ l.va + l.size ≤ from_) ∧
         ∀ ls ∈ u.walks.toList, ∀ l ∈ ls, l.context = x.context → upto ≤ l.va ∨ l.va + l.size ≤ from_) ∧
     (x.speculative = true → exec (.metaz a b) s = .next (s.settle f x (.stall .resolution)) ∧ exec (.decomp a b) s = .next (s.settle f x (.stall .resolution))) ∧
     (x.speculative = false → va.toNat % 65536 ≠ 0 →
       exec (.metaz a b) s = .next (s.trapped f x .align va 0) ∧ exec (.decomp a b) s = .next (s.trapped f x .align va 0)) ∧
     (x.speculative = false → va.toNat % 65536 = 0 →
       (metazWordOk w = false → exec (.metaz a b) s = .next (s.trapped f x .access va 0)) ∧
       (metazWordOk w = true →
         (∀ e, s.locateRegions f x va (bitsField w 0 17) = .error e → exec (.metaz a b) s = .next (s.trapped f x e.1 e.2 0)) ∧
         (∀ rs t, s.locateRegions f x va (bitsField w 0 17) = .ok (rs, t) →
           ∃ u, exec (.metaz a b) s = .next (s.settle f x (.done u)) ∧ u.fibres = t.fibres ∧ u.groups = t.groups) ∧
         ∀ pa comp t, s.locateRegions f x va (bitsField w 0 17) = .ok ([(pa, comp, va)], t) →
           let t' := t.flushRange x.core pa 65536
           ∃ u, exec (.metaz a b) s = .next (s.settle f x (.done u)) ∧ u.home.mem = t'.home.mem ∧ u.fibres = t.fibres ∧ (∀ i ∈ u.home.badModes, i / 256 ≠ pa / 65536) ∧
             ∀ i, u.home.modes.get? i =
               if i / 256 = pa / 65536 then if bitsField w 20 2 = 1 then some (BitVec.ofNat 8 (16 * bitsField w 24 4 + 1)) else none
               else t'.home.modes.get? i) ∧
       (w.toNat % 65536 ≠ 0 ∨ w = 0 → exec (.decomp a b) s = .next (s.trapped f x .align va 0)) ∧
       (w.toNat % 65536 = 0 → w ≠ 0 → 2 ^ 52 < va.toNat + w.toNat → exec (.decomp a b) s = .next (s.trapped f x .translation va 0)) ∧
       (w.toNat % 65536 = 0 → w ≠ 0 → va.toNat + w.toNat ≤ 2 ^ 52 →
         (∀ e, s.locateRegions f x va (w.toNat / 65536) = .error e → exec (.decomp a b) s = .next (s.trapped f x e.1 e.2 0)) ∧
         ∀ rs t, s.locateRegions f x va (w.toNat / 65536) = .ok (rs, t) →
           (∀ u, t.plainRegions x.core rs = .ok u → exec (.decomp a b) s = .next (s.settle f x (.done u))) ∧
           (∀ at_ u, t.plainRegions x.core rs = .error (.ecc, at_, u) → exec (.decomp a b) s = .next (s.trapped f x .ecc at_ 0)) ∧
           ∀ e at_ u, e ≠ .ecc → t.plainRegions x.core rs = .error (e, at_, u) → exec (.decomp a b) s = .next (s.settle f x (.trapIn u e at_)))) ∧
     (4095 ≤ x.counts.ld → exec (.pquery d a) s = .next (s.settle f x (.stall (.counter 0)))) ∧
     (x.counts.ld < 4095 →
       let hold := s.queryError x va
       let issues (y : Fibre) (dest : PendDest) : Prop := exec (.pquery d a) s = .next (s.completed f x
         (y.outstanding (.query va) dest hold))
       (∀ e rest, x.pushing = e :: rest → issues x (.element e.2.1 e.2.2)) ∧
       (x.pushing = [] → (∀ j, d = .n j → issues x (.named j.val)) ∧ (d = .push → hold = false → issues (x.push 0) (.age 0)) ∧
         (d = .push → hold = true → issues x .pushAtReturn)))) ∧
  (∀ (s : State) (c va off level : Nat) (tier : Bool) (k : Context) (e : Word), s.contexts.get? c = some k → validTable k.desc.ptroot = true →
     leafPlace s.home s.node va k.desc.ptroot 4 = some (level, e) →
     let n := pageSize level
     let place (w : Word) : Nat := localKey (entryTier w) (entryOffset w)
     let src := place e
     let dst := localKey tier off
     let u := s.writeBackAll
     (leafNode e ≠ s.node ∨ leafResident e = false ∨ entryTier e = tier ∨ (∃ f ∈ s.fibres, f.2.pend ≠ []) →
       exec (.pageMigration c va tier off) s = .next u) ∧
     (leafNode e = s.node → leafResident e = true → entryTier e ≠ tier → off % n = 0 → off + n ≤ 2 * Config.tierBytes tier → u.served tier off = true →
       (∀ b ∈ u.home.mem, b.1 < dst ∨ dst + n ≤ b.1) → (∀ f ∈ s.fibres, f.2.pend = []) →
       (∀ t ∈ u.allEntries, entryPins s.node src n t.2.1 t.2.2 = false) → u.home.mem.wf = true →
       ∃ t, exec (.pageMigration c va tier off) s = .next t ∧ t.fibres = s.fibres ∧ (∀ i < n, t.home.mem.read (dst + i) = u.home.mem.read (src + i)) ∧
         ∀ at_ j w, (some at_, j, w) ∈ u.allEntries → validLeaf s.node j w = true → leafNode w = s.node → src ≤ place w → place w < src + n →
           t.home.mem.readNat at_ 8 = (movedLeaf w tier (off + (place w - src))).toNat))

/-- R339, R312, R327, R329, R331, R333, R334, R344, R451, R453, R455, R456: in full service each message of a pending slot has its effect and its reply; a
limit broken gives status 1. Of the messages only the capability list is answered outside full service, once the host port has a link. While the
package holds reset only a create message is taken, and ends that (the model's reading, assumption 70). The model's choices: descriptors stand in host
memory at the message's argument (assumption 57), a message that names a queue of another context is refused, and a queue is created although its
doorbell could not be written (assumption 58), the argument and value of a dump request are an address and a count of lines (assumption 59), and the
capability list ends with a record of kind 0 (assumption 60). R339: a reply writes the ticket, the status and the value of its message at its reply
address in host memory, and nothing else there; the slot then waits for no answer. R342, R304: `sys` of a speculative fibre waits for resolution; else
`sys` 0 writes 0, 1 aborts the context, 2 to 255 write all ones; any other waits, with an event of kind 9 that carries its number and operand and a
ticket that is not outstanding. The reply with that ticket writes its value to the destination, and the fibre goes on past the instruction. -/
def Obligations.Mailbox : Prop :=
  (∀ (s : State) (slot : Nat) (m : List Byte),
     let c := fieldOf m 1 1
     let q := fieldOf m 2 2
     let arg := fieldOf m 8 8
     (s.fullService = false → ∀ i ∈ [Instr.createContext slot, .destroyContext slot, .createQueue slot, .destroyQueue slot, .resetQueue slot, .setSlice slot,
       .serviceReply slot, .dumpRequest slot, .attestationReport slot, .mailboxUnknownCode slot], exec i s = .next s) ∧
     (s.platform.holding = true → ∀ i ∈ [Instr.destroyContext slot, .createQueue slot, .destroyQueue slot, .resetQueue slot, .setSlice slot, .serviceReply slot,
       .dumpRequest slot, .readCapabilityList slot, .attestationReport slot, .mailboxUnknownCode slot], exec i s = .next s) ∧
     (s.link.host.carries = false → exec (.readCapabilityList slot) s = .next s) ∧
     (s.link.host.carries = true → s.platform.holding = false → s.mail slot (· == 9) = some m → exec (.readCapabilityList slot) s = .next ({ s with host := s.host.writeBytes arg s.capabilityList.flatten }.reply slot 0
       s.capabilityList.length)) ∧
     (∀ d, Config.windowBase ≤ fieldOf d 24 8 ∨ Config.windowBase ≤ fieldOf d 48 8 ∨ (fieldOf d 10 1 = 1 ∧ Config.windowBase ≤ fieldOf d 16 8) →
       s.queueOf d = none) ∧
     (s.fullService = true →
       let on (code : Nat) : Prop := s.mail slot (· == code) = some m
       (on 1 →
         let u : State := { s with platform := { s.platform with holding := false } }
         let d := s.host.readBytes arg 128
         (contextDescOf d = none → exec (.createContext slot) s = .next (u.reply slot 1 0)) ∧
         ∀ k, contextDescOf d = some k →
           (64 ≤ c ∨ s.contexts.get? c ≠ none ∨ s.carveRoom < k.carve → exec (.createContext slot) s = .next (u.reply slot 1 0)) ∧
           (c < 64 → s.contexts.get? c = none → k.carve ≤ s.carveRoom → exec (.createContext slot) s =
             .next ({ u with contexts := s.contexts.put c { desc := k, events := contextRing d, sliceTable := u.sliceTable } }.reply slot 0 0))) ∧
       (s.platform.holding = false →
       (on 2 →
         (s.contexts.get? c = none → exec (.destroyContext slot) s = .next (s.reply slot 1 0)) ∧
         ∀ k, s.contexts.get? c = some k →
           (k.destroying = some slot → exec (.destroyContext slot) s = .next s) ∧
           (∀ n, k.destroying = some n → n ≠ slot → exec (.destroyContext slot) s = .next (s.reply slot 2 0)) ∧
           (k.destroying = none → k.state = .loaded → exec (.destroyContext slot) s = .next ((s.freeContext c).reply slot 0 0)) ∧
           (k.destroying = none → k.state ≠ .loaded → exec (.destroyContext slot) s = .next ((s.abortContext c).updContext c fun k => { k with destroying := some slot }))) ∧
       (on 3 →
         (∀ k, s.queueOf (s.host.readBytes arg 64) = some k → q < 1024 → s.queues.get? q = none → exec (.createQueue slot) s =
           .next ((((s.commandWrite k.context k.bell.toNat (List.replicate 20 0)).getD s).setQueue q k).writeAllowance q |>.reply slot 0 0)) ∧
         (s.queueOf (s.host.readBytes arg 64) = none ∨ 1024 ≤ q ∨ s.queues.get? q ≠ none → exec (.createQueue slot) s = .next (s.reply slot 1 0))) ∧
       ((∀ k, s.queues.get? q = some k → k.context ≠ c) →
         (on 4 → exec (.destroyQueue slot) s = .next (s.reply slot 1 0)) ∧ (on 5 → exec (.resetQueue slot) s = .next (s.reply slot 1 0))) ∧
       (s.contexts.get? c = none →
         (on 6 → exec (.setSlice slot) s = .next (s.reply slot 1 0)) ∧ (on 8 → exec (.dumpRequest slot) s = .next (s.reply slot 1 0))) ∧
       (on 4 → ∀ k, s.queues.get? q = some k → k.context = c →
         (k.state = .idle → exec (.destroyQueue slot) s = .next ({ s with queues := s.queues.del q }.reply slot 0 0)) ∧
         (k.state ≠ .idle → exec (.destroyQueue slot) s = .next (s.reply slot 1 0))) ∧
       (on 5 → ∀ k, s.queues.get? q = some k → k.context = c → exec (.resetQueue slot) s = .next ((s.resetPackets q fun _ => true).reply slot 0 0)) ∧
       (on 6 → ∀ k, s.contexts.get? c = some k →
         (arg = 0 ∨ 100 ≤ arg ∧ arg ≤ 1000000 → exec (.setSlice slot) s =
           .next ((s.setContext c { k with desc := { k.desc with sliceMicros := arg } }).reply slot 0 0)) ∧
         (¬ (arg = 0 ∨ 100 ≤ arg ∧ arg ≤ 1000000) → exec (.setSlice slot) s = .next (s.reply slot 1 0))) ∧
       (on 8 → ∀ k, s.contexts.get? c = some k →
         (k.state = .saved → k.desc.dumpSize ≠ 0 → exec (.dumpRequest slot) s = .next ((s.writeDump c (arg, fieldOf m 16 8)).reply slot 0 0)) ∧
         (k.state ≠ .saved ∨ k.desc.dumpSize = 0 → exec (.dumpRequest slot) s = .next (s.reply slot 1 0))) ∧
       (on 10 →
         (zeroBytes m 56 7 = false → exec (.attestationReport slot) s = .next (s.reply slot 1 0)) ∧
         (zeroBytes m 56 7 = true →
           let body := s.reportBody ((m.drop 16).take 8 ++ (m.drop 32).take 24)
           let report := body ++ bytesOfNat 384 (Config.rsaSignature body).toNat ++ bytesOfNat 16224 (Config.slhSignature body).toNat
           exec (.attestationReport slot) s = .next ({ s with host := s.host.writeBytes arg report }.reply slot 0 report.length))) ∧
       (s.mail slot (fun code => code = 0 || code > 10) = some m → exec (.mailboxUnknownCode slot) s = .next (s.reply slot 1 0))))) ∧
  (∀ (s : State) (slot status value : Nat), status < 256 →
     let m := s.mailbox.message slot
     let at_ := fieldOf m 24 8
     let t := s.reply slot status value
     t.host.readNat at_ 4 = fieldOf m 4 4 ∧ t.host.readNat (at_ + 4) 4 = status ∧ t.host.readNat (at_ + 8) 8 = value % 2 ^ 64 ∧
     (∀ a, a < at_ ∨ at_ + 16 ≤ a → t.host.read a = s.host.read a) ∧ slot ∉ t.mailbox.pending ∧
     t = { s with host := t.host, mailbox := { s.mailbox with pending := t.mailbox.pending } }) ∧
  ((∀ (s : State) (f : Nat) (x : Fibre) (c : Context), s.Issues f x → s.contexts.get? x.context = some c → ∀ (d : Dst) (a b : Src),
     let n := (s.operand x a).toNat
     let u := (s.releaseOn x.core).1
     (x.speculative = true → exec (.sys d a b) s = .next (s.settle f x (.stall .resolution))) ∧
     (x.speculative = false → n = 0 → exec (.sys d a b) s = .next (s.settle f x (.done (u.setFibre f ((x.write d 0).acquire [homeEdge]))))) ∧
     (x.speculative = false → n = 1 → exec (.sys d a b) s = .next (s.settle f x (.wait (u.abortContext x.context) .saving))) ∧
     (x.speculative = false → 2 ≤ n → n < 256 → exec (.sys d a b) s = .next (s.settle f x (.done (u.setFibre f ((x.write d (BitVec.allOnes 64)).acquire [homeEdge]))))) ∧
     (x.speculative = false → 256 ≤ n → c.tickets.length < 2 ^ 32 - 1 → ∃ t k ticket, exec (.sys d a b) s = .next (s.settle f x (.wait t (.service ticket d))) ∧
       t.contexts.get? x.context = some k ∧ t.fibres = s.fibres ∧ (∀ u ∈ c.tickets, u.1 ≠ ticket) ∧ k.tickets = c.tickets ++ [(ticket, f)] ∧
       k.events.held = c.events.held ++ [
         { kind := 9, tag := BitVec.ofNat 32 ticket, low := (s.operand x b).setWidth 32, high := (s.operand x b).extractLsb' 32 32, word := s.operand x a,
           context := x.context, acquired := [(s.releaseOn x.core).2] }])) ∧
   ∀ (s : State) (slot f : Nat) (m : List Byte) (k : Context) (x : Fibre) (d : Dst), s.fullService = true → s.platform.holding = false → s.mail slot (· == 7) = some m →
     let ticket := fieldOf m 4 4
     let v := wordFieldOf m 16
     (s.contexts.get? (fieldOf m 1 1) = none → exec (.serviceReply slot) s = .next (s.reply slot 1 0)) ∧
     (s.contexts.get? (fieldOf m 1 1) = some k → (∀ t ∈ k.tickets, t.1 ≠ ticket) → exec (.serviceReply slot) s = .next (s.reply slot 1 0)) ∧
     (s.contexts.get? (fieldOf m 1 1) = some k → k.tickets.find? (fun t => t.1 == ticket) = some (ticket, f) → s.fibres.get? f = some x →
       x.context = fieldOf m 1 1 → x.life = .stalled (.service ticket d) → s.Undebugged →
       ∃ t y, exec (.serviceReply slot) s = .next t ∧ t.fibres = s.fibres.put f y ∧ y.life = .ready ∧ (x.hints.rep = none → y.pc = x.pc + 4) ∧
         (d = .push → y.ages[0] = v) ∧ (∀ j, d = .n j → y.named[j] = v) ∧ slot ∉ t.mailbox.pending))

/-- R328, R333, R335, R344: at the end of its slice a Running context whose room no other needs gets a new one; one whose groups its save region cannot
hold as well, with an event of kind 12; any other is Saving, its queues descheduled. With its work drained it is Saved, and none of its groups is
resident; one that a destroy message waits for is then aborted, and one whose state cannot be read back is aborted instead. A context that core 2
schedules, with work to do, runs, bound, from the start of a slice; its slice table is written anew when it was Loaded, and kept when it was Saved
(the model's choice, assumption 111). A dump that completes leaves a context Loaded, with no launch, heap block or ticket, or Free with the reply to
its destroy message. -/
def Obligations.Context_states : Prop :=
  ∀ (s : State) (c : Nat) (k : Context), s.contexts.get? c = some k →
    let sliced (u : State) : State := u.updContext c fun q => { q with sliceStart := u.time }
    (k.state ≠ .running ∨ s.time < k.sliceStart + k.slice → exec (.sliceEnd c) s = .next s) ∧
    (k.state = .running → k.sliceStart + k.slice ≤ s.time →
      (s.roomWanted c k = false → exec (.sliceEnd c) s = .next (sliced s)) ∧
      (s.roomWanted c k = true → k.desc.saveBase + k.desc.saveSize < s.saveEnd c k + s.contextSaveBytes c →
        exec (.sliceEnd c) s = .next (sliced (s.contextEvent c { kind := 12, word := BitVec.ofNat 64 s.time }))) ∧
      (s.roomWanted c k = true → s.saveEnd c k + s.contextSaveBytes c ≤ k.desc.saveBase + k.desc.saveSize →
        exec (.sliceEnd c) s = .next ((s.deschedule c).setContext c { k with state := .saving }))) ∧
    ((∀ e ∈ s.groups, e.2.context = c → e.2.savedAt = none) → (∀ e ∈ s.frames, e.2.save = 0) → s.saveEnd c k = k.desc.saveBase) ∧
    (k.state ≠ .saving ∨ s.drained c = false → exec (.contextSaved c) s = .next s) ∧
    (k.state = .saving → s.drained c = true → (∃ e ∈ s.residentGroups c, s.readable e.1 e.2 = false) ∨ (∃ e ∈ s.looseFibres c, e.2.badStack ≠ []) → exec (.contextSaved c) s = .next (s.abortAny c)) ∧
    (k.state = .saving → s.drained c = true → (∀ e ∈ s.residentGroups c, s.readable e.1 e.2 = true) → (∀ e ∈ s.looseFibres c, e.2.badStack = []) →
      ∃ u q, u.contexts.get? c = some q ∧ q.state = .saved ∧ q.desc = k.desc ∧ (∀ g r, u.groups.get? g = some r → r.context = c → r.resident = false) ∧
        (k.destroying = none → exec (.contextSaved c) s = .next u) ∧ (k.destroying ≠ none → exec (.contextSaved c) s = .next (u.abortContext c))) ∧
    ((k.state ≠ .loaded ∧ k.state ≠ .saved) ∨ s.contextReady c = false ∨ s.bindable c k = false ∨ s.platform.holding = true →
      exec (.contextSchedule c) s = .next s) ∧
    (k.state = .loaded ∨ k.state = .saved → s.contextReady c = true → s.bindable c k = true → s.platform.holding = false →
      (∀ e ∈ s.contexts, e.2.state = .loaded ∨ e.2.state = .saved → s.contextReady e.1 = true → s.bindable e.1 e.2 = true → s.contextClass e.1 ≤ s.contextClass c) →
      (∀ e ∈ s.groups, ∀ a b, e.2.state ≠ .saved a b) → (∃ l ∈ s.launches, l.2.context = c) →
      ∃ t q, exec (.contextSchedule c) s = .next t ∧ t.contexts.get? c = some q ∧ q.state = .running ∧ q.bound = true ∧ q.sliceStart = s.time ∧ t.time = s.time ∧
        q.sliceTable = if k.state = .loaded then s.sliceTable else k.sliceTable) ∧
    (k.state ≠ .dumping → exec (.dumpComplete c) s = .next s) ∧
    (k.state = .dumping → ∃ t q, t.contexts.get? c = some q ∧ q.state = .loaded ∧ q.heap = [] ∧ q.tickets = [] ∧ (∀ e ∈ t.launches, e.2.context ≠ c) ∧
      (k.destroying = none → exec (.dumpComplete c) s = .next t) ∧ ∀ slot, k.destroying = some slot → exec (.dumpComplete c) s = .next ((t.freeContext c).reply slot 0 0))

/-- R381, R384: a ray whose record keeps the limits goes to the unit, from registers or from 64 bytes of the slice. Its ry count rises, and its hit record
is not to be read yet. A record that breaks a limit raises FLT_ACCESS, a misplaced one its fault, an uncorrectable error in it FLT_ECC, and a detached
fibre FLT_DETACHED. A full counter, a unit that holds 512 rays, and a request there that stands before it, by class, promotion and age, hold the
fibre, and one that has waited keeps its place (R21). Slice bytes that an engine wrote and the fibre has not acquired are read as undefined. R381,
R384, R385: a ray that completes leaves its hit record in the slice, and its fibre's ry count falls; no fibre may read the record before it acquires
the ray. Where no matrix command stands in the group's queue or is done without every party's knowledge, no other byte of the slice changes. `hitld`
waits for the fibre's rays to the record, acquires them, and loads one field. That a ray reads its whole scene in one state, at its completion, is the
model's choice (assumption 36). A misplaced record raises its fault, and a full counter holds the fibre. -/
def Obligations.Rays : Prop :=
  (∀ (s : State) (f : Nat) (x : Fibre), s.Issues f x → ∀ (a b : Src) (j : Fin 32) (any : Bool),
     let block : Instr := if any then .traceaR (.n j) b else .traceR (.n j) b
     let slice : Instr := if any then .tracea a b else .trace a b
     (x.group = none → exec block s = .next (s.trapped f x .detached 0 0) ∧ exec slice s = .next (s.trapped f x .detached 0 0)) ∧
     ∀ g k, x.group = some g → s.groups.get? g = some k →
       let hit := s.operand x b
       let at_ := s.operand x a
       let inside := hit.toNat % 32 = 0 ∧ hit.toNat + 32 ≤ k.grant
       let placed := at_.toNat % 32 = 0 ∧ at_.toNat + 64 ≤ k.grant
       let words := (List.range 8).flatMap fun i => bytesOfNat 8 (x.named.toList.getD (j.val + i) 0).toNat
       let issued (i : Instr) (u : State) (record : List Byte) : Prop :=
         (rayOf record = none → exec i s = .next (s.trapped f x .access 0 0)) ∧
         (rayOf record ≠ none →
           (4095 ≤ x.counts.ry → exec i s = .next (s.settle f x (.stall (.counter 4)))) ∧
           let turn := x.rayRequest.getD ((u.core x.core).clock, false)
           let open_ := u.raysHeld x.core < 512 ∧ ∀ e ∈ u.rayRequests x.core, requestBefore e.1 e.2.1 e.2.2 x.cls turn.2 turn.1 = false
           (x.counts.ry < 4095 → ¬ open_ → exec i s = .next (s.settle f x (.stall (.rayUnit turn.1 turn.2)))) ∧
           (x.counts.ry < 4095 → open_ →
             let ray : Ray := { anyHit := any, number := x.issued.ry, record := record, group := g, hit := hit.toNat, core := x.core }
             exec i s = .next (s.settle f x (.done (((u.releaseOn x.core).1.updGroup g fun q =>
                 (q.learn [.operation f .ry x.issued.ry] (· == .fibre f)).expect hit.toNat 32 []).setFibre f
               { x with
                 rays := x.rays ++ [ray], rayRequest := none, counts := { x.counts with ry := x.counts.ry + 1 }, issued := { x.issued with ry := x.issued.ry + 1 } })))))
       (hit.toNat % 32 ≠ 0 → exec block s = .next (s.trapped f x .align hit 0) ∧ exec slice s = .next (s.trapped f x .align hit 0)) ∧
       (hit.toNat % 32 = 0 → k.grant < hit.toNat + 32 → exec block s = .next (s.trapped f x .access hit 0) ∧ exec slice s = .next (s.trapped f x .access hit 0)) ∧
       (inside → issued block s words) ∧
       (inside → at_.toNat % 32 ≠ 0 → exec slice s = .next (s.trapped f x .align at_ 0)) ∧
       (inside → at_.toNat % 32 = 0 → k.grant < at_.toNat + 64 → exec slice s = .next (s.trapped f x .access at_ 0)) ∧
       (inside → placed → (∃ o ∈ k.badBytes, at_.toNat ≤ o ∧ o < at_.toNat + 64) → exec slice s = .next (s.trapped f x .ecc at_ 0)) ∧
       (inside → placed → (∀ o ∈ k.badBytes, o < at_.toNat ∨ at_.toNat + 64 ≤ o) →
         let r := s.readSlice (.fibre f) k at_.toNat 64
         issued slice r.2 r.1 ∧ r.1.length = 64 ∧ r.2.groups = s.groups ∧ r.2.fibres = s.fibres ∧
         ∀ i < 64, k.unacquired (.fibre f) (at_.toNat + i) = false → r.1.getD i 0 = k.slice.read (at_.toNat + i))) ∧
  ((∀ (s : State) (f n g : Nat) (x : Fibre) (k : Group) (ray : Ray) (r : RayRecord), s.fibres.get? f = some x → x.rays[n]? = some ray → rayOf ray.record = some r →
     ray.group = g → s.groups.get? g = some k →
     let out := (traceRay (s.sceneReader { core := ray.core, context := x.context, fibre := some (f, x) }) r ray.anyHit (s.freeBytes 32).1).1
     ∃ t q, exec (.rayComplete f n) s = .next t ∧
       t.fibres = s.fibres.put f { x with rays := x.rays.eraseIdx n, counts := { x.counts with ry := x.counts.ry - 1 } } ∧ t.groups.get? g = some q ∧
       (∀ i < 32, ∀ h, q.unacquired (.fibre h) (ray.hit + i) = true) ∧
       (k.matrix = [] → k.doneMatrix = [] → (∀ i < out.length, q.slice.read (ray.hit + i) = out.getD i 0) ∧
         ∀ o, o < ray.hit ∨ ray.hit + out.length ≤ o → q.slice.read o = k.slice.read o)) ∧
   ∀ (s : State) (f : Nat) (x : Fibre), s.Issues f x → ∀ (d : Dst) (b : Src) (field : Fin 64), field.val < 8 →
     let i : Instr := .hitld d b field
     let va := s.operand x b
     let hit := va.toNat
     let off := hit + if field.val = 7 then 4 else 4 * field.val
     let n := if field.val = 7 then 8 else 4
     (x.group = none → exec i s = .next (s.trapped f x .detached 0 0)) ∧
     ∀ g k, x.group = some g → s.groups.get? g = some k →
       let inside := hit % 32 = 0 ∧ hit + 32 ≤ k.grant
       let landed := ∀ r ∈ x.rays, r.hit ≠ hit
       (hit % 32 ≠ 0 → exec i s = .next (s.trapped f x .align va 0)) ∧
       (hit % 32 = 0 → k.grant < hit + 32 → exec i s = .next (s.trapped f x .access va 0)) ∧
       (inside → (∃ r ∈ x.rays, r.hit = hit) → exec i s = .next (s.settle f x (.stall (.rays hit)))) ∧
       (inside → landed → 4095 ≤ x.counts.ld → exec i s = .next (s.settle f x (.stall (.counter 0)))) ∧
       (inside → landed → x.counts.ld < 4095 → (∃ o ∈ k.badBytes, off ≤ o ∧ o < off + n) → exec i s = .next (s.trapped f x .ecc va 0)) ∧
       (inside → landed → x.counts.ld < 4095 → (∀ o ∈ k.badBytes, o < off ∨ off + n ≤ o) →
         let q := k.acquireHit f hit
         let r := (s.setGroup g q).readSlice (.fibre f) q off n
         s.ReturnsWithLoads r.2 f x i d [BitVec.ofNat 64 (natOfBytes r.1)] 0 ∧
         ((∀ m < n, q.unacquired (.fibre f) (off + m) = false) → r = (k.slice.readBytes off n, s.setGroup g q))))

/-- R387, R388, R391-R394: a light walk and the texture instructions return their values with the loads: the word of the walk with its flags; the three
words of a sample; the query word. A fault of the walk, the descriptor or a footprint is raised with its address, and a full counter holds the fibre.
Where the descriptor is not resident, the level byte of a sample is a free value (assumption 3). The model's choices: the walk and the sample read in
one state, as they issue (assumption 36), and the values of a sample that the rules leave open are as assumptions 37, 38 and 39 say. -/
def Obligations.Samples : Prop :=
  ∀ (s : State) (f : Nat) (x : Fibre), s.Issues f x → ∀ (d : Dst) (i j k : Fin 32) (c b : Src),
    let v : Viewer := { core := x.core, context := x.context, fibre := some (f, x) }
    let walk : Instr := .lwalk d (.n j) c
    let tex : Instr := .tex (.n i) b (.n k)
    let texq : Instr := .texq d b (.n k)
    let sampled (u : State) (vs : List Word) : Prop := exec tex s = .next (s.settle f x (.done (u.setFibre f
      (x.outstanding (.value vs 0) (.named i.val) false))))
    let queried (u : State) (q : Word) : Prop := s.ReturnsWithLoads u f x texq d [q] 0
    let root := x.named[j]
    let regs := (List.range 4).map fun n => x.named.toList.getD (j.val + n) 0
    let va := s.operand x b
    let p := sampleAt x (s.bankOf x) (.n k)
    (4095 ≤ x.counts.ld → ∀ m ∈ [walk, tex, texq], exec m s = .next (s.settle f x (.stall (.counter 0)))) ∧
    (x.counts.ld < 4095 →
      (root.toNat % 64 ≠ 0 → exec walk s = .next (s.trapped f x .align root 0)) ∧
      (root.toNat % 64 = 0 →
        (∀ e, lightWalk (s.sceneReader v) regs (s.operand x c) = .error e → exec walk s = .next (s.trapped f x e.1 (BitVec.ofNat 64 e.2) 0)) ∧
        ∀ r seen, lightWalk (s.sceneReader v) regs (s.operand x c) = .ok (r, seen) →
          s.ReturnsWithLoads (seen.foldl (fun s a => s.sceneTouch v a 64) s) f x walk d [r.1] r.2) ∧
      (∀ e, s.textureAt v va = .error e → exec tex s = .next (s.trapped f x e va 0) ∧ exec texq s = .next (s.trapped f x e va 0)) ∧
      (s.textureAt v va = .ok none → queried s 4 ∧
        let r := s.freeBytes 1
        sampled r.2 [0, 0, BitVec.ofNat 64 (3 + 256 * (r.1.headD 0).toNat)]) ∧
      ∀ t, s.textureAt v va = .ok (some t) →
        let u := s.sceneTouch v va.toNat 64
        let levels := t.levelsFor p.2.2
        let es := t.texels p.1 p.2.1 levels
        let last := t.texels p.1 p.2.1 [(t.levels - 1, 256)]
        let level := (levels.head?.map (·.1)).getD 0
        let main := u.footprintPages v (t.spans es)
        let tail := u.footprintPages v (t.spans last)
        (∀ e n, u.footprint v (t.spans es) = .bad e n → exec tex s = .next (s.trapped f x e (BitVec.ofNat 64 n) 0)) ∧
        (∀ bss, u.footprint v (t.spans es) = .whole bss → sampled (u.touchSpans v (t.spans es)) (t.words es bss 0 level)) ∧
        (∀ page, u.footprint v (t.spans es) = .missing page →
          (∀ e n, u.footprint v (t.spans last) = .bad e n → exec tex s = .next (s.trapped f x e (BitVec.ofNat 64 n) 0)) ∧
          (∀ bss, u.footprint v (t.spans last) = .whole bss → sampled (u.touchSpans v (t.spans last)) (t.words last bss 1 (t.levels - 1))) ∧
          (∀ page', u.footprint v (t.spans last) = .missing page' → sampled u [0, 0, BitVec.ofNat 64 (2 + 256 * (t.levels - 1))])) ∧
        (∀ e n, main = some (.bad e n) → exec texq s = .next (s.trapped f x e (BitVec.ofNat 64 n) 0)) ∧
        (∀ page, main = some (.missing page) →
          (∀ e n, tail = some (.bad e n) → exec texq s = .next (s.trapped f x e (BitVec.ofNat 64 n) 0)) ∧
          ((∀ e n, tail ≠ some (.bad e n)) → queried u (queryResult t (some page) level tail.isNone))) ∧
        (main = none → queried u (queryResult t none level tail.isNone)))

/-- R395, R399, R400: the generator: a key is the mix of a seed and a lane word, with counter 0; `rng` draws at the counter and advances it, and `rng.v`
does so for each element. Any length above 64 raises FLT_LENGTH. R401-R406: the record instructions change the four registers of their block and the
flags, and nothing else. `rsinit` writes the null record; `rsadd` and `rsmerge` stream a candidate with its weight, and add its confidence up to the
cap; `rsnorm` normalises. -/
def Obligations.Draws_and_records : Prop :=
  (∀ (s : State) (f : Nat) (x : Fibre), s.Issues f x → ∀ (d : Dst) (vd : VReg) (a b : Src),
     let va := s.operand x a
     let vb := s.operand x b
     let mix (w : Word) : Word :=
       let p := (w ^^^ (w >>> 31)) * 0xA3B195C72E6D4F09
       let q := (p ^^^ (p >>> 29)) * 0x5F1C7A2BD394E68B
       q ^^^ (q >>> 32)
     let draw (n : Word) : Word := mix (mix (n ^^^ x.rkey) ^^^ x.rkey.rotateLeft 32) >>> 32
     let l := va.toNat
     exec (.rngkey a b) s = .next (s.completed f x { x with rkey := mix (va ^^^ vb), rctr := 0 }) ∧
     exec (.rngset a b) s = .next (s.completed f x { x with rkey := va, rctr := vb }) ∧
     exec (.rng d) s = .next (s.completed f x { x.write d (draw x.rctr) with rctr := x.rctr + 1 }) ∧
     (64 < l → exec (.rngV vd a) s = .next (s.trapped f x .length 0 0)) ∧
     (l ≤ 64 → ∃ r : Runs, r.length ≤ l ∧ runsLen r = l ∧ (∀ j < l, runsElem r j = draw (x.rctr + BitVec.ofNat 64 j)) ∧
       (r.length ≤ x.room (.v vd) →
         exec (.rngV vd a) s = .next (s.completed f x { x with vregs := x.vregs.set vd.val r, rctr := x.rctr + va })) ∧
       (x.room (.v vd) < r.length → exec (.rngV vd a) s = .next (s.trapped f x .runOverflow 0 0)))) ∧
  (∀ (s : State) (f : Nat) (x : Fibre), s.Issues f x → ∀ (j k : Fin 32) (a b : Src), j.val + 4 ≤ 32 → k.val + 4 ≤ 32 →
     let block (y : Fibre) (n count : Nat) := (List.range count).map fun i => y.named.toList.getD (n + i) 0
     let R := Reservoir.ofWords (block x j.val 4)
     let candidate := Reservoir.ofWords (block x k.val 3)
     let C := Reservoir.ofWords (block x k.val 4)
     let w := s.operand x b
     let draw := (w.extractLsb' 0 32).toNat
     let cap := if w.extractLsb' 32 16 = 0 then 65535 else (w.extractLsb' 32 16).toNat
     let writes (i : Instr) (ws : List Word) (fl : FlagSet) : Prop := ∃ y : Fibre, exec i s = .next (s.completed f x y) ∧
       y = { x with named := y.named, flags := x.flags ||| fl } ∧ block y j.val 4 = ws ∧
       ∀ i : Fin 32, i.val < j.val ∨ j.val + 4 ≤ i.val → y.named[i] = x.named[i]
     let added := R.stream candidate candidate.wsum draw 1 cap
     let weight := C.mergeWeight
     let merged := R.stream C weight.1 draw C.m.toNat cap
     writes (.rsinit (.n j) a) [0xFFFFFFFF, 0, 0, s.operand x a <<< 32] 0 ∧
     writes (.rsadd (.n j) (.n k) b) added.1.1.words added.2 ∧ writes (.rsmerge (.n j) (.n k) b) merged.1.1.words (weight.2 ||| merged.2) ∧
     writes (.rsnorm (.n j)) R.normalise.1.words R.normalise.2 ∧
     added.1.1.m.toNat = Nat.min (R.m.toNat + 1) cap ∧ merged.1.1.m.toNat = Nat.min (R.m.toNat + C.m.toNat) cap ∧
     (∀ r : Reservoir, Reservoir.ofWords r.words = r) ∧ ∀ ws : List Word, ws.length = 4 → (Reservoir.ofWords ws).words = ws)

/-- R407, R409, R414: `rsld` and `rsst` of a record that is there are outstanding with the loads and the stores; a word that names none raises FLT_ACCESS.
`reuse` whose descriptor keeps the limits makes a job; another raises FLT_ACCESS, and a descriptor that is misplaced or cannot be read its fault. A
full counter holds the fibre, and a speculative fibre waits for resolution at `rsst` and `reuse`. A load of a record in error is held: it raises
FLT_ECC as it returns (R27). The address in the fault of a word is 0 (assumption 51), and in that of a job that is refused the descriptor's
(assumption 52). R415, R416, R419, R420: a job in Exchange goes on to Resampling; a tile of its range that an engine may take is resampled and
written, or, where its rays must wait for their ray unit, waits there with its age (R21). Both wait until what the job acquired at its submission has
reached home. A tile that retires is counted, its addition is made where the job has a sync word, and the last one ends the job. A tile is neither
taken nor retired twice. -/
def Obligations.Reuse : Prop :=
  (∀ (s : State) (f : Nat) (x : Fibre), s.Issues f x → ∀ (j : Fin 32) (a : Src),
     let load : Instr := .rsld (.n j) a
     let store : Instr := .rsst a (.n j)
     let w := (s.operand x a).toNat
     let die := w / 2 ^ 24 % 2
     let index := w % 2 ^ 24
     let live := w < 2 ^ 25 ∧ die ∈ s.diesUp ∧ index < s.storeRecords x.context
     let block := (List.range 4).map fun i => x.named.toList.getD (j.val + i) 0
     let va := s.operand x a
     let bad : Bool := match s.contexts.get? x.context with
       | some c => c.badRecords.contains (die, index)
       | none => false
     (4095 ≤ x.counts.ld → exec load s = .next (s.settle f x (.stall (.counter 0)))) ∧
     (x.counts.ld < 4095 →
       (live → exec load s = .next (s.completed f x
         (x.outstanding (.rsLoad die index) (.named j.val) bad))) ∧
       (¬ live → exec load s = .next (s.trapped f x .access 0 0))) ∧
     (x.speculative = true → exec store s = .next (s.settle f x (.stall .resolution)) ∧ exec (.reuse a) s = .next (s.settle f x (.stall .resolution))) ∧
     (x.speculative = false → 4095 ≤ x.counts.st → exec store s = .next (s.settle f x (.stall (.counter 1)))) ∧
     (x.speculative = false → x.counts.st < 4095 →
       (live → exec store s = .next (s.completed f x
         (x.outstanding (.rsStore die index block) .none false))) ∧
       (¬ live → exec store s = .next (s.trapped f x .access 0 0))) ∧
     (x.speculative = false →
       (va.toNat % 64 ≠ 0 → exec (.reuse a) s = .next (s.trapped f x .align va 0)) ∧
       (va.toNat % 64 = 0 → (∀ e, fibreReader f x s va.toNat 128 = .error e → exec (.reuse a) s = .next (s.trapped f x e.1 e.2 0)) ∧
         ∀ bs t, fibreReader f x s va.toNat 128 = .ok (bs, t) →
           (jobOk s.diesUp (s.storeRecords x.context) bs = false → exec (.reuse a) s = .next (s.trapped f x .access va 0)) ∧
           (jobOk s.diesUp (s.storeRecords x.context) bs = true → ∀ l, s.launches.get? x.launch = some l →
             let e := t.releaseOn x.core
             let job : ReuseJob :=
               { context := x.context, cls := x.cls, desc := bs, launch := some (x.launch, s.linearOf f), root := (l.queue, l.packet), tag := l.tag, slot := l.slot,
                 ordered := s.inOrdered x.launch, state := if 0 ∈ s.diesUp ∧ 1 ∈ s.diesUp then .exchange else .resampling, acquired := [e.2] }
             exec (.reuse a) s = .next (s.settle f x (.done { e.1 with jobs := e.1.jobs.put e.1.fresh job, fresh := e.1.fresh + 1 })))))) ∧
  (∀ (s : State) (k tile : Nat) (j : ReuseJob), s.jobs.get? k = some j →
     let d := jobOf j.desc
     let a := s.engineAcquires j.acquired
     (j.state = .exchange → a.2 = false → exec (.haloExchangeComplete k) s = .next a.1) ∧
     (j.state = .exchange → a.2 = true → ∃ t q, exec (.haloExchangeComplete k) s = .next t ∧ t.jobs.get? k = some q ∧
       q = { j with state := .resampling, changed := q.changed, haloWritten := q.haloWritten } ∧
       t.fibres = s.fibres ∧ t.groups = s.groups) ∧
     (j.state = .resampling → exec (.haloExchangeComplete k) s = .next s) ∧
     (s.tileReady j tile = false → exec (.reuseTileStart k tile) s = .next s) ∧ (d.vis = 0 → s.tileTurn j tile = true) ∧
     (s.tileReady j tile = true → s.tileTurn j tile = false →
       let now := (s.core (s.serving (d.home s.diesUp (tile % d.tilesX) (tile / d.tilesX)).1)).clock
       ((∃ w ∈ j.waits, w.1 = tile) → exec (.reuseTileStart k tile) s = .next s) ∧
       ((∀ w ∈ j.waits, w.1 ≠ tile) → exec (.reuseTileStart k tile) s = .next { s with jobs := s.jobs.put k { j with waits := j.waits ++ [(tile, now)] } })) ∧
     (s.tileReady j tile = true → s.tileTurn j tile = true → a.2 = false → exec (.reuseTileStart k tile) s = .next a.1) ∧
     (s.tileReady j tile = true → s.tileTurn j tile = true → a.2 = true →
       ∃ t q, exec (.reuseTileStart k tile) s = .next t ∧ t.jobs.get? k = some q ∧ q.written = tile :: j.written ∧
         q.retired = j.retired ∧ (∀ w ∈ q.waits, w.1 ≠ tile) ∧ t.fibres = s.fibres ∧ t.groups = s.groups) ∧
     (tile ∉ j.written ∨ tile ∈ j.retired → exec (.reuseTileRetire k tile) s = .next s) ∧
     (tile ∈ j.written → tile ∉ j.retired →
       let die := (d.home s.diesUp (tile % d.tilesX) (tile / d.tilesX)).1
       let pixel := match d.tilePixels tile with
         | p :: _ => p.2 * d.w + p.1
         | [] => 0
       let ends (t : State) (q : ReuseJob) : Prop :=
         ((∃ n ∈ d.rangeTiles, n ∉ q.retired) → exec (.reuseTileRetire k tile) s = .next { t with jobs := t.jobs.put k q }) ∧
         ((∀ n ∈ d.rangeTiles, n ∈ q.retired) →
           exec (.reuseTileRetire k tile) s = .next ({ t with jobs := t.jobs.put k q }.endJob k q (if q.fault = none then 0 else 1)))
       let q := { j with retired := tile :: j.retired }
       (d.sync = 0 → ends s q) ∧
       (d.sync ≠ 0 → (∀ t, s.engineAdd die j.context j.ordered d.sync 2048 [] = .ok t → ends t q) ∧
         ∀ e, s.engineAdd die j.context j.ordered d.sync 2048 [] = .error e →
           ends s { q with fault := firstFault j.fault (some (tile, pixel, 1, e.code, d.sync)) })))

/-- R397, R410-R412: `tcall` enters a target program: its eight registers hold the block of the call, every other is 0, and its window is 16. `tret`
leaves it: the fibre is as its call issued, but for the destination, which holds the value, and goes on past the call. Outside a program `tret` is
illegal. -/
def Obligations.Target_programs : Prop :=
  (∀ (s : State) (f : Nat) (x : Fibre), s.Issues f x → x.target = none → ∀ (d : Dst) (a : Src) (k : Fin 32), k.val + 8 ≤ 32 →
    let entry := s.operand x a
    (entry.toNat % 4 ≠ 0 → exec (.tcall d a (.n k)) s = .next (s.trapped f x .align entry 0)) ∧
    (entry.toNat % 4 = 0 → 2 ^ 52 ≤ entry.toNat → exec (.tcall d a (.n k)) s = .next (s.trapped f x .translation entry 0)) ∧
    (entry.toNat % 4 = 0 → entry.toNat < 2 ^ 52 → ∃ y, exec (.tcall d a (.n k)) s = .next (s.setFibre f y) ∧ y.pc = entry.setWidth 52 ∧ y.window = 16 ∧
      y.preds = 0 ∧ (∀ i : Fin 16, y.ages[i] = 0) ∧ (∀ i : Fin 32, y.named[i] = if i.val < 8 then x.named.toList.getD (k.val + i.val) 0 else 0) ∧
      y.target = some ⟨x.ages, x.named, x.window, x.preds, x.flags, x.pc, x.hints, d, 0⟩ ∧
      y = { x with target := y.target, ages := y.ages, named := y.named, window := 16, preds := 0, pc := y.pc, hints := {}, rep := 0 }) ∧
    exec (.tret a) s = .next (s.trapped f x .illegal 0 0)) ∧
  ∀ (s : State) (f : Nat) (x : Fibre) (r : TargetRun), s.Issues f x → x.target = some r → r.hints.rep = none → s.Undebugged → ∀ a : Src,
    ∃ t y, exec (.tret a) s = .next t ∧ t.fibres.get? f = some y ∧ y.target = none ∧ y.pc = r.pc + 4 ∧ y.preds = r.preds ∧ y.window = r.window ∧ y.flags = r.flags ∧
      (∀ j, r.dst = .n j → y.named[j] = s.operand x a ∧ (∀ i : Fin 32, i ≠ j → y.named[i] = r.named[i]) ∧ y.ages = r.ages) ∧
      (r.dst = .push → y.ages[0] = s.operand x a ∧ y.named = r.named) ∧ t.home = s.home ∧ t.groups = s.groups

/-- R429, R430, R433, R434: `bxsum` reads its descriptor and its member table; it traps where either is misplaced, cannot be read or breaks a limit, waits
for the resolution of a speculative group, stalls while 64 collectives are held, and else leaves a collective that holds its descriptor, its table and
its terms. A part that matches joins the first collective of its tag that lacks it among the same members, or else the first that lacks it; the last
part completes it, once what the `bxsum` released has reached home. A part that does not match ends it with status 2 and undefined result bytes, and
the timeout with status 4. A collective that has ended is gone, and its status word holds its status, the first fault and the flags. A full
collective, or one of a single member, completes at any event of its traffic (the model's choice, assumption 75); the addition to the sync word is
made only once every byte of the result is at its home, so that none is made with status 2 or 4 (assumption 74). R431, R432: a binned sum of finite
terms is the same, flags included, in whatever order its terms come. A top-k puts out the k greatest terms in descending order, each at its own index. -/
def Obligations.Collectives : Prop :=
  ((∀ (s : State) (f : Nat) (x : Fibre), s.Issues f x → ∀ (a : Src),
     let va := s.operand x a
     let stops (code : FaultCode) (addr : Word) : Prop := exec (.bxsum a) s = .next (s.trapped f x code addr 0)
     (x.speculative = true → exec (.bxsum a) s = .next (s.settle f x (.stall .resolution))) ∧
     (x.speculative = false → va.toNat % 64 ≠ 0 → stops .align va) ∧
     (x.speculative = false → va.toNat % 64 = 0 → (∀ e, fibreReader f x s va.toNat 128 = .error e → stops e.1 e.2) ∧
       ∀ bs t, fibreReader f x s va.toNat 128 = .ok (bs, t) →
         let c := collectiveOf bs
         (c.table % 2 ≠ 0 → stops .align (BitVec.ofNat 64 c.table)) ∧
         (c.table % 2 = 0 → (∀ e, fibreReader f x t c.table (2 * c.members) = .error e → stops e.1 e.2) ∧
           ∀ tb u, fibreReader f x t c.table (2 * c.members) = .ok (tb, u) →
             let table := (List.range c.members).map fun i => fieldOf tb (2 * i) 2
             let limits := collectiveOk bs = true ∧ tableOk s.domainSize s.node c.rank table = true
             let barred := (s.taskOf f x).isSome = true ∧ u.touchesOrdered f x c.pieces = true
             (¬ limits → stops .access va) ∧
             (limits → barred → stops .access (BitVec.ofNat 64 c.dst)) ∧
             (limits → ¬ barred → 64 ≤ s.collectives.length → exec (.bxsum a) s = .next (s.settle f x (.stall .collectives))) ∧
             (limits → ¬ barred → s.collectives.length < 64 →
               let e := u.releaseOn x.core
               let w := e.1.reconcileHome [e.2]
               ∃ v k q, exec (.bxsum a) s = .next (s.settle f x (.done v)) ∧ v.collectives.get? k = some q ∧ q.desc = bs ∧ q.table = table ∧
                 q.context = x.context ∧ q.launch = x.launch ∧ (∀ l, s.launches.get? x.launch = some l → q.queue = l.queue ∧ q.tag = l.tag ∧ q.slot = l.slot) ∧ q.messages = [] ∧ q.touched = [] ∧ q.acquired = [e.2] ∧
                 q.terms = (w.collectiveTerms q.agent c 0 none c.sources).1 ∧ q.spans = w.sourceSpans q.agent c ∧ v.home = w.home)))) ∧
   (∀ (s : State) (k : Nat) (c : Collective) (m : CollectiveMessage), s.collectives.get? k = some c →
     let d := collectiveOf c.desc
     let mine := m.tag = d.tag ∧ s.collectiveFor m = some k ∧ s.link.control.getLsbD 15 = true
     let joined : Collective := { c with messages := c.messages ++ [m] }
     let u : State := { s with collectives := s.collectives.put k joined }
     let ends (u : State) (q : Collective) : Prop :=
       let a := u.engineAcquires q.acquired
       (a.2 = false → exec (.collectiveTraffic k m) s = .next a.1) ∧
       (a.2 = true → exec (.collectiveTraffic k m) s = .next (a.1.completeCollective k q) ∧ (a.1.completeCollective k q).collectives.get? k = none)
     (c.full = true → ends s c) ∧
     (c.full = false → ¬ mine → exec (.collectiveTraffic k m) s = .next s) ∧
     (c.full = false → mine → c.agrees m = true → joined.full = false → exec (.collectiveTraffic k m) s = .next u) ∧
     (c.full = false → mine → c.agrees m = true → joined.full = true → ends u joined) ∧
     (c.full = false → mine → c.agrees m = false →
       let r := s.freeBytes d.resultBytes
       let t := (r.2.writeResult c.agent r.1 none d.pieces).2.endCollective k c 2 none 0
       exec (.collectiveTraffic k m) s = .next t ∧ t.collectives.get? k = none)) ∧
   (∀ (s : State) (k : Nat) (c : Collective), s.collectives.get? k = some c →
     let n := (collectiveOf c.desc).timeout
     (n = 0 ∨ c.full = true ∨ s.time < c.started + n * 1000000 → exec (.collectiveTimeout k) s = .next s) ∧
     (n ≠ 0 → c.full = false → c.started + n * 1000000 ≤ s.time → exec (.collectiveTimeout k) s = .next (s.endCollective k c 4 none 0))) ∧
   (∀ (s : State) (k : Nat) (c : Collective),
     let d := collectiveOf c.desc
     let r := s.collectiveTerms c.agent d 0 none d.sources
     let res := d.result (c.sources r.1)
     let b := r.2.2.blurWhere (c.dependsOn r.1) res.1
     let w := b.2.writeResult c.agent b.1 none d.pieces
     let first := r.2.1.or w.1
     let status (fault : Option FaultCode) := if fault.isSome then 1 else 0
     (d.sync = 0 ∨ w.1 ≠ none → s.completeCollective k c = w.2.endCollective k c (status first) first res.2) ∧
     (d.sync ≠ 0 → w.1 = none →
       (∀ t, w.2.engineAdd 0 c.context c.ordered d.sync 1 [] = .ok t → s.completeCollective k c = t.endCollective k c (status first) first res.2) ∧
       ∀ e, w.2.engineAdd 0 c.context c.ordered d.sync 1 [] = .error e → s.completeCollective k c = w.2.endCollective k c 1 (some (r.2.1.getD e)) res.2)) ∧
   ∀ (s : State) (k : Nat) (c : Collective) (status : Nat) (fault : Option FaultCode) (flags : FlagSet),
     let d := collectiveOf c.desc
     let u : State := { s with collectives := s.collectives.del k }
     (d.status = 0 → s.endCollective k c status fault flags = u) ∧
     (d.status ≠ 0 → ∀ e, u.engineLocate c.agent d.status.toNat 8 true = .error e → s.endCollective k c status fault flags =
       u.contextEvent c.context { kind := 13, status := e.code, queue := c.queue, tag := c.tag, low := BitVec.ofNat 32 c.slot, high := BitVec.ofNat 32 c.group, word := BitVec.ofNat 64 s.time }) ∧
     (d.status ≠ 0 → ∀ l t, u.engineLocate c.agent d.status.toNat 8 true = .ok (l, t) →
       let put := t.engineWrite c.agent l (bytesOfNat 8 (status * 2 ^ 60 + (fault.map FaultCode.code).getD 0 * 2 ^ 52 + flags.toNat))
       (∀ v, put = some v → s.endCollective k c status fault flags = v) ∧ (put = none → s.endCollective k c status fault flags = t))) ∧
  ((∀ (t : Ty) (e : Int) (ts us : List XVal), (∀ x ∈ ts, ∃ neg m, x = .fin neg m) → ts.Perm us → binnedSum t e ts = binnedSum t e us) ∧
   ∀ (t : Ty) (k : Nat) (terms : List Word), k ≤ terms.length →
     let r : List (Word × Nat) := topkResult t k terms
     r.length = k ∧ (∀ e ∈ r, terms[e.2]? = some e.1) ∧ (r.map (·.2)).Nodup ∧
     (∀ i j : Nat, i < j → ∀ a b : Word × Nat, r[i]? = some a → r[j]? = some b → totalKey t b.1 ≤ totalKey t a.1) ∧
     ∀ i : Nat, i ∉ r.map (·.2) → ∀ w, terms[i]? = some w → ∀ e ∈ r, totalKey t w ≤ totalKey t e.1)

/-- R423, R339, R425, R446, R483: an operation on no queue pair, or on one that a NAK left in error, or while the port has no link, does nothing
(assumption 94). In full service a WRITE to places that the package serves stores its bytes there, and is answered; a READ is answered with the bytes;
FETCH_ADD and CMP_SWAP apply to the little-endian value and are answered with the old one, and FETCH_ADD on the count of a doorbell is ADDSW. In a
context's space an uncorrectable error refuses the operation; in physical memory its bytes read as free (assumption 95). Everything else is answered
with a NAK: a space or place that is not there, a window's operation that is not its own, and, in recovery or while the package holds reset, all but
the mailbox window (assumption 61). A WRITE of a whole message puts it in its slot, and no other WRITE to those windows is taken (assumption 63); the
link window takes the link control word. Bytes of a freed heap block are undefined to the host too. -/
def Obligations.Host_port : Prop :=
  ∀ (s : State) (qp rkey : Nat) (addr v w : Word) (data : List Byte) (len : Nat),
    let a := addr.toNat
    let nak := s.answer qp false []
    let write : Instr := .rdmaWrite qp rkey addr data
    let read : Instr := .rdmaRead qp rkey addr len
    let add : Instr := .rdmaFetchAdd qp rkey addr v
    let swap : Instr := .rdmaCmpSwap qp rkey addr v w
    let message := a < 4096 ∧ a % 64 = 0 ∧ data.length = 64
    (s.portOpen = true ↔ 4 ≤ s.platform.step ∧ s.platform.failed = false ∧ s.platform.holding = false) ∧
    (s.portServes qp = true ↔ qp < 1024 ∧ s.link.host.carries = true ∧ qp ∉ s.pairErrors) ∧ qp ∈ nak.pairErrors ∧
    (s.portServes qp = false → ∀ i ∈ [write, read, add, swap, .rdmaUnsupported qp], exec i s = .next s) ∧
    (s.portServes qp = true →
      exec (.rdmaUnsupported qp) s = .next nak ∧
      (0x44 ≤ rkey → ∀ i ∈ [write, read, add, swap], exec i s = .next nak) ∧
      (s.portOpen = false → (∀ i ∈ [read, add, swap], exec i s = .next nak) ∧ (rkey ≠ 0x41 → exec write s = .next nak)) ∧
      (s.portOpen = true → ∀ sp, rdmaSpace rkey = some sp → sp = .physical ∨ (∃ c, sp = .context c) →
        (s.rdmaPlaces sp a data.length true = none → exec write s = .next nak) ∧
        (s.rdmaPlaces sp a len false = none → exec read s = .next nak) ∧
        (s.rdmaPlaces sp a 8 true = none → exec add s = .next nak ∧ exec swap s = .next nak) ∧
        (∀ ps t, s.rdmaPlaces sp a data.length true = some (ps, t) →
          (t.rdmaError sp ps = true → exec write s = .next nak) ∧
          (t.rdmaError sp ps = false → exec write s = .next ((t.rdmaStore ps data).answer qp true []))) ∧
        (∀ ps t, s.rdmaPlaces sp a len false = some (ps, t) →
          (t.rdmaError sp ps = true → exec read s = .next nak) ∧
          (t.rdmaError sp ps = false →
            let r := (t.rdmaBytes ps).2.rdmaFreed sp a (t.rdmaBytes ps).1
            exec read s = .next (r.2.answer qp true r.1))) ∧
        ∀ ps t, s.rdmaPlaces sp a 8 true = some (ps, t) →
          (t.rdmaError sp ps = true → exec add s = .next nak ∧ exec swap s = .next nak) ∧
          (t.rdmaError sp ps = false →
            let r := (t.rdmaBytes ps).2.rdmaFreed sp a (t.rdmaBytes ps).1
            let old := BitVec.ofNat 64 (natOfBytes r.1)
            exec swap s = .next ((r.2.rdmaStore ps (bytesOfNat 8 (if old = v then w else old).toNat)).answer qp true r.1) ∧
            (r.2.bellAt ps = none → exec add s = .next ((r.2.rdmaStore ps (bytesOfNat 8 (old + v).toNat)).answer qp true r.1)) ∧
            ∀ pa, r.2.bellAt ps = some pa → exec add s = .next ((r.2.addAtHome pa 0 v.toNat [homeEdge]).answer qp true r.1))) ∧
      (rkey = 0x41 → (message → exec write s = .next ({ s with mailbox := s.mailbox.write (a / 64) data }.answer qp true [])) ∧
        (¬ message → exec write s = .next nak)) ∧
      (rkey = 0x43 → s.portOpen = true →
        (message → exec write s = .next ((s.debugWrite (a / 64) data).answer qp true [])) ∧
        (¬ message → exec write s = .next nak)) ∧
      (rkey = 0x42 → s.portOpen = true →
        (a = 0 ∧ data.length = 8 → exec write s = .next ((s.writeLinkControl (BitVec.ofNat 64 (natOfBytes data))).answer qp true [])) ∧
        (¬ (a = 0 ∧ data.length = 8) → exec write s = .next nak) ∧
        (a = 0 ∧ len = 8 → exec read s = .next (s.answer qp true (bytesOfNat 8 s.link.control.toNat))) ∧
        (¬ (a = 0 ∧ len = 8) → exec read s = .next nak)) ∧
      (rkey = 0x41 ∨ rkey = 0x43 → exec read s = .next nak) ∧
      (0x41 ≤ rkey → exec add s = .next nak ∧ exec swap s = .next nak)) ∧
    (∀ (pa : Nat) (bs : List Byte), let u := s.rdmaStore [(pa, bs.length)] bs
      (∀ i < bs.length, u.home.mem.read (pa + i) = bs.getD i 0) ∧ (∀ b, b < pa ∨ pa + bs.length ≤ b → u.home.mem.read b = s.home.mem.read b) ∧
      u.home.modes = s.home.modes ∧ u.fibres = s.fibres ∧ u.rdma = s.rdma) ∧
    (∀ bs, s.rdmaFreed .physical a bs = (bs, s)) ∧ (∀ c bs, s.rdmaFreed (.context c) a bs = s.blurFreed c a bs) ∧
    (∀ ps : List (Nat × Nat), (∀ e ∈ ps, s.home.faulty e.1 e.2 0 = false) → s.rdmaBytes ps = (ps.flatMap fun e => s.home.mem.readBytes e.1 e.2, s)) ∧
    (s.portOpen = true → s.link.host.carries = true → exec (.linkControlWrite v) s = .next (s.writeLinkControl v)) ∧
    (s.link.control.getLsbD 15 = true → v.getLsbD 15 = true →
      bitsField v 0 12 ≠ bitsField s.link.control 0 12 ∨ bitsField v 17 12 ≠ bitsField s.link.control 17 12 → s.writeLinkControl v = s) ∧
    (s.portOpen = false ∨ s.link.host.carries = false → exec (.linkControlWrite v) s = .next s)

/-- R421, R422, R426, R451, R454: the table of a unit's states. A Down unit that has been enabled goes to Training; its training ends in Up, or at the
third failure in Down; an Up unit that loses a lane is Degraded until its retrain; a unit that is lost is Down. Once every Causeway module of a
package with both dies is Down, die 1 leaves service with the fabric ports of its end, die 0 runs at 1.2 GHz, and every context with work there is
aborted. No event of a unit moves it from any other state. That a unit trains once for each time it is enabled is the model's reading (assumption 71).
A change of a unit that the capability list shows raises its event. A package that no path has reached for 10 ms is out of reach. R425, R426, R428: an
access of a package that the fabric is open to is performed raw at its home: a store writes its bytes and no other, an atomic or an operation on a
sync word updates its bytes, and what returns a value is answered with the old bytes. One that does not lie in memory of the package that is in
service, or is misaligned, does nothing. Where a path's marker is the only one of the next epoch, it is acknowledged once the writes that it counts
are performed, and held until then; a marker of a later epoch waits. An acknowledgement ends the waits for its epoch and those before it. The
numbering of epochs, the next one of a sender and the layout of an acknowledgement are the model's readings (assumptions 72 and 110). -/
def Obligations.Links : Prop :=
  ((∀ (s : State) (u : LinkUnit),
     let now := s.link.unit u
     let lost := ({ s with hostEvents := s.hostEvents ++ [.linkDown u] } : State).setUnit u .down
     let modules : Prop := ∀ i, lost.link.unit (.module i) = .down
     let falls (i : Instr) : Prop := lost.link.unit u = .down ∧ (¬ modules ∨ 1 ∉ s.diesUp → exec i s = .next lost) ∧
       (modules → 1 ∈ s.diesUp → exec i s = .next lost.dropDie1)
     (now = .down → s.enabled u = true → ∃ t, exec (.linkEnable u) s = .next t ∧ t.link.unit u = .training 0 ∧ t.enabled u = false) ∧
     (now ≠ .down ∨ s.enabled u = false → exec (.linkEnable u) s = .next s) ∧
     (∀ n, now = .training n → (∃ t, exec (.linkTrainingComplete u) s = .next t ∧ t.link.unit u = .up) ∧
       (n < 2 → ∃ t, exec (.linkTrainingFail u) s = .next t ∧ t.link.unit u = .training (n + 1) ∧ t.hostEvents = s.hostEvents) ∧
       (2 ≤ n → falls (.linkTrainingFail u))) ∧
     ((∀ n, now ≠ .training n) → exec (.linkTrainingComplete u) s = .next s ∧ exec (.linkTrainingFail u) s = .next s) ∧
     (now = .up → ∃ t, exec (.laneFailure u) s = .next t ∧ t.link.unit u = .degraded) ∧
     (now ≠ .up → exec (.laneFailure u) s = .next s) ∧
     (now = .degraded → ∃ t, exec (.linkRetrainComplete u) s = .next t ∧ t.link.unit u = .up) ∧
     (now ≠ .degraded → exec (.linkRetrainComplete u) s = .next s) ∧
     (now.carries = true → falls (.linkUnitLost u)) ∧
     (now.carries = false → exec (.linkUnitLost u) s = .next s)) ∧
   (∀ s : State, s.dropDie1.platform.clock[0] = 1200 ∧ 1 ∉ s.dropDie1.diesUp ∧ (∀ i : Fin 8, 4 ≤ i.val → s.dropDie1.link.unit (.fabric i) = .down) ∧
     ∀ c k, s.contexts.get? c = some k → s.worksOnDie1 c = true → k.state = .running ∨ k.state = .saving ∨ k.state = .saved →
       ∃ q, s.dropDie1.contexts.get? c = some q ∧ q.state = .dumping ∧ q.desc = k.desc) ∧
   (∀ (s : State) (u : LinkUnit) (v : LinkState),
     let t := s.setUnit u v
     let shown := (∃ i, u = .module i) ∨ ∃ i, u = .fabric i ∧ (i.val < 4 ∨ s.reduced = false)
     t.link.unit u = v ∧ (∀ w, w ≠ u → t.link.unit w = s.link.unit w) ∧
     (shown → (s.link.unit u).code ≠ v.code → t.hostEvents = s.hostEvents ++ [.capability]) ∧
     (¬ shown ∨ (s.link.unit u).code = v.code → t.hostEvents = s.hostEvents)) ∧
   ∀ (s : State) (pkg : Nat),
     let open_ := pkg ≠ s.node ∧ s.inDomain pkg = true ∧ pkg ∉ s.link.unreachable
     (¬ open_ ∨ s.link.downSince pkg = none → exec (.pathDownTimeout pkg) s = .next s) ∧
     ∀ since, open_ → s.link.downSince pkg = some since →
       (s.time < since + 10000000 → exec (.pathDownTimeout pkg) s = .next s) ∧
       (since + 10000000 ≤ s.time → ∃ t, exec (.pathDownTimeout pkg) s = .next t ∧ t.link.unreachable = s.link.unreachable ++ [pkg] ∧ t.fibres = s.fibres)) ∧
  (∀ (s : State) (src path : Nat),
     (s.fabricOpen src = false →
       (∀ m : Marker, m.sender = src → exec (.flushMarker m) s = .next s) ∧ (∀ epoch, exec (.flushAck src epoch) s = .next s) ∧
       ∀ r, exec (.remoteAccessRequest src path r) s = .next s) ∧
     (s.fabricOpen src = true → (∀ (tier : Bool) (off : Nat),
       let pa := localKey tier off
       let fits (n : Nat) : Prop := off + n ≤ 2 * Config.tierBytes tier ∧ (n = 0 ∨ s.served tier off = true ∧ s.served tier (off + n - 1) = true)
       let does (r : RemoteRequest) (t : State) : Prop := exec (.remoteAccessRequest src path r) s = .next t
       let updated (r : RemoteRequest) (n : Nat) (answered : Bool) (k : List Byte → List Byte) : Prop :=
         (¬ (fits n ∧ off % n = 0) → does r s) ∧
         (fits n → off % n = 0 → (answered = true → does r ((s.replyTo src path pa n).updateHome pa n 0 k)) ∧
           (answered = false → does r ((s.updateHome pa n 0 k).performed src path)))
       (∀ n, (¬ fits n → does (.load tier off n) s) ∧ (fits n → does (.load tier off n) (s.replyTo src path pa n))) ∧
       (∀ data, (¬ fits data.length → does (.store tier off data) s) ∧
         (fits data.length → ∃ t, does (.store tier off data) t ∧
           (∀ i < data.length, t.home.mem.read (pa + i) = data.getD i 0) ∧
           (∀ b, b < pa ∨ pa + data.length ≤ b → t.home.mem.read b = s.home.mem.read b) ∧ t.fibres = s.fibres ∧
           (s.link.markers = [] → t.link.performedOn src path = s.link.performedOn src path + 1))) ∧
       (∀ op t mode sat v w answered, updated (.atom tier off op t mode sat v w answered) (AtomKind.op op t mode sat v w).size answered
         (AtomKind.op op t mode sat v w).newBytes) ∧
       (∀ compared new, let r : RemoteRequest := .wide tier off compared new
         let met := ∀ c, compared = some c → s.home.mem.readBytes pa 16 = pairBytes c
         (¬ (fits 16 ∧ off % 16 = 0) → does r s) ∧
         (fits 16 → off % 16 = 0 → (∀ w, new = some w → met → does r ((s.replyTo src path pa 16).updateHome pa 16 0 fun _ => pairBytes w)) ∧
           (new = none ∨ ¬ met → does r (s.replyTo src path pa 16)))) ∧
       (∀ target, updated (.syncInit tier off target) 32 false (initSyncWord target)) ∧
       ∀ n : BitVec 64, (¬ (fits 32 ∧ off % 32 = 0) → does (.syncAdd tier off n) s) ∧
         (fits 32 → off % 32 = 0 → does (.syncAdd tier off n) ((s.addAtHome pa 0 n.toNat []).performed src path))) ∧
       (∀ m : Marker, m.sender = src → (∀ n ∈ s.link.markers, n.sender ≠ src) → ∃ t, exec (.flushMarker m) s = .next t ∧ t.home = s.home ∧
         let next := m.epoch % 2 ^ 32 = nextEpoch (s.link.ackedTo src)
         let done := m.count ≤ s.link.performedOn src m.path
         (next → m.paths ≤ 1 → done → t.link.acks = s.link.acks ++ [(src, ackBytes s.node (m.epoch % 2 ^ 32))] ∧ t.link.markers = s.link.markers ∧
           t.link.ackedTo src = m.epoch % 2 ^ 32) ∧
         (¬ next ∨ 2 ≤ m.paths ∨ ¬ done → t.link.acks = s.link.acks ∧ t.link.markers = s.link.markers ++ [m])) ∧
       ∀ epoch, ∃ t, exec (.flushAck src epoch) s = .next t ∧ t.home = s.home ∧ t.fibres = s.fibres ∧
         t.link.waiting = s.link.waiting.filter (fun w : Nat × Nat => !(w.1 = src && notLater w.2 epoch)) ∧
         t.link.outgoing = s.link.outgoing.filter (fun m : SentMarker => !(m.dest = src && notLater m.epoch epoch)) ∧
         t.link.inFlight = s.link.inFlight.filter (fun w : InFlight => !(remoteNode w.pa = some src && notLater w.epoch epoch))))

/-- R435-R440, R445: `mark.open` traps where its descriptor is misaligned, cannot be read or breaks a limit, and leaves the waymark that its fibre holds;
else it closes that one and opens another, with the ring that the descriptor gives. `mark.close` closes it. A waymark that is closed retires when no
command that it stamped is left. `mark.trace` puts a marker record into the sessions that trace its fibre's group fully, and changes nothing else. The
record of a tile that has retired is written, its launch once resolved, and nothing else is: the addition to `next` claims an index, and bytes 0-59
and then seq go to its slot of the ring, whatever the attributes of the pages (assumption 77); where the ring is not mapped nothing is written, and a
kind-13 event says so. A core writes one sample in a period, and none in a session that takes none. R446-R449: a WRITE of a message puts it into its
slot, and it is accepted when its byte 63 changes. The commands of a slot are answered in order (assumption 76): one with a byte set that its code
leaves zero, or of no code, is refused; one whose group is gone is answered 3, as a stop under way whose group has gone, and one that came while an
earlier one for its group was incomplete 2. A stop halts a Running group at once between passes, else it stays with its group; once it is complete,
its dump is written and the command answered. Resume returns a Stopped group to Running, where it retires if it has no member left; the step codes set
its mode, and a dump of a Stopped group is written. While the port is closed no command is served. R292, R451, R452, R454-R457: package reset leaves
the package as at power-on, but for what lies outside it and its stored firmware (assumption 70). The steps of boot end in turn: 0 with the host link,
1 and 2 with every image verified by both signatures, 5 and 7 with a Causeway module, 6 with every core tested; die 0 is in service after step 3 and
both dies after step 7, and a change of the capability list raises its event. A step that fails ends boot. At the junction limit a die's clock falls
by 100 MHz down to 1.2 GHz, and then every context is aborted and the package holds reset. After an error the unit where it lies is tested, and the
errors of one that passes are counted as transient; an uncorrectable one marks its bytes, its accumulator, its record, its L1 or sampler line, aborts
the context whose state it lies in, or resets the package; a load that could not meet it when it issued has read before it (assumption 32). A core
under test is cleared first. A unit that fails its test is fenced. A self-test of a quadrant of the matrix engine, between commands and at most once
in 65,536 cycles, fences and reports every sub-array that fails. -/
def Obligations.Watching_and_platform : Prop :=
  ((∀ (s : State) (f : Nat) (x : Fibre), s.Issues f x → ∀ (a b : Src),
     let va := s.operand x b
     let closed (m : Waymark) : Waymark := { m with closed := true, retired := if m.pending = 0 ∧ m.retired = none then some s.time else m.retired }
     (va.toNat % 32 ≠ 0 → exec (.markOpen a b) s = .next (s.trapped f x .align va 0)) ∧
     (va.toNat % 32 = 0 → ∀ e, fibreReader f x s va.toNat 32 = .error e → exec (.markOpen a b) s = .next (s.trapped f x e.1 e.2 0)) ∧
     (∀ bs t, va.toNat % 32 = 0 → fibreReader f x s va.toNat 32 = .ok (bs, t) →
       (waymarkRing bs = none → exec (.markOpen a b) s = .next (s.trapped f x .access va 0)) ∧
       ∀ base n, waymarkRing bs = some (base, n) → ∃ u k m, exec (.markOpen a b) s = .next (s.settle f x (.done u)) ∧ (u.fibres.get? f).map (·.mark) = some (some k) ∧
         u.marks.get? k = some m ∧ m.context = x.context ∧ m.fibre = f ∧ m.ring = va ∧ m.base = base ∧ m.records = n ∧ m.tile = (s.operand x a).setWidth 32 ∧
         m.launch = s.identity x.launch ∧ m.group = s.linearOf f ∧ m.fid = x.fid ∧ m.core = x.core ∧ m.closed = false ∧ m.retired = none ∧
         m.pending = 0 ∧ m.opened = s.time ∧ (x.speculative = false → m.speculative = none) ∧ (x.speculative = true → m.speculative.isSome = true) ∧
         (∀ k0 old, x.mark = some k0 → k0 ≠ k → s.marks.get? k0 = some old → u.marks.get? k0 = some (closed old)) ∧
         ∀ j, j ≠ k → x.mark ≠ some j → u.marks.get? j = s.marks.get? j) ∧
     (x.mark = none → exec .markClose s = .next (s.settle f x (.done s))) ∧
     (∀ k, x.mark = some k →
       let u : State := { s with fibres := s.fibres.put f { x with mark := none } }
       (s.marks.get? k = none → exec .markClose s = .next (s.settle f x (.done u))) ∧
       ∀ m, s.marks.get? k = some m → exec .markClose s = .next (s.settle f x (.done { u with marks := s.marks.put k (closed m) }))) ∧
     ∃ u, exec (.markTrace a) s = .next (s.settle f x (.done u)) ∧ u = { s with queues := u.queues } ∧
       ∀ q k, s.queues.get? q = some k → u.queues.get? q = some (match k.trace, x.group with
         | some t, some g =>
           if s.tracesFully x.core g t then { k with trace := some { t with held := t.held ++ [traceRecord 4 x.core x.fid s.time (s.operand x a).toNat] } } else k
         | _, _ => k)) ∧
   (∀ (s : State) (k : Nat) (m : Waymark), s.marks.get? k = some m →
     let die := dieOf m.core
     let next := m.ring.toNat + 16
     (m.retired = none ∨ m.speculative ≠ none → exec (.waymarkRetire k) s = .next s) ∧
     (m.retired ≠ none → m.speculative = none →
       (s.deviceLocate die m.context next = none → exec (.waymarkRetire k) s = .next { s.contextEvent m.context
           { kind := 13, status := FaultCode.translation.code, low := BitVec.ofNat 32 m.launch, high := BitVec.ofNat 32 m.group, word := BitVec.ofNat 64 s.time } with
         marks := s.marks.del k }) ∧
       ∀ pa leaf t, s.deviceLocate die m.context next = some (pa, leaf, t) →
         let e := natOfBytes ((t.home.read pa 8 (leafComp leaf)).getD (List.replicate 8 0))
         let at_ := m.base.toNat + 64 * (e % m.records)
         let u := t.updateHome pa 8 (leafComp leaf) fun old => bytesOfNat 8 (natOfBytes old + 1)
         let w := (u.deviceWriteRange die m.context at_ m.body).deviceWriteRange die m.context (at_ + 60) (bytesOfNat 4 (e + 1))
         (w.deviceLocate die m.context at_ = none → exec (.waymarkRetire k) s = .next { w with marks := s.marks.del k }) ∧
         ∀ slot l v, w.deviceLocate die m.context at_ = some (slot, l, v) → exec (.waymarkRetire k) s = .next { v.dropSampled slot with marks := s.marks.del k })) ∧
   (∀ m : Waymark,
     let b := m.body
     let word (i : Nat) := fieldOf b i 4
     let since (i : Nat) (t : Option Nat) : Prop := (t = none → word i = 2 ^ 32 - 1) ∧ ∀ n, t = some n → word i = Nat.min (n - m.opened) (2 ^ 32 - 2)
     b.length = 60 ∧ word 0 = m.tile.toNat ∧ (m.launch < 2 ^ 32 → word 4 = m.launch) ∧ (m.group < 2 ^ 31 → word 8 = m.group) ∧
     (m.fid < 2 ^ 16 → fieldOf b 12 2 = m.fid) ∧ (m.core < 2 ^ 16 → fieldOf b 14 2 = m.core) ∧ (m.opened < 2 ^ 64 → fieldOf b 16 8 = m.opened) ∧
     since 24 m.cinDone ∧ since 28 m.mxIssue ∧ since 32 m.mxStart ∧ since 36 m.mxDone ∧ since 40 m.coutIssue ∧ since 44 m.coutDone ∧ since 48 m.retired ∧
     fieldOf b 52 1 = Nat.min m.cin 255 ∧ fieldOf b 53 1 = Nat.min m.mx 255 ∧ fieldOf b 54 1 = Nat.min m.cout 255 ∧ fieldOf b 55 1 = Nat.min m.susp 255 ∧
     ((fieldOf b 56 1).testBit 0 = m.discarded) ∧ ((fieldOf b 56 1).testBit 1 = m.faulted) ∧ ((fieldOf b 56 1).testBit 3 = m.preempted) ∧
     ((fieldOf b 56 1).testBit 2 = decide (255 < m.cin ∨ 255 < m.mx ∨ 255 < m.cout ∨ 255 < m.susp)) ∧ fieldOf b 57 3 = 0) ∧
   ∀ (s : State) (q core : Nat) (k : Queue) (t : TraceSession), s.queues.get? q = some k → k.trace = some t →
     let period := (s.core core).clock / t.period
     let last := t.sampled.get? core
     let turn := (last.map Prod.snd).getD 0
     let due := t.samples = true ∧ t.period ≠ 0 ∧ ∀ l, last = some l → l.1 < period
     (¬ due ∨ s.sampled t core turn = none → exec (.traceSample q core) s = .next s) ∧
     ∀ x, due → s.sampled t core turn = some x →
       exec (.traceSample q core) s = .next (s.updQueue q fun k => { k with trace := some { t with
         held := t.held ++ [traceRecord 3 core x.fid s.time (x.pc.toNat + 2 ^ 52 * sampleState x)], sampled := t.sampled.put core (period, turn + 1) } })) ∧
  ((∀ (s : State) (slot : Nat) (bs : List Byte), bs.length = 64 →
     let t := s.debugWrite slot bs
     let accepts := s.debugWindow.bytes.read (64 * slot + 63) ≠ bs.getD 63 0
     (∀ i < 64, t.debugWindow.bytes.read (64 * slot + i) = bs.getD i 0) ∧
     (∀ a, a < 64 * slot ∨ 64 * slot + 64 ≤ a → t.debugWindow.bytes.read a = s.debugWindow.bytes.read a) ∧
     (¬ accepts → t.debugWindow.accepted = s.debugWindow.accepted) ∧
     (accepts → ∃ e : DebugEntry, t.debugWindow.accepted = s.debugWindow.accepted ++ [e] ∧ e.slot = slot ∧ e.message = bs ∧ e.taken = false ∧
       (e.busy = true ↔ s.stopsFor bs = true ∨ ∃ o ∈ s.debugWindow.accepted, sameGroup o.message bs = true))) ∧
   (∀ (s : State) (m : List Byte) (status : Nat), s.debugAnswer m status =
     { s with host := s.host.writeBytes (wordFieldOf m 24).toNat (BitVec.ofNat 8 status :: List.replicate 7 0 ++ bytesOfNat 8 s.time) }) ∧
   (∀ (s : State) (slot : Nat),
     let all : List Instr := [.debugStop slot, .debugResume slot, .stepByTrap slot, .stepByStop slot, .stepOff slot, .debugDump slot]
     (s.portOpen = false ∨ s.debugDue slot = none → ∀ i ∈ all, exec i s = .next s) ∧
     ∀ e, s.portOpen = true → s.debugDue slot = some e →
       let m := e.message
       let code := fieldOf m 0 1
       let t := s.dropCommand e
       let of_ (i : Instr) (p : Nat → Prop) (k : Nat → Group → State → Prop) : Prop :=
         (¬ p code → exec i s = .next s) ∧
         (p code → e.taken = true → exec i s = .next (t.debugAnswer m 3)) ∧
         (p code → e.taken = false → debugCommandOk m = false → exec i s = .next (t.debugAnswer m 1)) ∧
         (p code → e.taken = false → debugCommandOk m = true →
           (∀ status, s.debugGroup m = .error status → exec i s = .next (t.debugAnswer m status)) ∧
           ∀ g q, s.debugGroup m = .ok (g, q) →
             (e.busy = true → exec i s = .next (t.debugAnswer m 2)) ∧
             (e.busy = false → ∃ u, exec i s = .next u ∧ k g q u))
       let stepped (mode : StepMode) (g : Nat) (_ : Group) (u : State) : Prop := u = (t.updGroup g fun k => { k with dbg := { k.dbg with mode := mode } }).debugAnswer m 0
       of_ (.debugStop slot) (fun n => n = 0 ∨ n = 1 ∨ 6 < n) (fun g q u =>
         let cause := match q.dbg.stopping with
           | some (c, _) => c
           | none => if q.state = .stopped then q.dbg.cause else 1
         let v : State := { t with debugWindow := { t.debugWindow with accepted := { e with taken := true } :: t.debugWindow.accepted } }
         let w := v.updGroup g fun k => { k with dbg := { k.dbg with stopping := some (cause, some (wordFieldOf m 24)), dumpAt := wordFieldOf m 16 } }
         (q.state = .running → s.inPass g = false → u = w.haltGroup g) ∧ (q.state ≠ .running ∨ s.inPass g = true → u = w)) ∧
       of_ (.stepByTrap slot) (· = 3) (stepped .trap) ∧ of_ (.stepByStop slot) (· = 4) (stepped .stop) ∧ of_ (.stepOff slot) (· = 5) (stepped .off) ∧
       of_ (.debugDump slot) (· = 6) (fun g q u =>
         (q.state = .stopped → u = (t.writeGroupDump g (wordFieldOf m 16)).debugAnswer m 0) ∧ (q.state ≠ .stopped → u = t.debugAnswer m 1)) ∧
       of_ (.debugResume slot) (· = 2) (fun g q u =>
         (q.state ≠ .stopped → u = t.debugAnswer m 1) ∧
         (q.state = .stopped → ∃ (v : State) (r : Group), u = (v.retireGroup g).debugAnswer m 0 ∧ v.groups.get? g = some r ∧ r.state = .running ∧ r.dbg.stopping = none ∧ r.dbg.mode = q.dbg.mode ∧
           (s.members g ≠ [] → v.retireGroup g = v) ∧
           ∀ f x, s.fibres.get? f = some x →
             (x.group = some g → v.fibres.get? f = some { x with life := x.life.resumed }) ∧ (x.group ≠ some g → v.fibres.get? f = some x)))) ∧
   ∀ (s : State) (g : Nat) (k : Group), s.groups.get? g = some k →
     (k.state ≠ .stopped ∨ k.dbg.stopping = none → exec (.stopComplete g) s = .next s) ∧
     ∀ cause, k.state = .stopped →
       let u := s.setGroup g { k with dbg := { k.dbg with stopping := none, cause := cause } }
       let waits (e : DebugEntry) : Prop := e.taken = true ∧ ∃ q, s.debugGroup e.message = .ok (g, q)
       (k.dbg.stopping = some (cause, none) → exec (.stopComplete g) s = .next u) ∧
       ∀ addr, k.dbg.stopping = some (cause, some addr) → ∃ es,
         exec (.stopComplete g) s = .next ((({ u with debugWindow := { u.debugWindow with accepted := es } } : State).writeGroupDump g k.dbg.dumpAt).debugReply addr 0) ∧
         es.Sublist s.debugWindow.accepted ∧ ∀ e ∈ s.debugWindow.accepted, (e ∈ es ↔ ¬ waits e)) ∧
  (∀ s : State,
     (∃ t, exec .packageReset s = .next t ∧ t.host = s.host ∧ t.rdma = s.rdma ∧ t.hostEvents = s.hostEvents ∧ t.schedule = s.schedule ∧ t.platform.images = s.platform.images ∧
       t.platform = { State.reset.platform with images := s.platform.images } ∧
       ({ t with host := [], rdma := [], hostEvents := [], schedule := [], freeCount := 0, platform := {} } : State) =
         { State.reset with host := [], rdma := [], hostEvents := [], schedule := [], freeCount := 0, platform := {} }) ∧
     (8 ≤ s.platform.step ∨ s.platform.failed = true → ∀ ok, exec (.bootStepComplete ok) s = .next s) ∧
     (s.platform.step < 8 → s.platform.failed = false →
       let verified (i : Fin 8) := s.platform.images[i].rsa = .verifying ∧ s.platform.images[i].slh = .verifying
       let accepted := (s.platform.step = 1 → verified 0) ∧ (s.platform.step = 2 → ∀ i : Fin 8, i.val ≠ 0 → verified i)
       let carried := (s.platform.step = 0 → s.link.host.carries = true) ∧
         (s.platform.step = 5 ∨ s.platform.step = 7 → ∃ i : Fin 16, s.link.modules[i].carries = true) ∧
         (s.platform.step = 6 → ∀ c, TestUnit.core c ∉ s.platform.testing)
       (accepted → carried → ∃ t, exec (.bootStepComplete true) s = .next t ∧ t.platform.step = s.platform.step + 1 ∧ t.platform.failed = false ∧
         t.diesUp = (if s.platform.step = 3 then [0] else if s.platform.step = 7 then [0, 1] else s.diesUp) ∧
         (s.platform.step = 3 ∨ s.platform.step = 7 → t.hostEvents = s.hostEvents ++ [.capability]) ∧
         (s.platform.step = 7 → ∀ d : Fin 2, t.platform.clock[d] = 3600) ∧
         (s.platform.step = 5 → ∀ c < 192, TestUnit.core c ∉ s.fences → TestUnit.core c ∈ t.platform.testing)) ∧
       (accepted → ¬ carried → exec (.bootStepComplete true) s = .next s) ∧
       ∃ t, exec (.bootStepComplete false) s = .next t ∧ (¬ accepted → exec (.bootStepComplete true) s = .next t) ∧ t.platform.failed = true ∧
         t.platform.step = s.platform.step ∧ t.diesUp = s.diesUp ∧
         (s.platform.step = 0 → t.link.host = .down ∧ t.hostEvents = s.hostEvents) ∧
         (s.platform.step ≠ 0 → t.link.host = s.link.host ∧ t.hostEvents = s.hostEvents ++ [.capability])) ∧
     (∀ die : Fin 2, die.val ∉ s.diesUp → exec (.junctionLimit die.val) s = .next s) ∧
     (∀ die : Fin 2, die.val ∈ s.diesUp → 1200 < s.platform.clock[die] → ∃ t, exec (.junctionLimit die.val) s = .next t ∧
       t.platform.clock[die] = Nat.max 1200 (s.platform.clock[die] - 100) ∧ t.hostEvents = s.hostEvents ++ [.capability] ∧ t.fibres = s.fibres ∧ t.home = s.home) ∧
     (∀ die : Fin 2, die.val ∈ s.diesUp → s.platform.clock[die] ≤ 1200 → ∃ t, exec (.junctionLimit die.val) s = .next t ∧ t.platform.holding = true ∧
       t.platform.clock = s.platform.clock ∧
       ∀ c k, s.contexts.get? c = some k → ∃ q, t.contexts.get? c = some q ∧ q.desc = k.desc ∧
         (k.state = .running ∨ k.state = .saving ∨ k.state = .saved → q.state = .dumping) ∧ (k.state = .loaded ∨ k.state = .dumping → q.state = k.state)) ∧
     (∀ site, exec (.eccError site false) s = .next (s.errorIn site) ∧
       (s.readBefore site = none → exec (.eccError site true) s = .next s) ∧
       (∀ t, s.readBefore site = some t → exec (.eccError site true) s = .next ((t.errorIn site).uncorrectable site)) ∧
       ((∀ e ∈ s.fibres, e.2.pend = []) → s.readBefore site = some s) ∧
       (s.siteUnit site = none → s.errorIn site = s) ∧
       ∀ u, s.siteUnit site = some u → s.errorIn site =
         { s with platform := { s.platform with testing := (s.startTest u).platform.testing, errors := s.platform.errors ++ [u] } } ∧
         u ∈ (s.errorIn site).platform.testing ∧ ∀ v ∈ s.platform.testing, v ∈ (s.errorIn site).platform.testing) ∧
     (∀ tier off c, let bad := distinct (s.home.bad ++ [localKey tier off])
       s.uncorrectable (.memory tier off) = { s with home := { s.home with bad := bad } } ∧ s.uncorrectable (.l2 c tier off) = { s with home := { s.home with bad := bad } } ∧
       s.uncorrectable (.mode tier off) = { s with home := { s.home with badModes := distinct (s.home.badModes ++ [localKey tier off / 256]) } }) ∧
     (∀ core pa b, (s.core core).dirty.get? pa = some b → ((s.uncorrectable (.l1 core pa)).core core).dirty.get? pa = some { b with bad := true }) ∧
     (∀ core pa, ((s.uncorrectable (.l1 core pa)).core core).clean = (s.core core).clean.map (·.spoil pa) ∧
       ((s.uncorrectable (.sampler core pa)).core core).sampler = (s.core core).sampler.map (·.spoil pa)) ∧
     (∀ c k die i, s.contexts.get? c = some k →
       s.uncorrectable (.record c die i) = s.setContext c { k with badRecords := distinct (k.badRecords ++ [(die, i)]) }) ∧
     (∀ l k g pa, s.launches.get? l = some k →
       s.uncorrectable (.speculative l g pa) = s.setLaunch l { k with spec := k.spec.map fun b => if b.group = g && b.pa = pa then { b with bad := true } else b }) ∧
     (∀ f x n, s.fibres.get? f = some x →
       (x.resident = true → n < x.stackSize → s.uncorrectable (.stack f n) = s.setFibre f { x with badStack := distinct (x.badStack ++ [n]) }) ∧
       (x.resident = false ∨ x.stackSize ≤ n → s.uncorrectable (.stack f n) = s)) ∧
     (∀ g k n, s.groups.get? g = some k →
       s.uncorrectable (.slice g n) = s.setGroup g { k with badBytes := distinct (k.badBytes ++ [n]) } ∧
       s.uncorrectable (.accumulator g n) = s.setGroup g { k with badAccumulators := distinct (k.badAccumulators ++ [n]) } ∧
       s.uncorrectable (.accumulators g) = s.abortAny k.context ∧ s.uncorrectable (.bank g) = s.abortAny k.context) ∧
     (∀ f x, s.anyFibre f = some x → s.uncorrectable (.registers f) = s.abortAny x.context) ∧
     (∀ f r, s.frames.get? f = some r → s.uncorrectable (.frame f) = s.abortAny r.context) ∧
     s.uncorrectable .tollhouse = s.packageReset ∧
     (∀ u pass, u ∉ s.platform.testing → exec (.targetedSelfTestDone u pass) s = .next s) ∧
     (∀ u, u ∈ s.platform.testing →
       let tested (t : State) (n : Nat) : State := { t with platform := { t.platform with
         testing := t.platform.testing.filter (· != u), errors := t.platform.errors.filter (· != u), transient := t.platform.transient + n } }
       let ends (t : State) : Prop := exec (.targetedSelfTestDone u true) s = .next (tested t (t.platform.errors.count u)) ∧
         exec (.targetedSelfTestDone u false) s = .next ((tested t 0).fence u) ∧ u ∈ ((tested t 0).fence u).fences
       ((∀ c, u ≠ .core c) → ends s) ∧
       ∀ c, u = .core c →
         (s.coreBusy c = true → ∀ pass, exec (.targetedSelfTestDone u pass) s = .next (if s.coreDrained c then s.clearCore c else s)) ∧
         (s.coreBusy c = false →
           let w := s.writeBack c fun _ _ => true
           ends (w.setCore c { w.core c with boundary := 1, clean := [], sampler := [], tlb := [] }))) ∧
     ∀ (core : Nat) (q : Fin 4) (failing : List Nat),
       let k := s.core core
       let recent := ∃ t, k.tested[q] = some t ∧ k.clock < t + 65536
       let reports (t : State) : List HostEvent := t.hostEvents.filter fun e => match e with
         | .selfTestFailed _ _ _ _ => true
         | _ => false
       (recent ∨ s.betweenCommands core = false → exec (.matrixSelfTest core q.val failing) s = .next s) ∧
       (∀ n, 4 ≤ n → exec (.matrixSelfTest core n failing) s = .next s) ∧
       (¬ recent → s.betweenCommands core = true → ∃ v, exec (.matrixSelfTest core q.val failing) s = .next v ∧
         v.core core = { k with tested := k.tested.set q.val (some k.clock), selfTests := if failing = [] then k.selfTests.set q.val k.clock else k.selfTests } ∧
         (∀ c r i, TestUnit.subArray c r i ∈ v.fences ↔ TestUnit.subArray c r i ∈ s.fences ∨ (c = core ∧ r = q.val ∧ i ∈ failing)) ∧
         reports v = reports s ++ (distinct failing).map (fun i => HostEvent.selfTestFailed core q.val i k.selfTests[q]) ∧
         (failing = [] → v.hostEvents = s.hostEvents ∧ v.platform = s.platform) ∧
         v.home = s.home ∧ v.fibres = s.fibres ∧ v.groups = s.groups ∧ v.frames = s.frames))
end

