-- ==== Sys2Proof/Laws/Encoding.lean ====
section
/-! SUPPORT. Formats and codes: what is read from a word written by its format, and from a code written by its table. -/

namespace Sys2Proof

@[simp] theorem opcodeOf_s (op : BitVec 6) (f : FormatS) : opcodeOf (FormatWord.s op f) = op := by
  apply BitVec.eq_of_getLsbD_eq
  intro i hi
  simp only [opcodeOf, FormatWord.s, BitVec.getLsbD_extractLsb', BitVec.getLsbD_append, hi, decide_true, Bool.true_and]
  repeat' split
  all_goals first
    | omega
    | (congr 1; omega)

theorem FormatS.eta (f : FormatS) : (⟨f.dst, f.a, f.b, f.fn, f.ty⟩ : FormatS) = f := rfl

@[simp] theorem FormatS.read_dst (op : BitVec 6) (f : FormatS) : (FormatS.read (FormatWord.s op f)).dst = f.dst := by
  apply BitVec.eq_of_getLsbD_eq
  intro i hi
  simp only [FormatS.read, FormatWord.s, BitVec.getLsbD_extractLsb', BitVec.getLsbD_append, hi, decide_true, Bool.true_and]
  repeat' split
  all_goals first
    | omega
    | (congr 1; omega)

@[simp] theorem FormatS.read_a (op : BitVec 6) (f : FormatS) : (FormatS.read (FormatWord.s op f)).a = f.a := by
  apply BitVec.eq_of_getLsbD_eq
  intro i hi
  simp only [FormatS.read, FormatWord.s, BitVec.getLsbD_extractLsb', BitVec.getLsbD_append, hi, decide_true, Bool.true_and]
  repeat' split
  all_goals first
    | omega
    | (congr 1; omega)

@[simp] theorem FormatS.read_b (op : BitVec 6) (f : FormatS) : (FormatS.read (FormatWord.s op f)).b = f.b := by
  apply BitVec.eq_of_getLsbD_eq
  intro i hi
  simp only [FormatS.read, FormatWord.s, BitVec.getLsbD_extractLsb', BitVec.getLsbD_append, hi, decide_true, Bool.true_and]
  repeat' split
  all_goals first
    | omega
    | (congr 1; omega)

@[simp] theorem FormatS.read_fn (op : BitVec 6) (f : FormatS) : (FormatS.read (FormatWord.s op f)).fn = f.fn := by
  apply BitVec.eq_of_getLsbD_eq
  intro i hi
  simp only [FormatS.read, FormatWord.s, BitVec.getLsbD_extractLsb', BitVec.getLsbD_append, hi, decide_true, Bool.true_and]
  repeat' split
  all_goals first
    | omega
    | (congr 1; omega)

@[simp] theorem FormatS.read_ty (op : BitVec 6) (f : FormatS) : (FormatS.read (FormatWord.s op f)).ty = f.ty := by
  apply BitVec.eq_of_getLsbD_eq
  intro i hi
  simp only [FormatS.read, FormatWord.s, BitVec.getLsbD_extractLsb', BitVec.getLsbD_append, hi, decide_true, Bool.true_and]
  repeat' split
  all_goals first
    | omega
    | (congr 1; omega)

@[simp] theorem FormatS.read_word (op : BitVec 6) (f : FormatS) : FormatS.read (FormatWord.s op f) = f := by
  rw [← FormatS.eta f, ← FormatS.eta (FormatS.read _)]
  simp only [FormatS.read_dst, FormatS.read_a, FormatS.read_b, FormatS.read_fn, FormatS.read_ty]

theorem FormatWord.s_read (w : InsnWord) : FormatWord.s (opcodeOf w) (FormatS.read w) = w := by
  simp only [opcodeOf, FormatWord.s, FormatS.read]
  apply BitVec.eq_of_getLsbD_eq
  intro i hi
  simp only [BitVec.getLsbD_append, BitVec.getLsbD_extractLsb']
  repeat' split
  all_goals first
    | (rw [decide_eq_true (by omega), Bool.true_and]; congr 1; omega)

@[simp] theorem opcodeOf_t (op : BitVec 6) (f : FormatT) : opcodeOf (FormatWord.t op f) = op := by
  apply BitVec.eq_of_getLsbD_eq
  intro i hi
  simp only [opcodeOf, FormatWord.t, BitVec.getLsbD_extractLsb', BitVec.getLsbD_append, hi, decide_true, Bool.true_and]
  repeat' split
  all_goals first
    | omega
    | (congr 1; omega)

theorem FormatT.eta (f : FormatT) : (⟨f.dst, f.a, f.b, f.c, f.ty⟩ : FormatT) = f := rfl

@[simp] theorem FormatT.read_dst (op : BitVec 6) (f : FormatT) : (FormatT.read (FormatWord.t op f)).dst = f.dst := by
  apply BitVec.eq_of_getLsbD_eq
  intro i hi
  simp only [FormatT.read, FormatWord.t, BitVec.getLsbD_extractLsb', BitVec.getLsbD_append, hi, decide_true, Bool.true_and]
  repeat' split
  all_goals first
    | omega
    | (congr 1; omega)

@[simp] theorem FormatT.read_a (op : BitVec 6) (f : FormatT) : (FormatT.read (FormatWord.t op f)).a = f.a := by
  apply BitVec.eq_of_getLsbD_eq
  intro i hi
  simp only [FormatT.read, FormatWord.t, BitVec.getLsbD_extractLsb', BitVec.getLsbD_append, hi, decide_true, Bool.true_and]
  repeat' split
  all_goals first
    | omega
    | (congr 1; omega)

@[simp] theorem FormatT.read_b (op : BitVec 6) (f : FormatT) : (FormatT.read (FormatWord.t op f)).b = f.b := by
  apply BitVec.eq_of_getLsbD_eq
  intro i hi
  simp only [FormatT.read, FormatWord.t, BitVec.getLsbD_extractLsb', BitVec.getLsbD_append, hi, decide_true, Bool.true_and]
  repeat' split
  all_goals first
    | omega
    | (congr 1; omega)

@[simp] theorem FormatT.read_c (op : BitVec 6) (f : FormatT) : (FormatT.read (FormatWord.t op f)).c = f.c := by
  apply BitVec.eq_of_getLsbD_eq
  intro i hi
  simp only [FormatT.read, FormatWord.t, BitVec.getLsbD_extractLsb', BitVec.getLsbD_append, hi, decide_true, Bool.true_and]
  repeat' split
  all_goals first
    | omega
    | (congr 1; omega)

@[simp] theorem FormatT.read_ty (op : BitVec 6) (f : FormatT) : (FormatT.read (FormatWord.t op f)).ty = f.ty := by
  apply BitVec.eq_of_getLsbD_eq
  intro i hi
  simp only [FormatT.read, FormatWord.t, BitVec.getLsbD_extractLsb', BitVec.getLsbD_append, hi, decide_true, Bool.true_and]
  repeat' split
  all_goals first
    | omega
    | (congr 1; omega)

@[simp] theorem FormatT.read_word (op : BitVec 6) (f : FormatT) : FormatT.read (FormatWord.t op f) = f := by
  rw [← FormatT.eta f, ← FormatT.eta (FormatT.read _)]
  simp only [FormatT.read_dst, FormatT.read_a, FormatT.read_b, FormatT.read_c, FormatT.read_ty]

theorem FormatWord.t_read (w : InsnWord) : FormatWord.t (opcodeOf w) (FormatT.read w) = w := by
  simp only [opcodeOf, FormatWord.t, FormatT.read]
  apply BitVec.eq_of_getLsbD_eq
  intro i hi
  simp only [BitVec.getLsbD_append, BitVec.getLsbD_extractLsb']
  repeat' split
  all_goals first
    | (rw [decide_eq_true (by omega), Bool.true_and]; congr 1; omega)

@[simp] theorem opcodeOf_i (op : BitVec 6) (f : FormatI) : opcodeOf (FormatWord.i op f) = op := by
  apply BitVec.eq_of_getLsbD_eq
  intro i hi
  simp only [opcodeOf, FormatWord.i, BitVec.getLsbD_extractLsb', BitVec.getLsbD_append, hi, decide_true, Bool.true_and]
  repeat' split
  all_goals first
    | omega
    | (congr 1; omega)

theorem FormatI.eta (f : FormatI) : (⟨f.dst, f.a, f.imm⟩ : FormatI) = f := rfl

@[simp] theorem FormatI.read_dst (op : BitVec 6) (f : FormatI) : (FormatI.read (FormatWord.i op f)).dst = f.dst := by
  apply BitVec.eq_of_getLsbD_eq
  intro i hi
  simp only [FormatI.read, FormatWord.i, BitVec.getLsbD_extractLsb', BitVec.getLsbD_append, hi, decide_true, Bool.true_and]
  repeat' split
  all_goals first
    | omega
    | (congr 1; omega)

@[simp] theorem FormatI.read_a (op : BitVec 6) (f : FormatI) : (FormatI.read (FormatWord.i op f)).a = f.a := by
  apply BitVec.eq_of_getLsbD_eq
  intro i hi
  simp only [FormatI.read, FormatWord.i, BitVec.getLsbD_extractLsb', BitVec.getLsbD_append, hi, decide_true, Bool.true_and]
  repeat' split
  all_goals first
    | omega
    | (congr 1; omega)

@[simp] theorem FormatI.read_imm (op : BitVec 6) (f : FormatI) : (FormatI.read (FormatWord.i op f)).imm = f.imm := by
  apply BitVec.eq_of_getLsbD_eq
  intro i hi
  simp only [FormatI.read, FormatWord.i, BitVec.getLsbD_extractLsb', BitVec.getLsbD_append, hi, decide_true, Bool.true_and]
  repeat' split
  all_goals first
    | omega
    | (congr 1; omega)

@[simp] theorem FormatI.read_word (op : BitVec 6) (f : FormatI) : FormatI.read (FormatWord.i op f) = f := by
  rw [← FormatI.eta f, ← FormatI.eta (FormatI.read _)]
  simp only [FormatI.read_dst, FormatI.read_a, FormatI.read_imm]

theorem FormatWord.i_read (w : InsnWord) : FormatWord.i (opcodeOf w) (FormatI.read w) = w := by
  simp only [opcodeOf, FormatWord.i, FormatI.read]
  apply BitVec.eq_of_getLsbD_eq
  intro i hi
  simp only [BitVec.getLsbD_append, BitVec.getLsbD_extractLsb']
  repeat' split
  all_goals first
    | (rw [decide_eq_true (by omega), Bool.true_and]; congr 1; omega)

@[simp] theorem opcodeOf_b (op : BitVec 6) (f : FormatB) : opcodeOf (FormatWord.b op f) = op := by
  apply BitVec.eq_of_getLsbD_eq
  intro i hi
  simp only [opcodeOf, FormatWord.b, BitVec.getLsbD_extractLsb', BitVec.getLsbD_append, hi, decide_true, Bool.true_and]
  repeat' split
  all_goals first
    | omega
    | (congr 1; omega)

theorem FormatB.eta (f : FormatB) : (⟨f.sense, f.pred, f.off⟩ : FormatB) = f := rfl

@[simp] theorem FormatB.read_sense (op : BitVec 6) (f : FormatB) : (FormatB.read (FormatWord.b op f)).sense = f.sense := by
  apply BitVec.eq_of_getLsbD_eq
  intro i hi
  simp only [FormatB.read, FormatWord.b, BitVec.getLsbD_extractLsb', BitVec.getLsbD_append, hi, decide_true, Bool.true_and]
  repeat' split
  all_goals first
    | omega
    | (congr 1; omega)

@[simp] theorem FormatB.read_pred (op : BitVec 6) (f : FormatB) : (FormatB.read (FormatWord.b op f)).pred = f.pred := by
  apply BitVec.eq_of_getLsbD_eq
  intro i hi
  simp only [FormatB.read, FormatWord.b, BitVec.getLsbD_extractLsb', BitVec.getLsbD_append, hi, decide_true, Bool.true_and]
  repeat' split
  all_goals first
    | omega
    | (congr 1; omega)

@[simp] theorem FormatB.read_off (op : BitVec 6) (f : FormatB) : (FormatB.read (FormatWord.b op f)).off = f.off := by
  apply BitVec.eq_of_getLsbD_eq
  intro i hi
  simp only [FormatB.read, FormatWord.b, BitVec.getLsbD_extractLsb', BitVec.getLsbD_append, hi, decide_true, Bool.true_and]
  repeat' split
  all_goals first
    | omega
    | (congr 1; omega)

@[simp] theorem FormatB.read_word (op : BitVec 6) (f : FormatB) : FormatB.read (FormatWord.b op f) = f := by
  rw [← FormatB.eta f, ← FormatB.eta (FormatB.read _)]
  simp only [FormatB.read_sense, FormatB.read_pred, FormatB.read_off]

theorem FormatWord.b_read (w : InsnWord) : FormatWord.b (opcodeOf w) (FormatB.read w) = w := by
  simp only [opcodeOf, FormatWord.b, FormatB.read]
  apply BitVec.eq_of_getLsbD_eq
  intro i hi
  simp only [BitVec.getLsbD_append, BitVec.getLsbD_extractLsb']
  repeat' split
  all_goals first
    | (rw [decide_eq_true (by omega), Bool.true_and]; congr 1; omega)

@[simp] theorem opcodeOf_v (op : BitVec 6) (f : FormatV) : opcodeOf (FormatWord.v op f) = op := by
  apply BitVec.eq_of_getLsbD_eq
  intro i hi
  simp only [opcodeOf, FormatWord.v, BitVec.getLsbD_extractLsb', BitVec.getLsbD_append, hi, decide_true, Bool.true_and]
  repeat' split
  all_goals first
    | omega
    | (congr 1; omega)

theorem FormatV.eta (f : FormatV) : (⟨f.vd, f.va, f.vb, f.mask, f.fn, f.ty, f.c, f.res⟩ : FormatV) = f := rfl

@[simp] theorem FormatV.read_vd (op : BitVec 6) (f : FormatV) : (FormatV.read (FormatWord.v op f)).vd = f.vd := by
  apply BitVec.eq_of_getLsbD_eq
  intro i hi
  simp only [FormatV.read, FormatWord.v, BitVec.getLsbD_extractLsb', BitVec.getLsbD_append, hi, decide_true, Bool.true_and]
  repeat' split
  all_goals first
    | omega
    | (congr 1; omega)

@[simp] theorem FormatV.read_va (op : BitVec 6) (f : FormatV) : (FormatV.read (FormatWord.v op f)).va = f.va := by
  apply BitVec.eq_of_getLsbD_eq
  intro i hi
  simp only [FormatV.read, FormatWord.v, BitVec.getLsbD_extractLsb', BitVec.getLsbD_append, hi, decide_true, Bool.true_and]
  repeat' split
  all_goals first
    | omega
    | (congr 1; omega)

@[simp] theorem FormatV.read_vb (op : BitVec 6) (f : FormatV) : (FormatV.read (FormatWord.v op f)).vb = f.vb := by
  apply BitVec.eq_of_getLsbD_eq
  intro i hi
  simp only [FormatV.read, FormatWord.v, BitVec.getLsbD_extractLsb', BitVec.getLsbD_append, hi, decide_true, Bool.true_and]
  repeat' split
  all_goals first
    | omega
    | (congr 1; omega)

@[simp] theorem FormatV.read_mask (op : BitVec 6) (f : FormatV) : (FormatV.read (FormatWord.v op f)).mask = f.mask := by
  apply BitVec.eq_of_getLsbD_eq
  intro i hi
  simp only [FormatV.read, FormatWord.v, BitVec.getLsbD_extractLsb', BitVec.getLsbD_append, hi, decide_true, Bool.true_and]
  repeat' split
  all_goals first
    | omega
    | (congr 1; omega)

@[simp] theorem FormatV.read_fn (op : BitVec 6) (f : FormatV) : (FormatV.read (FormatWord.v op f)).fn = f.fn := by
  apply BitVec.eq_of_getLsbD_eq
  intro i hi
  simp only [FormatV.read, FormatWord.v, BitVec.getLsbD_extractLsb', BitVec.getLsbD_append, hi, decide_true, Bool.true_and]
  repeat' split
  all_goals first
    | omega
    | (congr 1; omega)

@[simp] theorem FormatV.read_ty (op : BitVec 6) (f : FormatV) : (FormatV.read (FormatWord.v op f)).ty = f.ty := by
  apply BitVec.eq_of_getLsbD_eq
  intro i hi
  simp only [FormatV.read, FormatWord.v, BitVec.getLsbD_extractLsb', BitVec.getLsbD_append, hi, decide_true, Bool.true_and]
  repeat' split
  all_goals first
    | omega
    | (congr 1; omega)

@[simp] theorem FormatV.read_c (op : BitVec 6) (f : FormatV) : (FormatV.read (FormatWord.v op f)).c = f.c := by
  apply BitVec.eq_of_getLsbD_eq
  intro i hi
  simp only [FormatV.read, FormatWord.v, BitVec.getLsbD_extractLsb', BitVec.getLsbD_append, hi, decide_true, Bool.true_and]
  repeat' split
  all_goals first
    | omega
    | (congr 1; omega)

@[simp] theorem FormatV.read_res (op : BitVec 6) (f : FormatV) : (FormatV.read (FormatWord.v op f)).res = f.res := by
  apply BitVec.eq_of_getLsbD_eq
  intro i hi
  simp only [FormatV.read, FormatWord.v, BitVec.getLsbD_extractLsb', BitVec.getLsbD_append, hi, decide_true, Bool.true_and]
  repeat' split
  all_goals first
    | omega
    | (congr 1; omega)

@[simp] theorem FormatV.read_word (op : BitVec 6) (f : FormatV) : FormatV.read (FormatWord.v op f) = f := by
  rw [← FormatV.eta f, ← FormatV.eta (FormatV.read _)]
  simp only [FormatV.read_vd, FormatV.read_va, FormatV.read_vb, FormatV.read_mask, FormatV.read_fn, FormatV.read_ty, FormatV.read_c, FormatV.read_res]

theorem FormatWord.v_read (w : InsnWord) : FormatWord.v (opcodeOf w) (FormatV.read w) = w := by
  simp only [opcodeOf, FormatWord.v, FormatV.read]
  apply BitVec.eq_of_getLsbD_eq
  intro i hi
  simp only [BitVec.getLsbD_append, BitVec.getLsbD_extractLsb']
  repeat' split
  all_goals first
    | (rw [decide_eq_true (by omega), Bool.true_and]; congr 1; omega)

@[simp] theorem opcodeOf_vs (op : BitVec 6) (f : FormatVs) : opcodeOf (FormatWord.vs op f) = op := by
  apply BitVec.eq_of_getLsbD_eq
  intro i hi
  simp only [opcodeOf, FormatWord.vs, BitVec.getLsbD_extractLsb', BitVec.getLsbD_append, hi, decide_true, Bool.true_and]
  repeat' split
  all_goals first
    | omega
    | (congr 1; omega)

theorem FormatVs.eta (f : FormatVs) : (⟨f.vd, f.va, f.s, f.mask, f.fn, f.ty⟩ : FormatVs) = f := rfl

@[simp] theorem FormatVs.read_vd (op : BitVec 6) (f : FormatVs) : (FormatVs.read (FormatWord.vs op f)).vd = f.vd := by
  apply BitVec.eq_of_getLsbD_eq
  intro i hi
  simp only [FormatVs.read, FormatWord.vs, BitVec.getLsbD_extractLsb', BitVec.getLsbD_append, hi, decide_true, Bool.true_and]
  repeat' split
  all_goals first
    | omega
    | (congr 1; omega)

@[simp] theorem FormatVs.read_va (op : BitVec 6) (f : FormatVs) : (FormatVs.read (FormatWord.vs op f)).va = f.va := by
  apply BitVec.eq_of_getLsbD_eq
  intro i hi
  simp only [FormatVs.read, FormatWord.vs, BitVec.getLsbD_extractLsb', BitVec.getLsbD_append, hi, decide_true, Bool.true_and]
  repeat' split
  all_goals first
    | omega
    | (congr 1; omega)

@[simp] theorem FormatVs.read_s (op : BitVec 6) (f : FormatVs) : (FormatVs.read (FormatWord.vs op f)).s = f.s := by
  apply BitVec.eq_of_getLsbD_eq
  intro i hi
  simp only [FormatVs.read, FormatWord.vs, BitVec.getLsbD_extractLsb', BitVec.getLsbD_append, hi, decide_true, Bool.true_and]
  repeat' split
  all_goals first
    | omega
    | (congr 1; omega)

@[simp] theorem FormatVs.read_mask (op : BitVec 6) (f : FormatVs) : (FormatVs.read (FormatWord.vs op f)).mask = f.mask := by
  apply BitVec.eq_of_getLsbD_eq
  intro i hi
  simp only [FormatVs.read, FormatWord.vs, BitVec.getLsbD_extractLsb', BitVec.getLsbD_append, hi, decide_true, Bool.true_and]
  repeat' split
  all_goals first
    | omega
    | (congr 1; omega)

@[simp] theorem FormatVs.read_fn (op : BitVec 6) (f : FormatVs) : (FormatVs.read (FormatWord.vs op f)).fn = f.fn := by
  apply BitVec.eq_of_getLsbD_eq
  intro i hi
  simp only [FormatVs.read, FormatWord.vs, BitVec.getLsbD_extractLsb', BitVec.getLsbD_append, hi, decide_true, Bool.true_and]
  repeat' split
  all_goals first
    | omega
    | (congr 1; omega)

@[simp] theorem FormatVs.read_ty (op : BitVec 6) (f : FormatVs) : (FormatVs.read (FormatWord.vs op f)).ty = f.ty := by
  apply BitVec.eq_of_getLsbD_eq
  intro i hi
  simp only [FormatVs.read, FormatWord.vs, BitVec.getLsbD_extractLsb', BitVec.getLsbD_append, hi, decide_true, Bool.true_and]
  repeat' split
  all_goals first
    | omega
    | (congr 1; omega)

@[simp] theorem FormatVs.read_word (op : BitVec 6) (f : FormatVs) : FormatVs.read (FormatWord.vs op f) = f := by
  rw [← FormatVs.eta f, ← FormatVs.eta (FormatVs.read _)]
  simp only [FormatVs.read_vd, FormatVs.read_va, FormatVs.read_s, FormatVs.read_mask, FormatVs.read_fn, FormatVs.read_ty]

theorem FormatWord.vs_read (w : InsnWord) : FormatWord.vs (opcodeOf w) (FormatVs.read w) = w := by
  simp only [opcodeOf, FormatWord.vs, FormatVs.read]
  apply BitVec.eq_of_getLsbD_eq
  intro i hi
  simp only [BitVec.getLsbD_append, BitVec.getLsbD_extractLsb']
  repeat' split
  all_goals first
    | (rw [decide_eq_true (by omega), Bool.true_and]; congr 1; omega)

@[simp] theorem opcodeOf_ms (op : BitVec 6) (f : FormatMs) : opcodeOf (FormatWord.ms op f) = op := by
  apply BitVec.eq_of_getLsbD_eq
  intro i hi
  simp only [opcodeOf, FormatWord.ms, BitVec.getLsbD_extractLsb', BitVec.getLsbD_append, hi, decide_true, Bool.true_and]
  repeat' split
  all_goals first
    | omega
    | (congr 1; omega)

theorem FormatMs.eta (f : FormatMs) : (⟨f.d, f.base, f.ty, f.fn, f.off⟩ : FormatMs) = f := rfl

@[simp] theorem FormatMs.read_d (op : BitVec 6) (f : FormatMs) : (FormatMs.read (FormatWord.ms op f)).d = f.d := by
  apply BitVec.eq_of_getLsbD_eq
  intro i hi
  simp only [FormatMs.read, FormatWord.ms, BitVec.getLsbD_extractLsb', BitVec.getLsbD_append, hi, decide_true, Bool.true_and]
  repeat' split
  all_goals first
    | omega
    | (congr 1; omega)

@[simp] theorem FormatMs.read_base (op : BitVec 6) (f : FormatMs) : (FormatMs.read (FormatWord.ms op f)).base = f.base := by
  apply BitVec.eq_of_getLsbD_eq
  intro i hi
  simp only [FormatMs.read, FormatWord.ms, BitVec.getLsbD_extractLsb', BitVec.getLsbD_append, hi, decide_true, Bool.true_and]
  repeat' split
  all_goals first
    | omega
    | (congr 1; omega)

@[simp] theorem FormatMs.read_ty (op : BitVec 6) (f : FormatMs) : (FormatMs.read (FormatWord.ms op f)).ty = f.ty := by
  apply BitVec.eq_of_getLsbD_eq
  intro i hi
  simp only [FormatMs.read, FormatWord.ms, BitVec.getLsbD_extractLsb', BitVec.getLsbD_append, hi, decide_true, Bool.true_and]
  repeat' split
  all_goals first
    | omega
    | (congr 1; omega)

@[simp] theorem FormatMs.read_fn (op : BitVec 6) (f : FormatMs) : (FormatMs.read (FormatWord.ms op f)).fn = f.fn := by
  apply BitVec.eq_of_getLsbD_eq
  intro i hi
  simp only [FormatMs.read, FormatWord.ms, BitVec.getLsbD_extractLsb', BitVec.getLsbD_append, hi, decide_true, Bool.true_and]
  repeat' split
  all_goals first
    | omega
    | (congr 1; omega)

@[simp] theorem FormatMs.read_off (op : BitVec 6) (f : FormatMs) : (FormatMs.read (FormatWord.ms op f)).off = f.off := by
  apply BitVec.eq_of_getLsbD_eq
  intro i hi
  simp only [FormatMs.read, FormatWord.ms, BitVec.getLsbD_extractLsb', BitVec.getLsbD_append, hi, decide_true, Bool.true_and]
  repeat' split
  all_goals first
    | omega
    | (congr 1; omega)

@[simp] theorem FormatMs.read_word (op : BitVec 6) (f : FormatMs) : FormatMs.read (FormatWord.ms op f) = f := by
  rw [← FormatMs.eta f, ← FormatMs.eta (FormatMs.read _)]
  simp only [FormatMs.read_d, FormatMs.read_base, FormatMs.read_ty, FormatMs.read_fn, FormatMs.read_off]

theorem FormatWord.ms_read (w : InsnWord) : FormatWord.ms (opcodeOf w) (FormatMs.read w) = w := by
  simp only [opcodeOf, FormatWord.ms, FormatMs.read]
  apply BitVec.eq_of_getLsbD_eq
  intro i hi
  simp only [BitVec.getLsbD_append, BitVec.getLsbD_extractLsb']
  repeat' split
  all_goals first
    | (rw [decide_eq_true (by omega), Bool.true_and]; congr 1; omega)

@[simp] theorem opcodeOf_mv (op : BitVec 6) (f : FormatMv) : opcodeOf (FormatWord.mv op f) = op := by
  apply BitVec.eq_of_getLsbD_eq
  intro i hi
  simp only [opcodeOf, FormatWord.mv, BitVec.getLsbD_extractLsb', BitVec.getLsbD_append, hi, decide_true, Bool.true_and]
  repeat' split
  all_goals first
    | omega
    | (congr 1; omega)

theorem FormatMv.eta (f : FormatMv) : (⟨f.vd, f.mask, f.base, f.ty, f.fn, f.x⟩ : FormatMv) = f := rfl

@[simp] theorem FormatMv.read_vd (op : BitVec 6) (f : FormatMv) : (FormatMv.read (FormatWord.mv op f)).vd = f.vd := by
  apply BitVec.eq_of_getLsbD_eq
  intro i hi
  simp only [FormatMv.read, FormatWord.mv, BitVec.getLsbD_extractLsb', BitVec.getLsbD_append, hi, decide_true, Bool.true_and]
  repeat' split
  all_goals first
    | omega
    | (congr 1; omega)

@[simp] theorem FormatMv.read_mask (op : BitVec 6) (f : FormatMv) : (FormatMv.read (FormatWord.mv op f)).mask = f.mask := by
  apply BitVec.eq_of_getLsbD_eq
  intro i hi
  simp only [FormatMv.read, FormatWord.mv, BitVec.getLsbD_extractLsb', BitVec.getLsbD_append, hi, decide_true, Bool.true_and]
  repeat' split
  all_goals first
    | omega
    | (congr 1; omega)

@[simp] theorem FormatMv.read_base (op : BitVec 6) (f : FormatMv) : (FormatMv.read (FormatWord.mv op f)).base = f.base := by
  apply BitVec.eq_of_getLsbD_eq
  intro i hi
  simp only [FormatMv.read, FormatWord.mv, BitVec.getLsbD_extractLsb', BitVec.getLsbD_append, hi, decide_true, Bool.true_and]
  repeat' split
  all_goals first
    | omega
    | (congr 1; omega)

@[simp] theorem FormatMv.read_ty (op : BitVec 6) (f : FormatMv) : (FormatMv.read (FormatWord.mv op f)).ty = f.ty := by
  apply BitVec.eq_of_getLsbD_eq
  intro i hi
  simp only [FormatMv.read, FormatWord.mv, BitVec.getLsbD_extractLsb', BitVec.getLsbD_append, hi, decide_true, Bool.true_and]
  repeat' split
  all_goals first
    | omega
    | (congr 1; omega)

@[simp] theorem FormatMv.read_fn (op : BitVec 6) (f : FormatMv) : (FormatMv.read (FormatWord.mv op f)).fn = f.fn := by
  apply BitVec.eq_of_getLsbD_eq
  intro i hi
  simp only [FormatMv.read, FormatWord.mv, BitVec.getLsbD_extractLsb', BitVec.getLsbD_append, hi, decide_true, Bool.true_and]
  repeat' split
  all_goals first
    | omega
    | (congr 1; omega)

@[simp] theorem FormatMv.read_x (op : BitVec 6) (f : FormatMv) : (FormatMv.read (FormatWord.mv op f)).x = f.x := by
  apply BitVec.eq_of_getLsbD_eq
  intro i hi
  simp only [FormatMv.read, FormatWord.mv, BitVec.getLsbD_extractLsb', BitVec.getLsbD_append, hi, decide_true, Bool.true_and]
  repeat' split
  all_goals first
    | omega
    | (congr 1; omega)

@[simp] theorem FormatMv.read_word (op : BitVec 6) (f : FormatMv) : FormatMv.read (FormatWord.mv op f) = f := by
  rw [← FormatMv.eta f, ← FormatMv.eta (FormatMv.read _)]
  simp only [FormatMv.read_vd, FormatMv.read_mask, FormatMv.read_base, FormatMv.read_ty, FormatMv.read_fn, FormatMv.read_x]

theorem FormatWord.mv_read (w : InsnWord) : FormatWord.mv (opcodeOf w) (FormatMv.read w) = w := by
  simp only [opcodeOf, FormatWord.mv, FormatMv.read]
  apply BitVec.eq_of_getLsbD_eq
  intro i hi
  simp only [BitVec.getLsbD_append, BitVec.getLsbD_extractLsb']
  repeat' split
  all_goals first
    | (rw [decide_eq_true (by omega), Bool.true_and]; congr 1; omega)

@[simp] theorem opcodeOf_x (op : BitVec 6) (f : FormatX) : opcodeOf (FormatWord.x op f) = op := by
  apply BitVec.eq_of_getLsbD_eq
  intro i hi
  simp only [opcodeOf, FormatWord.x, BitVec.getLsbD_extractLsb', BitVec.getLsbD_append, hi, decide_true, Bool.true_and]
  repeat' split
  all_goals first
    | omega
    | (congr 1; omega)

theorem FormatX.eta (f : FormatX) : (⟨f.fn, f.a, f.b, f.c, f.g⟩ : FormatX) = f := rfl

@[simp] theorem FormatX.read_fn (op : BitVec 6) (f : FormatX) : (FormatX.read (FormatWord.x op f)).fn = f.fn := by
  apply BitVec.eq_of_getLsbD_eq
  intro i hi
  simp only [FormatX.read, FormatWord.x, BitVec.getLsbD_extractLsb', BitVec.getLsbD_append, hi, decide_true, Bool.true_and]
  repeat' split
  all_goals first
    | omega
    | (congr 1; omega)

@[simp] theorem FormatX.read_a (op : BitVec 6) (f : FormatX) : (FormatX.read (FormatWord.x op f)).a = f.a := by
  apply BitVec.eq_of_getLsbD_eq
  intro i hi
  simp only [FormatX.read, FormatWord.x, BitVec.getLsbD_extractLsb', BitVec.getLsbD_append, hi, decide_true, Bool.true_and]
  repeat' split
  all_goals first
    | omega
    | (congr 1; omega)

@[simp] theorem FormatX.read_b (op : BitVec 6) (f : FormatX) : (FormatX.read (FormatWord.x op f)).b = f.b := by
  apply BitVec.eq_of_getLsbD_eq
  intro i hi
  simp only [FormatX.read, FormatWord.x, BitVec.getLsbD_extractLsb', BitVec.getLsbD_append, hi, decide_true, Bool.true_and]
  repeat' split
  all_goals first
    | omega
    | (congr 1; omega)

@[simp] theorem FormatX.read_c (op : BitVec 6) (f : FormatX) : (FormatX.read (FormatWord.x op f)).c = f.c := by
  apply BitVec.eq_of_getLsbD_eq
  intro i hi
  simp only [FormatX.read, FormatWord.x, BitVec.getLsbD_extractLsb', BitVec.getLsbD_append, hi, decide_true, Bool.true_and]
  repeat' split
  all_goals first
    | omega
    | (congr 1; omega)

@[simp] theorem FormatX.read_g (op : BitVec 6) (f : FormatX) : (FormatX.read (FormatWord.x op f)).g = f.g := by
  apply BitVec.eq_of_getLsbD_eq
  intro i hi
  simp only [FormatX.read, FormatWord.x, BitVec.getLsbD_extractLsb', BitVec.getLsbD_append, hi, decide_true, Bool.true_and]
  repeat' split
  all_goals first
    | omega
    | (congr 1; omega)

@[simp] theorem FormatX.read_word (op : BitVec 6) (f : FormatX) : FormatX.read (FormatWord.x op f) = f := by
  rw [← FormatX.eta f, ← FormatX.eta (FormatX.read _)]
  simp only [FormatX.read_fn, FormatX.read_a, FormatX.read_b, FormatX.read_c, FormatX.read_g]

theorem FormatWord.x_read (w : InsnWord) : FormatWord.x (opcodeOf w) (FormatX.read w) = w := by
  simp only [opcodeOf, FormatWord.x, FormatX.read]
  apply BitVec.eq_of_getLsbD_eq
  intro i hi
  simp only [BitVec.getLsbD_append, BitVec.getLsbD_extractLsb']
  repeat' split
  all_goals first
    | (rw [decide_eq_true (by omega), Bool.true_and]; congr 1; omega)

@[simp] theorem opcodeOf_h (op : BitVec 6) (f : FormatH) : opcodeOf (FormatWord.h op f) = op := by
  apply BitVec.eq_of_getLsbD_eq
  intro i hi
  simp only [opcodeOf, FormatWord.h, BitVec.getLsbD_extractLsb', BitVec.getLsbD_append, hi, decide_true, Bool.true_and]
  repeat' split
  all_goals first
    | omega
    | (congr 1; omega)

theorem FormatH.eta (f : FormatH) : (⟨f.kind, f.payload⟩ : FormatH) = f := rfl

@[simp] theorem FormatH.read_kind (op : BitVec 6) (f : FormatH) : (FormatH.read (FormatWord.h op f)).kind = f.kind := by
  apply BitVec.eq_of_getLsbD_eq
  intro i hi
  simp only [FormatH.read, FormatWord.h, BitVec.getLsbD_extractLsb', BitVec.getLsbD_append, hi, decide_true, Bool.true_and]
  repeat' split
  all_goals first
    | omega
    | (congr 1; omega)

@[simp] theorem FormatH.read_payload (op : BitVec 6) (f : FormatH) : (FormatH.read (FormatWord.h op f)).payload = f.payload := by
  apply BitVec.eq_of_getLsbD_eq
  intro i hi
  simp only [FormatH.read, FormatWord.h, BitVec.getLsbD_extractLsb', BitVec.getLsbD_append, hi, decide_true, Bool.true_and]
  repeat' split
  all_goals first
    | omega
    | (congr 1; omega)

@[simp] theorem FormatH.read_word (op : BitVec 6) (f : FormatH) : FormatH.read (FormatWord.h op f) = f := by
  rw [← FormatH.eta f, ← FormatH.eta (FormatH.read _)]
  simp only [FormatH.read_kind, FormatH.read_payload]

theorem FormatWord.h_read (w : InsnWord) : FormatWord.h (opcodeOf w) (FormatH.read w) = w := by
  simp only [opcodeOf, FormatWord.h, FormatH.read]
  apply BitVec.eq_of_getLsbD_eq
  intro i hi
  simp only [BitVec.getLsbD_append, BitVec.getLsbD_extractLsb']
  repeat' split
  all_goals first
    | (rw [decide_eq_true (by omega), Bool.true_and]; congr 1; omega)

/-! ### Codes -/

@[simp] theorem Src.ofCode_code (a : Src) : Src.ofCode a.code = a := by
  cases a with
  | a i => revert i; decide
  | n i => revert i; decide
  | k i => revert i; decide

@[simp] theorem Src.code_ofCode (v : BitVec 6) : (Src.ofCode v).code = v := by revert v; decide

@[simp] theorem Dst.ofCode_code (d : Dst) : Dst.ofCode d.code = .ok d := by
  cases d with
  | push => rfl
  | n i =>
    have h : ∀ i : Fin 32, (Dst.n i).code ≠ 0#6 ∧ (Dst.n i).code.extractLsb' 4 2 ≠ 0#2 ∧ (Dst.n i).code.extractLsb' 4 2 ≠ 3#2 ∧
        ((Dst.n i).code - 16#6 |>.extractLsb' 0 5).toFin = i := by decide
    obtain ⟨h0, h1, h2, h3⟩ := h i
    simp only [Dst.ofCode, h0, h1, h2, h3, if_false, decide_false, Bool.or_false, Bool.false_eq_true]

@[simp] theorem Ty.ofCode_code (t : Ty) : Ty.ofCode t.code = .ok t := by cases t <;> rfl

@[simp] theorem FTy.ofCode_code (t : FTy) : FTy.ofCode t.code = t := by cases t <;> rfl

@[simp] theorem boolOfCode_boolCode (b : Bool) : boolOfCode (boolCode b) = b := by cases b <;> rfl

@[simp] theorem finOfCode_finCode {w : Nat} (i : Fin (2 ^ w)) : finOfCode (finCode i) = i := rfl

@[simp] theorem maskOfField_maskField (m : MReg) : maskOfField (maskField m) = .ok m := by
  have h : ∀ m : MReg, (maskField m).extractLsb' 3 1 = 0#1 ∧ ((maskField m).extractLsb' 0 3).toFin = m := by decide
  simp only [maskOfField, (h m).1, (h m).2, if_true]

@[simp] theorem SpecialValue.ofCode_code (v : SpecialValue) : SpecialValue.ofCode v.code = v := by cases v <;> rfl

@[simp] theorem Rnd.ofCode_code (v : Rnd) : Rnd.ofCode v.code = v := by cases v <;> rfl

@[simp] theorem CachePolicy.ofCode_code (v : CachePolicy) : CachePolicy.ofCode v.code = v := by cases v <;> rfl

@[simp] theorem SxFmt.ofConvertCode_convertCode (v : SxFmt) : SxFmt.ofConvertCode v.convertCode = .ok v := by cases v <;> rfl

@[simp] theorem SxFmt.ofBlockCode_blockCode (v : SxFmt) : SxFmt.ofBlockCode v.blockCode = .ok v := by cases v <;> rfl

@[simp] theorem guardOfCode_guardCode (g : Guard) : guardOfCode (guardCode g) = .ok g := by
  cases g with
  | none => rfl
  | some i =>
    have h : ∀ i : Fin 16, guardCode (some i) ≠ 0#5 ∧ (guardCode (some i)).extractLsb' 4 1 = 1#1 ∧ ((guardCode (some i)).extractLsb' 0 4).toFin = i := by decide
    obtain ⟨h0, h1, h2⟩ := h i
    simp only [guardOfCode, h0, h1, h2, if_false, if_true]

@[simp] theorem fixed_self {n : Nat} (c : BitVec n) (e : DecodeError) : fixed c c e = .ok () := by simp [fixed]

/-- A boolean bit before a field of 3 bits, as `sel` and the compares hold it: the bit. -/
@[simp] theorem extract_bit_of_sense (b : BitVec 1) (p : BitVec 3) : (b ++ p : BitVec 4).extractLsb' 3 1 = b := by revert b p; decide

/-- The field. -/
@[simp] theorem extract_pred_of_sense (b : BitVec 1) (p : BitVec 3) : (b ++ p : BitVec 4).extractLsb' 0 3 = p := by revert b p; decide

end Sys2Proof
end

