-- ==== Sys2Proof/Laws/Tables.lean ====
section
/-! SUPPORT. Tables and memories: what is read after a write, and that every memory operation keeps the canonical form (assumption 1). -/

namespace Sys2Proof.Machine

/-! ### Tables -/

theorem Tab.get?_put_self {α : Type} (t : Tab α) (k : Nat) (v : α) : (t.put k v).get? k = some v := by
  induction t with
  | nil => simp [Tab.put, Tab.get?]
  | cons e rest ih =>
    obtain ⟨j, w⟩ := e
    by_cases h : j = k
    · simp [Tab.put, Tab.get?, h]
    · by_cases h2 : k < j
      · simp [Tab.put, Tab.get?, h, h2]
      · simp [Tab.put, Tab.get?, h, h2, ih]

theorem Tab.get?_put_of_ne {α : Type} (t : Tab α) (k j : Nat) (v : α) (h : j ≠ k) : (t.put k v).get? j = t.get? j := by
  induction t with
  | nil => simp [Tab.put, Tab.get?, Ne.symm h]
  | cons e rest ih =>
    obtain ⟨i, w⟩ := e
    by_cases h1 : i = k
    · subst h1; simp [Tab.put, Tab.get?, Ne.symm h]
    · by_cases h2 : k < i
      · simp [Tab.put, Tab.get?, h1, h2, Ne.symm h]
      · by_cases h3 : i = j
        · subst h3; simp [Tab.put, Tab.get?, h1, h2]
        · simp [Tab.put, Tab.get?, h1, h2, h3, ih]

theorem Tab.get?_put {α : Type} (t : Tab α) (k j : Nat) (v : α) : (t.put k v).get? j = if j = k then some v else t.get? j := by
  by_cases h : j = k
  · simp [h, Tab.get?_put_self]
  · simp [h, Tab.get?_put_of_ne]

theorem Tab.put_put {α : Type} (t : Tab α) (k : Nat) (v w : α) : (t.put k v).put k w = t.put k w := by
  induction t with
  | nil => simp [Tab.put]
  | cons e rest ih =>
    obtain ⟨j, u⟩ := e
    by_cases h : j = k
    · simp [Tab.put, h]
    · by_cases h2 : k < j
      · simp [Tab.put, h, h2]
      · simp [Tab.put, h, h2, ih]

theorem Tab.get?_del_self {α : Type} (t : Tab α) (k : Nat) : (t.del k).get? k = none := by
  induction t with
  | nil => rfl
  | cons e rest ih =>
    obtain ⟨j, w⟩ := e
    by_cases h : j = k
    · simpa [Tab.del, h] using ih
    · simpa [Tab.del, Tab.get?, h] using ih

theorem Tab.get?_del_of_ne {α : Type} (t : Tab α) (k j : Nat) (h : j ≠ k) : (t.del k).get? j = t.get? j := by
  induction t with
  | nil => rfl
  | cons e rest ih =>
    obtain ⟨i, w⟩ := e
    by_cases h1 : i = k
    · subst h1; simpa [Tab.del, Tab.get?, Ne.symm h] using ih
    · by_cases h2 : i = j
      · subst h2; simp [Tab.del, Tab.get?, h]
      · simpa [Tab.del, Tab.get?, h1, h2] using ih

theorem Tab.get?_mapAll {α : Type} (t : Tab α) (f : Nat → α → α) (k : Nat) : (t.mapAll f).get? k = (t.get? k).map (f k) := by
  induction t with
  | nil => rfl
  | cons e rest ih =>
    obtain ⟨j, w⟩ := e
    by_cases h : j = k
    · simp [Tab.mapAll, Tab.get?, h]
    · simpa [Tab.mapAll, Tab.get?, h] using ih

theorem Tab.mem_of_get? {α : Type} {t : Tab α} {k : Nat} {v : α} (h : t.get? k = some v) : (k, v) ∈ t := by
  induction t with
  | nil => simp [Tab.get?] at h
  | cons e rest ih =>
    obtain ⟨j, w⟩ := e
    by_cases hj : j = k
    · simp [Tab.get?, hj] at h; simp [hj, h]
    · simp [Tab.get?, hj] at h; simp [ih h]

/-! ### Memories -/

theorem Memory.read_filter_self (m : Memory) (a : Nat) : Memory.read (m.filter fun e => e.1 != a) a = 0 := by
  induction m with
  | nil => rfl
  | cons e rest ih =>
    obtain ⟨j, v⟩ := e
    by_cases h : j = a
    · simpa [h] using ih
    · simpa [Memory.read, h] using ih

theorem Memory.read_filter_of_ne (m : Memory) (a b : Nat) (h : b ≠ a) : Memory.read (m.filter fun e => e.1 != a) b = m.read b := by
  induction m with
  | nil => rfl
  | cons e rest ih =>
    obtain ⟨j, v⟩ := e
    by_cases h1 : j = a
    · subst h1; simpa [Memory.read, Ne.symm h] using ih
    · by_cases h2 : j = b
      · subst h2; simp [Memory.read, h]
      · simpa [Memory.read, h1, h2] using ih

theorem Memory.read_write_self (m : Memory) (a : Nat) (b : Byte) : (m.write a b).read a = b := by
  induction m with
  | nil => by_cases h : b = 0#8 <;> simp [Memory.write, Memory.read, h]
  | cons e rest ih =>
    obtain ⟨j, v⟩ := e
    by_cases h : a < j
    · have hj : j ≠ a := by omega
      by_cases hb : b = 0#8
      · simp [Memory.write, Memory.read, h, hb, hj, Memory.read_filter_self]
      · simp [Memory.write, Memory.read, h, hb]
    · by_cases hj : j = a
      · by_cases hb : b = 0#8
        · simp [Memory.write, hj, hb, Memory.read_filter_self]
        · simp [Memory.write, Memory.read, hj, hb]
      · simp [Memory.write, Memory.read, h, hj, ih]

theorem Memory.read_write_of_ne (m : Memory) (a c : Nat) (b : Byte) (hc : c ≠ a) : (m.write a b).read c = m.read c := by
  induction m with
  | nil => by_cases h : b = 0#8 <;> simp [Memory.write, Memory.read, h, Ne.symm hc]
  | cons e rest ih =>
    obtain ⟨j, v⟩ := e
    by_cases h : a < j
    · have hj : j ≠ a := by omega
      by_cases hb : b = 0#8
      · by_cases h2 : j = c
        · subst h2; simp [Memory.write, Memory.read, h, hb, hj]
        · simp [Memory.write, Memory.read, h, hb, hj, h2, Memory.read_filter_of_ne _ _ _ hc]
      · by_cases h2 : j = c
        · subst h2; simp [Memory.write, Memory.read, h, hb, hj, Ne.symm hc]
        · simp [Memory.write, Memory.read, h, hb, hj, h2, Ne.symm hc, Memory.read_filter_of_ne _ _ _ hc]
    · by_cases hj : j = a
      · subst hj
        by_cases hb : b = 0#8
        · simp [Memory.write, Memory.read, hb, Ne.symm hc, Memory.read_filter_of_ne _ _ _ hc]
        · simp [Memory.write, Memory.read, hb, Ne.symm hc, Memory.read_filter_of_ne _ _ _ hc]
      · by_cases h2 : j = c
        · subst h2; simp [Memory.write, Memory.read, h, hj]
        · simp [Memory.write, Memory.read, h, hj, h2, ih]

theorem Memory.read_write (m : Memory) (a c : Nat) (b : Byte) : (m.write a b).read c = if c = a then b else m.read c := by
  by_cases h : c = a
  · simp [h, Memory.read_write_self]
  · simp [h, Memory.read_write_of_ne]

theorem Memory.read_writeBytes (bs : List Byte) (m : Memory) (a c : Nat) :
    (m.writeBytes a bs).read c = if a ≤ c ∧ c < a + bs.length then bs.getD (c - a) 0 else m.read c := by
  induction bs generalizing m a with
  | nil =>
    have hn : ¬ (a ≤ c ∧ c < a + ([] : List Byte).length) := by rw [List.length_nil]; omega
    rw [if_neg hn, Memory.writeBytes]
  | cons b bs ih =>
    rw [Memory.writeBytes, ih, Memory.read_write, List.length_cons]
    rcases Nat.lt_trichotomy c a with h | rfl | h
    · rw [if_neg (by omega), if_neg (by omega), if_neg (by omega)]
    · rw [if_neg (by omega), if_pos rfl, if_pos (by omega), Nat.sub_self, List.getD_cons_zero]
    · by_cases h2 : c < a + (bs.length + 1)
      · rw [if_pos (by omega), if_pos (by omega), show c - a = c - (a + 1) + 1 by omega, List.getD_cons_succ]
      · rw [if_neg (by omega), if_neg (by omega), if_neg (by omega)]

theorem Memory.readBytes_length (m : Memory) (a n : Nat) : (m.readBytes a n).length = n := by simp [Memory.readBytes]

theorem Memory.readBytes_writeBytes (m : Memory) (a : Nat) (bs : List Byte) : (m.writeBytes a bs).readBytes a bs.length = bs := by
  apply List.ext_getElem
  · simp [Memory.readBytes]
  · intro i h1 h2
    simp [Memory.readBytes, Memory.read_writeBytes, h2]

/-! ### The canonical form -/

theorem Memory.wf_cons (a : Nat) (b : Byte) (m : Memory) : Memory.wf ((a, b) :: m) = true ↔ b ≠ 0 ∧ (∀ e ∈ m, a < e.1) ∧ Memory.wf m = true := by
  simp [Memory.wf, and_assoc]

theorem Memory.wf_filter (m : Memory) (p : Host.Cell → Bool) (h : m.wf = true) : Memory.wf (m.filter p) = true := by
  induction m with
  | nil => rfl
  | cons e rest ih =>
    obtain ⟨a, b⟩ := e
    rw [Memory.wf_cons] at h
    rw [List.filter_cons]
    split
    · rw [Memory.wf_cons]
      exact ⟨h.1, fun e he => h.2.1 e ((List.mem_filter.mp he).1), ih h.2.2⟩
    · exact ih h.2.2

theorem Memory.mem_write (m : Memory) (a : Nat) (b : Byte) (e : Host.Cell) (h : e ∈ m.write a b) : e.1 = a ∨ e ∈ m := by
  induction m with
  | nil =>
    simp only [Memory.write] at h
    split at h <;> simp_all
  | cons c rest ih =>
    obtain ⟨j, v⟩ := c
    simp only [Memory.write] at h
    split at h
    · rw [List.mem_append] at h
      rcases h with h | h
      · split at h <;> simp_all
      · exact .inr ((List.mem_filter.mp h).1)
    · split at h
      · rw [List.mem_append] at h
        rcases h with h | h
        · split at h <;> simp_all
        · exact .inr (List.mem_cons_of_mem _ ((List.mem_filter.mp h).1))
      · rcases List.mem_cons.mp h with h | h
        · simp [h]
        · rcases ih h with h | h
          · exact .inl h
          · exact .inr (List.mem_cons_of_mem _ h)

/-- A write keeps the canonical form. -/
theorem Memory.wf_write (m : Memory) (a : Nat) (b : Byte) (h : m.wf = true) : (m.write a b).wf = true := by
  induction m with
  | nil => by_cases hb : b = 0#8 <;> simp [Memory.write, Memory.wf, hb]
  | cons e rest ih =>
    obtain ⟨j, v⟩ := e
    have h' := (Memory.wf_cons j v rest).mp h
    simp only [Memory.write]
    split
    · rename_i ha
      have hf := Memory.wf_filter ((j, v) :: rest) (fun e => e.1 != a) h
      split
      · exact hf
      · rename_i hb
        rw [List.singleton_append, Memory.wf_cons]
        refine ⟨hb, fun e he => ?_, hf⟩
        rcases List.mem_cons.mp ((List.mem_filter.mp he).1) with rfl | he
        · exact ha
        · exact Nat.lt_trans ha (h'.2.1 e he)
    · split
      · rename_i hj
        have hf := Memory.wf_filter rest (fun e => e.1 != a) h'.2.2
        split
        · exact hf
        · rename_i hb
          rw [List.singleton_append, Memory.wf_cons]
          exact ⟨hb, fun e he => hj ▸ h'.2.1 e ((List.mem_filter.mp he).1), hf⟩
      · rename_i ha hj
        rw [Memory.wf_cons]
        refine ⟨h'.1, fun e he => ?_, ih h'.2.2⟩
        rcases Memory.mem_write rest a b e he with he | he
        · omega
        · exact h'.2.1 e he

/-- A write of bytes keeps the canonical form. -/
theorem Memory.wf_writeBytes (bs : List Byte) (m : Memory) (a : Nat) (h : m.wf = true) : (m.writeBytes a bs).wf = true := by
  induction bs generalizing m a with
  | nil => exact h
  | cons b bs ih => exact ih _ _ (Memory.wf_write m a b h)

/-- A write of a number keeps the canonical form. -/
theorem Memory.wf_writeNat (m : Memory) (a n v : Nat) (h : m.wf = true) : (m.writeNat a n v).wf = true := Memory.wf_writeBytes _ m a h

/-- A list of writes keeps the canonical form. -/
theorem Memory.wf_foldl_write {β : Type} (ws : List β) (k : β → Nat × Byte) (m : Memory) (h : m.wf = true) :
    Memory.wf (ws.foldl (fun m w => m.write (k w).1 (k w).2) m) = true := by
  induction ws generalizing m with
  | nil => exact h
  | cons w ws ih => exact ih _ (Memory.wf_write m _ _ h)

/-- In canonical form an address below every listed one reads as 0. -/
theorem Memory.read_of_lt (m : Memory) (a : Nat) (h : ∀ e ∈ m, a < e.1) : m.read a = 0 := by
  induction m with
  | nil => rfl
  | cons e rest ih =>
    obtain ⟨j, v⟩ := e
    have hj : j ≠ a := by have := h (j, v) (by simp); simp at this; omega
    simp only [Memory.read, hj, if_false]
    exact ih fun e he => h e (List.mem_cons_of_mem _ he)

/-- Memories in canonical form that read alike are equal. -/
theorem Memory.ext (m n : Memory) (hm : m.wf = true) (hn : n.wf = true) (h : ∀ a, m.read a = n.read a) : m = n := by
  induction m generalizing n with
  | nil =>
    cases n with
    | nil => rfl
    | cons e rest =>
      obtain ⟨j, v⟩ := e
      have := h j
      simp [Memory.read] at this
      exact absurd this.symm ((Memory.wf_cons j v rest).mp hn).1
  | cons e rest ih =>
    obtain ⟨j, v⟩ := e
    have hm' := (Memory.wf_cons j v rest).mp hm
    cases n with
    | nil =>
      have := h j
      simp [Memory.read] at this
      exact absurd this hm'.1
    | cons f rest' =>
      obtain ⟨i, w⟩ := f
      have hn' := (Memory.wf_cons i w rest').mp hn
      have hij : j = i := by
        rcases Nat.lt_trichotomy j i with hlt | heq | hgt
        · have h1 := h j
          rw [Memory.read_of_lt ((i, w) :: rest') j (by
            intro e he
            rcases List.mem_cons.mp he with rfl | he
            · exact hlt
            · exact Nat.lt_trans hlt (hn'.2.1 e he))] at h1
          simp [Memory.read] at h1
          exact absurd h1 hm'.1
        · exact heq
        · have h1 := h i
          rw [Memory.read_of_lt ((j, v) :: rest) i (by
            intro e he
            rcases List.mem_cons.mp he with rfl | he
            · exact hgt
            · exact Nat.lt_trans hgt (hm'.2.1 e he))] at h1
          simp [Memory.read] at h1
          exact absurd h1.symm hn'.1
      subst hij
      have hv : v = w := by have := h j; simpa [Memory.read] using this
      subst hv
      congr 1
      refine ih rest' hm'.2.2 hn'.2.2 fun a => ?_
      by_cases ha : a ≤ j
      · rw [Memory.read_of_lt rest a fun e he => Nat.lt_of_le_of_lt ha (hm'.2.1 e he),
          Memory.read_of_lt rest' a fun e he => Nat.lt_of_le_of_lt ha (hn'.2.1 e he)]
      · have h1 := h a
        have hne : j ≠ a := by omega
        simpa [Memory.read, hne] using h1

end Sys2Proof.Machine
end

