-- ==== Sys2Proof/Laws/Images.lean ====
section
/-! SUPPORT. The memory of the package keeps its canonical form (assumption 1) under every operation on it: writes at a home with and without compression, changes of
metadata, tiles made plain, pages moved, RDMA. -/

namespace Sys2Proof.Machine

@[simp] theorem Images.setMode_mem (im : Images) (pa : Nat) (m : Byte) : (im.setMode pa m).mem = im.mem := rfl

theorem Images.wf_writeTile (im : Images) (pa comp : Nat) (ws : List (Nat × Byte)) (h : im.mem.wf = true) : (im.writeTile pa comp ws).mem.wf = true := by
  unfold Images.writeTile
  simp only []
  split
  all_goals exact Memory.wf_writeBytes _ _ _ h

theorem Images.wf_write (im : Images) (comp : Nat) (ws : List (Nat × Byte)) (h : im.mem.wf = true) : (im.write comp ws).mem.wf = true := by
  unfold Images.write
  split
  · exact h
  · split
    · exact Memory.wf_foldl_write _ id _ h
    · exact Images.wf_writeTile _ _ _ _ h

theorem Images.wf_writeAll (im : Images) (comp : Nat) (ws : List (Nat × Byte)) (h : im.mem.wf = true) : (im.writeAll comp ws).mem.wf = true := by
  unfold Images.writeAll
  generalize distinct (ws.map fun w => w.1 / 256) = ts
  induction ts generalizing im with
  | nil => exact h
  | cons t ts ih => exact ih _ (Images.wf_write _ _ _ h)

@[simp] theorem Images.clearRegion_mem (im : Images) (pa : Nat) (clear : Bool) (high : Nat) : (im.clearRegion pa clear high).mem = im.mem := by
  unfold Images.clearRegion
  repeat' split
  all_goals rfl

theorem Images.wf_plainTile {im im' : Images} {pa comp : Nat} (h : im.mem.wf = true) (he : im.plainTile pa comp = some im') : im'.mem.wf = true := by
  unfold Images.plainTile at he
  split at he
  · cases he; exact h
  · cases ht : im.tile pa with
    | none => rw [ht] at he; cases he
    | some bs => rw [ht] at he; cases he; exact Memory.wf_writeBytes _ _ _ h

theorem Images.wf_movePage (im : Images) (src dst n : Nat) (h : im.mem.wf = true) : (im.movePage src dst n).mem.wf = true :=
  Memory.wf_foldl_write _ (fun e : Host.Cell => (e.1 - src + dst, e.2)) _ (Memory.wf_filter _ _ h)

end Sys2Proof.Machine
end

