-- ==== Sys2Proof/Laws/Numbers.lean ====
section
/-! SUPPORT. The integer square root is one. -/

namespace Sys2Proof

/-- A Newton step from x does not fall below the root. -/
theorem newton_ge (n x s : Nat) (hx : 0 < x) (hs : s * s ≤ n) : s ≤ (x + n / x) / 2 := by
  have h : s * s / x ≤ n / x := Nat.div_le_div_right hs
  have h2 : 2 * s ≤ x + s * s / x := by
    rcases Nat.lt_or_ge (2 * s) x with h | h
    · exact Nat.le_trans (Nat.le_of_lt h) (Nat.le_add_right _ _)
    · have hm : (2 * s - x) * x ≤ s * s := by
        zify [h]
        nlinarith [sq_nonneg ((s : Int) - x)]
      have hd := (Nat.le_div_iff_mul_le hx).2 hm
      generalize s * s / x = e at *
      omega
  generalize n / x = e at *
  generalize s * s / x = d at *
  omega

theorem isqrtLoop_spec (n s : Nat) (hs : s * s ≤ n) (hn : n < (s + 1) * (s + 1)) (fuel x : Nat) (hx : s ≤ x) (hf : x - s < 2 ^ fuel) (h0 : 0 < s) :
    isqrtLoop n fuel x = s := by
  induction fuel generalizing x with
  | zero => simp only [isqrtLoop]; omega
  | succ fuel ih =>
    have hx0 : 0 < x := by omega
    have hge := newton_ge n x s hx0 hs
    have hq : s < x → n / x ≤ s := fun h =>
      Nat.le_of_lt_succ ((Nat.div_lt_iff_lt_mul hx0).2 (Nat.lt_of_lt_of_le hn (Nat.mul_le_mul_left _ h)))
    simp only [isqrtLoop]
    generalize n / x = e at *
    rw [pow_succ] at hf
    split
    · exact ih _ hge (by have := hq (by omega); omega)
    · by_contra hne
      have := hq (by omega)
      omega

/-- The integer square root of n is the greatest number whose square is at most n. -/
theorem isqrt_spec (n : Nat) : isqrt n * isqrt n ≤ n ∧ n < (isqrt n + 1) * (isqrt n + 1) := by
  unfold isqrt
  split
  · subst_vars; simp
  · rename_i h
    have e : isqrtLoop n (n.log2 + 4) (2 ^ (n.log2 / 2 + 1)) = Nat.sqrt n := by
      have hlog : n < 2 ^ (n.log2 + 1) := Nat.lt_log2_self
      have hs := Nat.sqrt_le n
      have hn := Nat.lt_succ_sqrt n
      have hle : Nat.sqrt n ≤ 2 ^ (n.log2 / 2 + 1) := by
        have : Nat.sqrt n < 2 ^ (n.log2 / 2 + 1) := by
          rw [Nat.sqrt_lt, ← pow_add]
          exact lt_of_lt_of_le hlog (Nat.pow_le_pow_right (by decide) (by omega))
        omega
      refine isqrtLoop_spec n _ hs hn _ _ hle ?_ (Nat.sqrt_pos.2 (by omega))
      exact lt_of_le_of_lt (Nat.sub_le _ _) (Nat.pow_lt_pow_right (by decide) (by omega))
    rw [e]
    exact ⟨Nat.sqrt_le n, Nat.lt_succ_sqrt n⟩

end Sys2Proof
end

