-- ==== Sys2Proof/Laws/State.lean ====
section
/-! SUPPORT. What each field of the state, and of a fibre, is after each update of it: one lemma for a field of an update, true by unfolding the update.
(A plain `rfl` there compares the two fibres field by field first, and takes seconds.) -/

namespace Sys2Proof.Machine

/-! ### State.setCore -/

@[simp] theorem State.setCore_home (s : State) (c : Nat) (k : CoreState) : (s.setCore c k).home = s.home := rfl
@[simp] theorem State.setCore_host (s : State) (c : Nat) (k : CoreState) : (s.setCore c k).host = s.host := rfl
@[simp] theorem State.setCore_wordEdges (s : State) (c : Nat) (k : CoreState) : (s.setCore c k).wordEdges = s.wordEdges := rfl
@[simp] theorem State.setCore_time (s : State) (c : Nat) (k : CoreState) : (s.setCore c k).time = s.time := rfl
@[simp] theorem State.setCore_cores (s : State) (c : Nat) (k : CoreState) : (s.setCore c k).cores = s.cores.put c k := rfl
@[simp] theorem State.setCore_walks (s : State) (c : Nat) (k : CoreState) : (s.setCore c k).walks = s.walks := rfl
@[simp] theorem State.setCore_fibres (s : State) (c : Nat) (k : CoreState) : (s.setCore c k).fibres = s.fibres := rfl
@[simp] theorem State.setCore_frames (s : State) (c : Nat) (k : CoreState) : (s.setCore c k).frames = s.frames := rfl
@[simp] theorem State.setCore_groups (s : State) (c : Nat) (k : CoreState) : (s.setCore c k).groups = s.groups := rfl
@[simp] theorem State.setCore_launches (s : State) (c : Nat) (k : CoreState) : (s.setCore c k).launches = s.launches := rfl
@[simp] theorem State.setCore_contexts (s : State) (c : Nat) (k : CoreState) : (s.setCore c k).contexts = s.contexts := rfl
@[simp] theorem State.setCore_queues (s : State) (c : Nat) (k : CoreState) : (s.setCore c k).queues = s.queues := rfl
@[simp] theorem State.setCore_fresh (s : State) (c : Nat) (k : CoreState) : (s.setCore c k).fresh = s.fresh := rfl
@[simp] theorem State.setCore_node (s : State) (c : Nat) (k : CoreState) : (s.setCore c k).node = s.node := rfl
@[simp] theorem State.setCore_fences (s : State) (c : Nat) (k : CoreState) : (s.setCore c k).fences = s.fences := rfl
@[simp] theorem State.setCore_diesUp (s : State) (c : Nat) (k : CoreState) : (s.setCore c k).diesUp = s.diesUp := rfl
@[simp] theorem State.setCore_link (s : State) (c : Nat) (k : CoreState) : (s.setCore c k).link = s.link := rfl
@[simp] theorem State.setCore_platform (s : State) (c : Nat) (k : CoreState) : (s.setCore c k).platform = s.platform := rfl
@[simp] theorem State.setCore_mailbox (s : State) (c : Nat) (k : CoreState) : (s.setCore c k).mailbox = s.mailbox := rfl
@[simp] theorem State.setCore_debugWindow (s : State) (c : Nat) (k : CoreState) : (s.setCore c k).debugWindow = s.debugWindow := rfl
@[simp] theorem State.setCore_rdma (s : State) (c : Nat) (k : CoreState) : (s.setCore c k).rdma = s.rdma := rfl
@[simp] theorem State.setCore_pairErrors (s : State) (c : Nat) (k : CoreState) : (s.setCore c k).pairErrors = s.pairErrors := rfl
@[simp] theorem State.setCore_hostEvents (s : State) (c : Nat) (k : CoreState) : (s.setCore c k).hostEvents = s.hostEvents := rfl
@[simp] theorem State.setCore_jobs (s : State) (c : Nat) (k : CoreState) : (s.setCore c k).jobs = s.jobs := rfl
@[simp] theorem State.setCore_collectives (s : State) (c : Nat) (k : CoreState) : (s.setCore c k).collectives = s.collectives := rfl
@[simp] theorem State.setCore_marks (s : State) (c : Nat) (k : CoreState) : (s.setCore c k).marks = s.marks := rfl
@[simp] theorem State.setCore_pass (s : State) (c : Nat) (k : CoreState) : (s.setCore c k).pass = s.pass := rfl
@[simp] theorem State.setCore_schedule (s : State) (c : Nat) (k : CoreState) : (s.setCore c k).schedule = s.schedule := rfl
@[simp] theorem State.setCore_freeCount (s : State) (c : Nat) (k : CoreState) : (s.setCore c k).freeCount = s.freeCount := rfl

/-! ### State.setFibre -/

@[simp] theorem State.setFibre_home (s : State) (f : Nat) (x : Fibre) : (s.setFibre f x).home = s.home := rfl
@[simp] theorem State.setFibre_host (s : State) (f : Nat) (x : Fibre) : (s.setFibre f x).host = s.host := rfl
@[simp] theorem State.setFibre_wordEdges (s : State) (f : Nat) (x : Fibre) : (s.setFibre f x).wordEdges = s.wordEdges := rfl
@[simp] theorem State.setFibre_time (s : State) (f : Nat) (x : Fibre) : (s.setFibre f x).time = s.time := rfl
@[simp] theorem State.setFibre_cores (s : State) (f : Nat) (x : Fibre) : (s.setFibre f x).cores = s.cores := rfl
@[simp] theorem State.setFibre_walks (s : State) (f : Nat) (x : Fibre) : (s.setFibre f x).walks = s.walks := rfl
@[simp] theorem State.setFibre_fibres (s : State) (f : Nat) (x : Fibre) : (s.setFibre f x).fibres = s.fibres.put f x := rfl
@[simp] theorem State.setFibre_frames (s : State) (f : Nat) (x : Fibre) : (s.setFibre f x).frames = s.frames := rfl
@[simp] theorem State.setFibre_groups (s : State) (f : Nat) (x : Fibre) : (s.setFibre f x).groups = s.groups := rfl
@[simp] theorem State.setFibre_launches (s : State) (f : Nat) (x : Fibre) : (s.setFibre f x).launches = s.launches := rfl
@[simp] theorem State.setFibre_contexts (s : State) (f : Nat) (x : Fibre) : (s.setFibre f x).contexts = s.contexts := rfl
@[simp] theorem State.setFibre_queues (s : State) (f : Nat) (x : Fibre) : (s.setFibre f x).queues = s.queues := rfl
@[simp] theorem State.setFibre_fresh (s : State) (f : Nat) (x : Fibre) : (s.setFibre f x).fresh = s.fresh := rfl
@[simp] theorem State.setFibre_node (s : State) (f : Nat) (x : Fibre) : (s.setFibre f x).node = s.node := rfl
@[simp] theorem State.setFibre_fences (s : State) (f : Nat) (x : Fibre) : (s.setFibre f x).fences = s.fences := rfl
@[simp] theorem State.setFibre_diesUp (s : State) (f : Nat) (x : Fibre) : (s.setFibre f x).diesUp = s.diesUp := rfl
@[simp] theorem State.setFibre_link (s : State) (f : Nat) (x : Fibre) : (s.setFibre f x).link = s.link := rfl
@[simp] theorem State.setFibre_platform (s : State) (f : Nat) (x : Fibre) : (s.setFibre f x).platform = s.platform := rfl
@[simp] theorem State.setFibre_mailbox (s : State) (f : Nat) (x : Fibre) : (s.setFibre f x).mailbox = s.mailbox := rfl
@[simp] theorem State.setFibre_debugWindow (s : State) (f : Nat) (x : Fibre) : (s.setFibre f x).debugWindow = s.debugWindow := rfl
@[simp] theorem State.setFibre_rdma (s : State) (f : Nat) (x : Fibre) : (s.setFibre f x).rdma = s.rdma := rfl
@[simp] theorem State.setFibre_pairErrors (s : State) (f : Nat) (x : Fibre) : (s.setFibre f x).pairErrors = s.pairErrors := rfl
@[simp] theorem State.setFibre_hostEvents (s : State) (f : Nat) (x : Fibre) : (s.setFibre f x).hostEvents = s.hostEvents := rfl
@[simp] theorem State.setFibre_jobs (s : State) (f : Nat) (x : Fibre) : (s.setFibre f x).jobs = s.jobs := rfl
@[simp] theorem State.setFibre_collectives (s : State) (f : Nat) (x : Fibre) : (s.setFibre f x).collectives = s.collectives := rfl
@[simp] theorem State.setFibre_marks (s : State) (f : Nat) (x : Fibre) : (s.setFibre f x).marks = s.marks := rfl
@[simp] theorem State.setFibre_pass (s : State) (f : Nat) (x : Fibre) : (s.setFibre f x).pass = s.pass := rfl
@[simp] theorem State.setFibre_schedule (s : State) (f : Nat) (x : Fibre) : (s.setFibre f x).schedule = s.schedule := rfl
@[simp] theorem State.setFibre_freeCount (s : State) (f : Nat) (x : Fibre) : (s.setFibre f x).freeCount = s.freeCount := rfl

/-! ### State.setGroup -/

@[simp] theorem State.setGroup_home (s : State) (g : Nat) (x : Group) : (s.setGroup g x).home = s.home := rfl
@[simp] theorem State.setGroup_host (s : State) (g : Nat) (x : Group) : (s.setGroup g x).host = s.host := rfl
@[simp] theorem State.setGroup_wordEdges (s : State) (g : Nat) (x : Group) : (s.setGroup g x).wordEdges = s.wordEdges := rfl
@[simp] theorem State.setGroup_time (s : State) (g : Nat) (x : Group) : (s.setGroup g x).time = s.time := rfl
@[simp] theorem State.setGroup_cores (s : State) (g : Nat) (x : Group) : (s.setGroup g x).cores = s.cores := rfl
@[simp] theorem State.setGroup_walks (s : State) (g : Nat) (x : Group) : (s.setGroup g x).walks = s.walks := rfl
@[simp] theorem State.setGroup_fibres (s : State) (g : Nat) (x : Group) : (s.setGroup g x).fibres = s.fibres := rfl
@[simp] theorem State.setGroup_frames (s : State) (g : Nat) (x : Group) : (s.setGroup g x).frames = s.frames := rfl
@[simp] theorem State.setGroup_groups (s : State) (g : Nat) (x : Group) : (s.setGroup g x).groups = s.groups.put g x := rfl
@[simp] theorem State.setGroup_launches (s : State) (g : Nat) (x : Group) : (s.setGroup g x).launches = s.launches := rfl
@[simp] theorem State.setGroup_contexts (s : State) (g : Nat) (x : Group) : (s.setGroup g x).contexts = s.contexts := rfl
@[simp] theorem State.setGroup_queues (s : State) (g : Nat) (x : Group) : (s.setGroup g x).queues = s.queues := rfl
@[simp] theorem State.setGroup_fresh (s : State) (g : Nat) (x : Group) : (s.setGroup g x).fresh = s.fresh := rfl
@[simp] theorem State.setGroup_node (s : State) (g : Nat) (x : Group) : (s.setGroup g x).node = s.node := rfl
@[simp] theorem State.setGroup_fences (s : State) (g : Nat) (x : Group) : (s.setGroup g x).fences = s.fences := rfl
@[simp] theorem State.setGroup_diesUp (s : State) (g : Nat) (x : Group) : (s.setGroup g x).diesUp = s.diesUp := rfl
@[simp] theorem State.setGroup_link (s : State) (g : Nat) (x : Group) : (s.setGroup g x).link = s.link := rfl
@[simp] theorem State.setGroup_platform (s : State) (g : Nat) (x : Group) : (s.setGroup g x).platform = s.platform := rfl
@[simp] theorem State.setGroup_mailbox (s : State) (g : Nat) (x : Group) : (s.setGroup g x).mailbox = s.mailbox := rfl
@[simp] theorem State.setGroup_debugWindow (s : State) (g : Nat) (x : Group) : (s.setGroup g x).debugWindow = s.debugWindow := rfl
@[simp] theorem State.setGroup_rdma (s : State) (g : Nat) (x : Group) : (s.setGroup g x).rdma = s.rdma := rfl
@[simp] theorem State.setGroup_pairErrors (s : State) (g : Nat) (x : Group) : (s.setGroup g x).pairErrors = s.pairErrors := rfl
@[simp] theorem State.setGroup_hostEvents (s : State) (g : Nat) (x : Group) : (s.setGroup g x).hostEvents = s.hostEvents := rfl
@[simp] theorem State.setGroup_jobs (s : State) (g : Nat) (x : Group) : (s.setGroup g x).jobs = s.jobs := rfl
@[simp] theorem State.setGroup_collectives (s : State) (g : Nat) (x : Group) : (s.setGroup g x).collectives = s.collectives := rfl
@[simp] theorem State.setGroup_marks (s : State) (g : Nat) (x : Group) : (s.setGroup g x).marks = s.marks := rfl
@[simp] theorem State.setGroup_pass (s : State) (g : Nat) (x : Group) : (s.setGroup g x).pass = s.pass := rfl
@[simp] theorem State.setGroup_schedule (s : State) (g : Nat) (x : Group) : (s.setGroup g x).schedule = s.schedule := rfl
@[simp] theorem State.setGroup_freeCount (s : State) (g : Nat) (x : Group) : (s.setGroup g x).freeCount = s.freeCount := rfl

/-! ### State.setLaunch -/

@[simp] theorem State.setLaunch_home (s : State) (l : Nat) (x : Launch) : (s.setLaunch l x).home = s.home := rfl
@[simp] theorem State.setLaunch_host (s : State) (l : Nat) (x : Launch) : (s.setLaunch l x).host = s.host := rfl
@[simp] theorem State.setLaunch_wordEdges (s : State) (l : Nat) (x : Launch) : (s.setLaunch l x).wordEdges = s.wordEdges := rfl
@[simp] theorem State.setLaunch_time (s : State) (l : Nat) (x : Launch) : (s.setLaunch l x).time = s.time := rfl
@[simp] theorem State.setLaunch_cores (s : State) (l : Nat) (x : Launch) : (s.setLaunch l x).cores = s.cores := rfl
@[simp] theorem State.setLaunch_walks (s : State) (l : Nat) (x : Launch) : (s.setLaunch l x).walks = s.walks := rfl
@[simp] theorem State.setLaunch_fibres (s : State) (l : Nat) (x : Launch) : (s.setLaunch l x).fibres = s.fibres := rfl
@[simp] theorem State.setLaunch_frames (s : State) (l : Nat) (x : Launch) : (s.setLaunch l x).frames = s.frames := rfl
@[simp] theorem State.setLaunch_groups (s : State) (l : Nat) (x : Launch) : (s.setLaunch l x).groups = s.groups := rfl
@[simp] theorem State.setLaunch_launches (s : State) (l : Nat) (x : Launch) : (s.setLaunch l x).launches = s.launches.put l x := rfl
@[simp] theorem State.setLaunch_contexts (s : State) (l : Nat) (x : Launch) : (s.setLaunch l x).contexts = s.contexts := rfl
@[simp] theorem State.setLaunch_queues (s : State) (l : Nat) (x : Launch) : (s.setLaunch l x).queues = s.queues := rfl
@[simp] theorem State.setLaunch_fresh (s : State) (l : Nat) (x : Launch) : (s.setLaunch l x).fresh = s.fresh := rfl
@[simp] theorem State.setLaunch_node (s : State) (l : Nat) (x : Launch) : (s.setLaunch l x).node = s.node := rfl
@[simp] theorem State.setLaunch_fences (s : State) (l : Nat) (x : Launch) : (s.setLaunch l x).fences = s.fences := rfl
@[simp] theorem State.setLaunch_diesUp (s : State) (l : Nat) (x : Launch) : (s.setLaunch l x).diesUp = s.diesUp := rfl
@[simp] theorem State.setLaunch_link (s : State) (l : Nat) (x : Launch) : (s.setLaunch l x).link = s.link := rfl
@[simp] theorem State.setLaunch_platform (s : State) (l : Nat) (x : Launch) : (s.setLaunch l x).platform = s.platform := rfl
@[simp] theorem State.setLaunch_mailbox (s : State) (l : Nat) (x : Launch) : (s.setLaunch l x).mailbox = s.mailbox := rfl
@[simp] theorem State.setLaunch_debugWindow (s : State) (l : Nat) (x : Launch) : (s.setLaunch l x).debugWindow = s.debugWindow := rfl
@[simp] theorem State.setLaunch_rdma (s : State) (l : Nat) (x : Launch) : (s.setLaunch l x).rdma = s.rdma := rfl
@[simp] theorem State.setLaunch_pairErrors (s : State) (l : Nat) (x : Launch) : (s.setLaunch l x).pairErrors = s.pairErrors := rfl
@[simp] theorem State.setLaunch_hostEvents (s : State) (l : Nat) (x : Launch) : (s.setLaunch l x).hostEvents = s.hostEvents := rfl
@[simp] theorem State.setLaunch_jobs (s : State) (l : Nat) (x : Launch) : (s.setLaunch l x).jobs = s.jobs := rfl
@[simp] theorem State.setLaunch_collectives (s : State) (l : Nat) (x : Launch) : (s.setLaunch l x).collectives = s.collectives := rfl
@[simp] theorem State.setLaunch_marks (s : State) (l : Nat) (x : Launch) : (s.setLaunch l x).marks = s.marks := rfl
@[simp] theorem State.setLaunch_pass (s : State) (l : Nat) (x : Launch) : (s.setLaunch l x).pass = s.pass := rfl
@[simp] theorem State.setLaunch_schedule (s : State) (l : Nat) (x : Launch) : (s.setLaunch l x).schedule = s.schedule := rfl
@[simp] theorem State.setLaunch_freeCount (s : State) (l : Nat) (x : Launch) : (s.setLaunch l x).freeCount = s.freeCount := rfl

/-! ### State.setContext -/

@[simp] theorem State.setContext_home (s : State) (c : Nat) (x : Context) : (s.setContext c x).home = s.home := rfl
@[simp] theorem State.setContext_host (s : State) (c : Nat) (x : Context) : (s.setContext c x).host = s.host := rfl
@[simp] theorem State.setContext_wordEdges (s : State) (c : Nat) (x : Context) : (s.setContext c x).wordEdges = s.wordEdges := rfl
@[simp] theorem State.setContext_time (s : State) (c : Nat) (x : Context) : (s.setContext c x).time = s.time := rfl
@[simp] theorem State.setContext_cores (s : State) (c : Nat) (x : Context) : (s.setContext c x).cores = s.cores := rfl
@[simp] theorem State.setContext_walks (s : State) (c : Nat) (x : Context) : (s.setContext c x).walks = s.walks := rfl
@[simp] theorem State.setContext_fibres (s : State) (c : Nat) (x : Context) : (s.setContext c x).fibres = s.fibres := rfl
@[simp] theorem State.setContext_frames (s : State) (c : Nat) (x : Context) : (s.setContext c x).frames = s.frames := rfl
@[simp] theorem State.setContext_groups (s : State) (c : Nat) (x : Context) : (s.setContext c x).groups = s.groups := rfl
@[simp] theorem State.setContext_launches (s : State) (c : Nat) (x : Context) : (s.setContext c x).launches = s.launches := rfl
@[simp] theorem State.setContext_contexts (s : State) (c : Nat) (x : Context) : (s.setContext c x).contexts = s.contexts.put c x := rfl
@[simp] theorem State.setContext_queues (s : State) (c : Nat) (x : Context) : (s.setContext c x).queues = s.queues := rfl
@[simp] theorem State.setContext_fresh (s : State) (c : Nat) (x : Context) : (s.setContext c x).fresh = s.fresh := rfl
@[simp] theorem State.setContext_node (s : State) (c : Nat) (x : Context) : (s.setContext c x).node = s.node := rfl
@[simp] theorem State.setContext_fences (s : State) (c : Nat) (x : Context) : (s.setContext c x).fences = s.fences := rfl
@[simp] theorem State.setContext_diesUp (s : State) (c : Nat) (x : Context) : (s.setContext c x).diesUp = s.diesUp := rfl
@[simp] theorem State.setContext_link (s : State) (c : Nat) (x : Context) : (s.setContext c x).link = s.link := rfl
@[simp] theorem State.setContext_platform (s : State) (c : Nat) (x : Context) : (s.setContext c x).platform = s.platform := rfl
@[simp] theorem State.setContext_mailbox (s : State) (c : Nat) (x : Context) : (s.setContext c x).mailbox = s.mailbox := rfl
@[simp] theorem State.setContext_debugWindow (s : State) (c : Nat) (x : Context) : (s.setContext c x).debugWindow = s.debugWindow := rfl
@[simp] theorem State.setContext_rdma (s : State) (c : Nat) (x : Context) : (s.setContext c x).rdma = s.rdma := rfl
@[simp] theorem State.setContext_pairErrors (s : State) (c : Nat) (x : Context) : (s.setContext c x).pairErrors = s.pairErrors := rfl
@[simp] theorem State.setContext_hostEvents (s : State) (c : Nat) (x : Context) : (s.setContext c x).hostEvents = s.hostEvents := rfl
@[simp] theorem State.setContext_jobs (s : State) (c : Nat) (x : Context) : (s.setContext c x).jobs = s.jobs := rfl
@[simp] theorem State.setContext_collectives (s : State) (c : Nat) (x : Context) : (s.setContext c x).collectives = s.collectives := rfl
@[simp] theorem State.setContext_marks (s : State) (c : Nat) (x : Context) : (s.setContext c x).marks = s.marks := rfl
@[simp] theorem State.setContext_pass (s : State) (c : Nat) (x : Context) : (s.setContext c x).pass = s.pass := rfl
@[simp] theorem State.setContext_schedule (s : State) (c : Nat) (x : Context) : (s.setContext c x).schedule = s.schedule := rfl
@[simp] theorem State.setContext_freeCount (s : State) (c : Nat) (x : Context) : (s.setContext c x).freeCount = s.freeCount := rfl

/-! ### State.setQueue -/

@[simp] theorem State.setQueue_home (s : State) (q : Nat) (x : Queue) : (s.setQueue q x).home = s.home := rfl
@[simp] theorem State.setQueue_host (s : State) (q : Nat) (x : Queue) : (s.setQueue q x).host = s.host := rfl
@[simp] theorem State.setQueue_wordEdges (s : State) (q : Nat) (x : Queue) : (s.setQueue q x).wordEdges = s.wordEdges := rfl
@[simp] theorem State.setQueue_time (s : State) (q : Nat) (x : Queue) : (s.setQueue q x).time = s.time := rfl
@[simp] theorem State.setQueue_cores (s : State) (q : Nat) (x : Queue) : (s.setQueue q x).cores = s.cores := rfl
@[simp] theorem State.setQueue_walks (s : State) (q : Nat) (x : Queue) : (s.setQueue q x).walks = s.walks := rfl
@[simp] theorem State.setQueue_fibres (s : State) (q : Nat) (x : Queue) : (s.setQueue q x).fibres = s.fibres := rfl
@[simp] theorem State.setQueue_frames (s : State) (q : Nat) (x : Queue) : (s.setQueue q x).frames = s.frames := rfl
@[simp] theorem State.setQueue_groups (s : State) (q : Nat) (x : Queue) : (s.setQueue q x).groups = s.groups := rfl
@[simp] theorem State.setQueue_launches (s : State) (q : Nat) (x : Queue) : (s.setQueue q x).launches = s.launches := rfl
@[simp] theorem State.setQueue_contexts (s : State) (q : Nat) (x : Queue) : (s.setQueue q x).contexts = s.contexts := rfl
@[simp] theorem State.setQueue_queues (s : State) (q : Nat) (x : Queue) : (s.setQueue q x).queues = s.queues.put q x := rfl
@[simp] theorem State.setQueue_fresh (s : State) (q : Nat) (x : Queue) : (s.setQueue q x).fresh = s.fresh := rfl
@[simp] theorem State.setQueue_node (s : State) (q : Nat) (x : Queue) : (s.setQueue q x).node = s.node := rfl
@[simp] theorem State.setQueue_fences (s : State) (q : Nat) (x : Queue) : (s.setQueue q x).fences = s.fences := rfl
@[simp] theorem State.setQueue_diesUp (s : State) (q : Nat) (x : Queue) : (s.setQueue q x).diesUp = s.diesUp := rfl
@[simp] theorem State.setQueue_link (s : State) (q : Nat) (x : Queue) : (s.setQueue q x).link = s.link := rfl
@[simp] theorem State.setQueue_platform (s : State) (q : Nat) (x : Queue) : (s.setQueue q x).platform = s.platform := rfl
@[simp] theorem State.setQueue_mailbox (s : State) (q : Nat) (x : Queue) : (s.setQueue q x).mailbox = s.mailbox := rfl
@[simp] theorem State.setQueue_debugWindow (s : State) (q : Nat) (x : Queue) : (s.setQueue q x).debugWindow = s.debugWindow := rfl
@[simp] theorem State.setQueue_rdma (s : State) (q : Nat) (x : Queue) : (s.setQueue q x).rdma = s.rdma := rfl
@[simp] theorem State.setQueue_pairErrors (s : State) (q : Nat) (x : Queue) : (s.setQueue q x).pairErrors = s.pairErrors := rfl
@[simp] theorem State.setQueue_hostEvents (s : State) (q : Nat) (x : Queue) : (s.setQueue q x).hostEvents = s.hostEvents := rfl
@[simp] theorem State.setQueue_jobs (s : State) (q : Nat) (x : Queue) : (s.setQueue q x).jobs = s.jobs := rfl
@[simp] theorem State.setQueue_collectives (s : State) (q : Nat) (x : Queue) : (s.setQueue q x).collectives = s.collectives := rfl
@[simp] theorem State.setQueue_marks (s : State) (q : Nat) (x : Queue) : (s.setQueue q x).marks = s.marks := rfl
@[simp] theorem State.setQueue_pass (s : State) (q : Nat) (x : Queue) : (s.setQueue q x).pass = s.pass := rfl
@[simp] theorem State.setQueue_schedule (s : State) (q : Nat) (x : Queue) : (s.setQueue q x).schedule = s.schedule := rfl
@[simp] theorem State.setQueue_freeCount (s : State) (q : Nat) (x : Queue) : (s.setQueue q x).freeCount = s.freeCount := rfl

/-! ### Fibre.push -/

@[simp] theorem Fibre.push_context (x : Fibre) (v : Word) : (x.push v).context = x.context := by simp only [Fibre.push]
@[simp] theorem Fibre.push_launch (x : Fibre) (v : Word) : (x.push v).launch = x.launch := by simp only [Fibre.push]
@[simp] theorem Fibre.push_group (x : Fibre) (v : Word) : (x.push v).group = x.group := by simp only [Fibre.push]
@[simp] theorem Fibre.push_core (x : Fibre) (v : Word) : (x.push v).core = x.core := by simp only [Fibre.push]
@[simp] theorem Fibre.push_fid (x : Fibre) (v : Word) : (x.push v).fid = x.fid := by simp only [Fibre.push]
@[simp] theorem Fibre.push_life (x : Fibre) (v : Word) : (x.push v).life = x.life := by simp only [Fibre.push]
@[simp] theorem Fibre.push_pc (x : Fibre) (v : Word) : (x.push v).pc = x.pc := by simp only [Fibre.push]
@[simp] theorem Fibre.push_preds (x : Fibre) (v : Word) : (x.push v).preds = x.preds := by simp only [Fibre.push]
@[simp] theorem Fibre.push_ages (x : Fibre) (v : Word) : (x.push v).ages = pushAge x.ages v := by simp only [Fibre.push]
@[simp] theorem Fibre.push_window (x : Fibre) (v : Word) : (x.push v).window = x.window := by simp only [Fibre.push]
@[simp] theorem Fibre.push_windowBase (x : Fibre) (v : Word) : (x.push v).windowBase = x.windowBase := by simp only [Fibre.push]
@[simp] theorem Fibre.push_named (x : Fibre) (v : Word) : (x.push v).named = x.named := by simp only [Fibre.push]
@[simp] theorem Fibre.push_vregs (x : Fibre) (v : Word) : (x.push v).vregs = x.vregs := by simp only [Fibre.push]
@[simp] theorem Fibre.push_masks (x : Fibre) (v : Word) : (x.push v).masks = x.masks := by simp only [Fibre.push]
@[simp] theorem Fibre.push_quota (x : Fibre) (v : Word) : (x.push v).quota = x.quota := by simp only [Fibre.push]
@[simp] theorem Fibre.push_rkey (x : Fibre) (v : Word) : (x.push v).rkey = x.rkey := by simp only [Fibre.push]
@[simp] theorem Fibre.push_rctr (x : Fibre) (v : Word) : (x.push v).rctr = x.rctr := by simp only [Fibre.push]
@[simp] theorem Fibre.push_rep (x : Fibre) (v : Word) : (x.push v).rep = x.rep := by simp only [Fibre.push]
@[simp] theorem Fibre.push_counts (x : Fibre) (v : Word) : (x.push v).counts = x.counts := by simp only [Fibre.push]
@[simp] theorem Fibre.push_issued (x : Fibre) (v : Word) : (x.push v).issued = x.issued := by simp only [Fibre.push]
@[simp] theorem Fibre.push_flags (x : Fibre) (v : Word) : (x.push v).flags = x.flags := by simp only [Fibre.push]
@[simp] theorem Fibre.push_sp (x : Fibre) (v : Word) : (x.push v).sp = x.sp := by simp only [Fibre.push]
@[simp] theorem Fibre.push_stackSize (x : Fibre) (v : Word) : (x.push v).stackSize = x.stackSize := by simp only [Fibre.push]
@[simp] theorem Fibre.push_stack (x : Fibre) (v : Word) : (x.push v).stack = x.stack := by simp only [Fibre.push]
@[simp] theorem Fibre.push_badStack (x : Fibre) (v : Word) : (x.push v).badStack = x.badStack := by simp only [Fibre.push]
@[simp] theorem Fibre.push_trap (x : Fibre) (v : Word) : (x.push v).trap = x.trap := by simp only [Fibre.push]
@[simp] theorem Fibre.push_hints (x : Fibre) (v : Word) : (x.push v).hints = x.hints := by simp only [Fibre.push]
@[simp] theorem Fibre.push_queues (x : Fibre) (v : Word) : (x.push v).queues = x.queues := by simp only [Fibre.push]
@[simp] theorem Fibre.push_popped (x : Fibre) (v : Word) : (x.push v).popped = x.popped := by simp only [Fibre.push]
@[simp] theorem Fibre.push_pops (x : Fibre) (v : Word) : (x.push v).pops = x.pops := by simp only [Fibre.push]
@[simp] theorem Fibre.push_pushing (x : Fibre) (v : Word) : (x.push v).pushing = x.pushing := by simp only [Fibre.push]
@[simp] theorem Fibre.push_pend (x : Fibre) (v : Word) : (x.push v).pend = x.pend.map fun p => { p with dest := p.dest.pushed } := by simp only [Fibre.push]
@[simp] theorem Fibre.push_rays (x : Fibre) (v : Word) : (x.push v).rays = x.rays := by simp only [Fibre.push]
@[simp] theorem Fibre.push_bank (x : Fibre) (v : Word) : (x.push v).bank = x.bank := by simp only [Fibre.push]
@[simp] theorem Fibre.push_lineage (x : Fibre) (v : Word) : (x.push v).lineage = x.lineage := by simp only [Fibre.push]
@[simp] theorem Fibre.push_launches (x : Fibre) (v : Word) : (x.push v).launches = x.launches := by simp only [Fibre.push]
@[simp] theorem Fibre.push_milestone (x : Fibre) (v : Word) : (x.push v).milestone = x.milestone := by simp only [Fibre.push]
@[simp] theorem Fibre.push_cls (x : Fibre) (v : Word) : (x.push v).cls = x.cls := by simp only [Fibre.push]
@[simp] theorem Fibre.push_speculative (x : Fibre) (v : Word) : (x.push v).speculative = x.speculative := by simp only [Fibre.push]
@[simp] theorem Fibre.push_acquired (x : Fibre) (v : Word) : (x.push v).acquired = x.acquired := by simp only [Fibre.push]
@[simp] theorem Fibre.push_mark (x : Fibre) (v : Word) : (x.push v).mark = x.mark := by simp only [Fibre.push]
@[simp] theorem Fibre.push_copies (x : Fibre) (v : Word) : (x.push v).copies = x.copies := by simp only [Fibre.push]
@[simp] theorem Fibre.push_copyFaults (x : Fibre) (v : Word) : (x.push v).copyFaults = x.copyFaults := by simp only [Fibre.push]
@[simp] theorem Fibre.push_bindingFault (x : Fibre) (v : Word) : (x.push v).bindingFault = x.bindingFault := by simp only [Fibre.push]
@[simp] theorem Fibre.push_held (x : Fibre) (v : Word) : (x.push v).held = x.held := by simp only [Fibre.push]
@[simp] theorem Fibre.push_target (x : Fibre) (v : Word) : (x.push v).target = x.target := by simp only [Fibre.push]
@[simp] theorem Fibre.push_parkOrder (x : Fibre) (v : Word) : (x.push v).parkOrder = x.parkOrder := by simp only [Fibre.push]
@[simp] theorem Fibre.push_place (x : Fibre) (v : Word) : (x.push v).place = x.place := by simp only [Fibre.push]
@[simp] theorem Fibre.push_stepDue (x : Fibre) (v : Word) : (x.push v).stepDue = x.stepDue := by simp only [Fibre.push]
@[simp] theorem Fibre.push_rayRequest (x : Fibre) (v : Word) : (x.push v).rayRequest = x.rayRequest := by simp only [Fibre.push]

/-! ### Fibre.setNamed -/

@[simp] theorem Fibre.setNamed_context (x : Fibre) (j : Nat) (v : Word) : (x.setNamed j v).context = x.context := by simp only [Fibre.setNamed]
@[simp] theorem Fibre.setNamed_launch (x : Fibre) (j : Nat) (v : Word) : (x.setNamed j v).launch = x.launch := by simp only [Fibre.setNamed]
@[simp] theorem Fibre.setNamed_group (x : Fibre) (j : Nat) (v : Word) : (x.setNamed j v).group = x.group := by simp only [Fibre.setNamed]
@[simp] theorem Fibre.setNamed_core (x : Fibre) (j : Nat) (v : Word) : (x.setNamed j v).core = x.core := by simp only [Fibre.setNamed]
@[simp] theorem Fibre.setNamed_fid (x : Fibre) (j : Nat) (v : Word) : (x.setNamed j v).fid = x.fid := by simp only [Fibre.setNamed]
@[simp] theorem Fibre.setNamed_life (x : Fibre) (j : Nat) (v : Word) : (x.setNamed j v).life = x.life := by simp only [Fibre.setNamed]
@[simp] theorem Fibre.setNamed_pc (x : Fibre) (j : Nat) (v : Word) : (x.setNamed j v).pc = x.pc := by simp only [Fibre.setNamed]
@[simp] theorem Fibre.setNamed_preds (x : Fibre) (j : Nat) (v : Word) : (x.setNamed j v).preds = x.preds := by simp only [Fibre.setNamed]
@[simp] theorem Fibre.setNamed_ages (x : Fibre) (j : Nat) (v : Word) : (x.setNamed j v).ages = x.ages := by simp only [Fibre.setNamed]
@[simp] theorem Fibre.setNamed_window (x : Fibre) (j : Nat) (v : Word) : (x.setNamed j v).window = x.window := by simp only [Fibre.setNamed]
@[simp] theorem Fibre.setNamed_windowBase (x : Fibre) (j : Nat) (v : Word) : (x.setNamed j v).windowBase = x.windowBase := by simp only [Fibre.setNamed]
@[simp] theorem Fibre.setNamed_named (x : Fibre) (j : Nat) (v : Word) : (x.setNamed j v).named = x.named.setIfInBounds j v := by simp only [Fibre.setNamed]
@[simp] theorem Fibre.setNamed_vregs (x : Fibre) (j : Nat) (v : Word) : (x.setNamed j v).vregs = x.vregs := by simp only [Fibre.setNamed]
@[simp] theorem Fibre.setNamed_masks (x : Fibre) (j : Nat) (v : Word) : (x.setNamed j v).masks = x.masks := by simp only [Fibre.setNamed]
@[simp] theorem Fibre.setNamed_quota (x : Fibre) (j : Nat) (v : Word) : (x.setNamed j v).quota = x.quota := by simp only [Fibre.setNamed]
@[simp] theorem Fibre.setNamed_rkey (x : Fibre) (j : Nat) (v : Word) : (x.setNamed j v).rkey = x.rkey := by simp only [Fibre.setNamed]
@[simp] theorem Fibre.setNamed_rctr (x : Fibre) (j : Nat) (v : Word) : (x.setNamed j v).rctr = x.rctr := by simp only [Fibre.setNamed]
@[simp] theorem Fibre.setNamed_rep (x : Fibre) (j : Nat) (v : Word) : (x.setNamed j v).rep = x.rep := by simp only [Fibre.setNamed]
@[simp] theorem Fibre.setNamed_counts (x : Fibre) (j : Nat) (v : Word) : (x.setNamed j v).counts = x.counts := by simp only [Fibre.setNamed]
@[simp] theorem Fibre.setNamed_issued (x : Fibre) (j : Nat) (v : Word) : (x.setNamed j v).issued = x.issued := by simp only [Fibre.setNamed]
@[simp] theorem Fibre.setNamed_flags (x : Fibre) (j : Nat) (v : Word) : (x.setNamed j v).flags = x.flags := by simp only [Fibre.setNamed]
@[simp] theorem Fibre.setNamed_sp (x : Fibre) (j : Nat) (v : Word) : (x.setNamed j v).sp = x.sp := by simp only [Fibre.setNamed]
@[simp] theorem Fibre.setNamed_stackSize (x : Fibre) (j : Nat) (v : Word) : (x.setNamed j v).stackSize = x.stackSize := by simp only [Fibre.setNamed]
@[simp] theorem Fibre.setNamed_stack (x : Fibre) (j : Nat) (v : Word) : (x.setNamed j v).stack = x.stack := by simp only [Fibre.setNamed]
@[simp] theorem Fibre.setNamed_badStack (x : Fibre) (j : Nat) (v : Word) : (x.setNamed j v).badStack = x.badStack := by simp only [Fibre.setNamed]
@[simp] theorem Fibre.setNamed_trap (x : Fibre) (j : Nat) (v : Word) : (x.setNamed j v).trap = x.trap := by simp only [Fibre.setNamed]
@[simp] theorem Fibre.setNamed_hints (x : Fibre) (j : Nat) (v : Word) : (x.setNamed j v).hints = x.hints := by simp only [Fibre.setNamed]
@[simp] theorem Fibre.setNamed_queues (x : Fibre) (j : Nat) (v : Word) : (x.setNamed j v).queues = x.queues := by simp only [Fibre.setNamed]
@[simp] theorem Fibre.setNamed_popped (x : Fibre) (j : Nat) (v : Word) : (x.setNamed j v).popped = x.popped := by simp only [Fibre.setNamed]
@[simp] theorem Fibre.setNamed_pops (x : Fibre) (j : Nat) (v : Word) : (x.setNamed j v).pops = x.pops := by simp only [Fibre.setNamed]
@[simp] theorem Fibre.setNamed_pushing (x : Fibre) (j : Nat) (v : Word) : (x.setNamed j v).pushing = x.pushing := by simp only [Fibre.setNamed]
@[simp] theorem Fibre.setNamed_pend (x : Fibre) (j : Nat) (v : Word) : (x.setNamed j v).pend = x.pend := by simp only [Fibre.setNamed]
@[simp] theorem Fibre.setNamed_rays (x : Fibre) (j : Nat) (v : Word) : (x.setNamed j v).rays = x.rays := by simp only [Fibre.setNamed]
@[simp] theorem Fibre.setNamed_bank (x : Fibre) (j : Nat) (v : Word) : (x.setNamed j v).bank = x.bank := by simp only [Fibre.setNamed]
@[simp] theorem Fibre.setNamed_lineage (x : Fibre) (j : Nat) (v : Word) : (x.setNamed j v).lineage = x.lineage := by simp only [Fibre.setNamed]
@[simp] theorem Fibre.setNamed_launches (x : Fibre) (j : Nat) (v : Word) : (x.setNamed j v).launches = x.launches := by simp only [Fibre.setNamed]
@[simp] theorem Fibre.setNamed_milestone (x : Fibre) (j : Nat) (v : Word) : (x.setNamed j v).milestone = x.milestone := by simp only [Fibre.setNamed]
@[simp] theorem Fibre.setNamed_cls (x : Fibre) (j : Nat) (v : Word) : (x.setNamed j v).cls = x.cls := by simp only [Fibre.setNamed]
@[simp] theorem Fibre.setNamed_speculative (x : Fibre) (j : Nat) (v : Word) : (x.setNamed j v).speculative = x.speculative := by simp only [Fibre.setNamed]
@[simp] theorem Fibre.setNamed_acquired (x : Fibre) (j : Nat) (v : Word) : (x.setNamed j v).acquired = x.acquired := by simp only [Fibre.setNamed]
@[simp] theorem Fibre.setNamed_mark (x : Fibre) (j : Nat) (v : Word) : (x.setNamed j v).mark = x.mark := by simp only [Fibre.setNamed]
@[simp] theorem Fibre.setNamed_copies (x : Fibre) (j : Nat) (v : Word) : (x.setNamed j v).copies = x.copies := by simp only [Fibre.setNamed]
@[simp] theorem Fibre.setNamed_copyFaults (x : Fibre) (j : Nat) (v : Word) : (x.setNamed j v).copyFaults = x.copyFaults := by simp only [Fibre.setNamed]
@[simp] theorem Fibre.setNamed_bindingFault (x : Fibre) (j : Nat) (v : Word) : (x.setNamed j v).bindingFault = x.bindingFault := by simp only [Fibre.setNamed]
@[simp] theorem Fibre.setNamed_held (x : Fibre) (j : Nat) (v : Word) : (x.setNamed j v).held = x.held := by simp only [Fibre.setNamed]
@[simp] theorem Fibre.setNamed_target (x : Fibre) (j : Nat) (v : Word) : (x.setNamed j v).target = x.target := by simp only [Fibre.setNamed]
@[simp] theorem Fibre.setNamed_parkOrder (x : Fibre) (j : Nat) (v : Word) : (x.setNamed j v).parkOrder = x.parkOrder := by simp only [Fibre.setNamed]
@[simp] theorem Fibre.setNamed_place (x : Fibre) (j : Nat) (v : Word) : (x.setNamed j v).place = x.place := by simp only [Fibre.setNamed]
@[simp] theorem Fibre.setNamed_stepDue (x : Fibre) (j : Nat) (v : Word) : (x.setNamed j v).stepDue = x.stepDue := by simp only [Fibre.setNamed]
@[simp] theorem Fibre.setNamed_rayRequest (x : Fibre) (j : Nat) (v : Word) : (x.setNamed j v).rayRequest = x.rayRequest := by simp only [Fibre.setNamed]

/-! ### Fibre.orFlags -/

@[simp] theorem Fibre.orFlags_context (x : Fibre) (fl : FlagSet) : (x.orFlags fl).context = x.context := by simp only [Fibre.orFlags]
@[simp] theorem Fibre.orFlags_launch (x : Fibre) (fl : FlagSet) : (x.orFlags fl).launch = x.launch := by simp only [Fibre.orFlags]
@[simp] theorem Fibre.orFlags_group (x : Fibre) (fl : FlagSet) : (x.orFlags fl).group = x.group := by simp only [Fibre.orFlags]
@[simp] theorem Fibre.orFlags_core (x : Fibre) (fl : FlagSet) : (x.orFlags fl).core = x.core := by simp only [Fibre.orFlags]
@[simp] theorem Fibre.orFlags_fid (x : Fibre) (fl : FlagSet) : (x.orFlags fl).fid = x.fid := by simp only [Fibre.orFlags]
@[simp] theorem Fibre.orFlags_life (x : Fibre) (fl : FlagSet) : (x.orFlags fl).life = x.life := by simp only [Fibre.orFlags]
@[simp] theorem Fibre.orFlags_pc (x : Fibre) (fl : FlagSet) : (x.orFlags fl).pc = x.pc := by simp only [Fibre.orFlags]
@[simp] theorem Fibre.orFlags_preds (x : Fibre) (fl : FlagSet) : (x.orFlags fl).preds = x.preds := by simp only [Fibre.orFlags]
@[simp] theorem Fibre.orFlags_ages (x : Fibre) (fl : FlagSet) : (x.orFlags fl).ages = x.ages := by simp only [Fibre.orFlags]
@[simp] theorem Fibre.orFlags_window (x : Fibre) (fl : FlagSet) : (x.orFlags fl).window = x.window := by simp only [Fibre.orFlags]
@[simp] theorem Fibre.orFlags_windowBase (x : Fibre) (fl : FlagSet) : (x.orFlags fl).windowBase = x.windowBase := by simp only [Fibre.orFlags]
@[simp] theorem Fibre.orFlags_named (x : Fibre) (fl : FlagSet) : (x.orFlags fl).named = x.named := by simp only [Fibre.orFlags]
@[simp] theorem Fibre.orFlags_vregs (x : Fibre) (fl : FlagSet) : (x.orFlags fl).vregs = x.vregs := by simp only [Fibre.orFlags]
@[simp] theorem Fibre.orFlags_masks (x : Fibre) (fl : FlagSet) : (x.orFlags fl).masks = x.masks := by simp only [Fibre.orFlags]
@[simp] theorem Fibre.orFlags_quota (x : Fibre) (fl : FlagSet) : (x.orFlags fl).quota = x.quota := by simp only [Fibre.orFlags]
@[simp] theorem Fibre.orFlags_rkey (x : Fibre) (fl : FlagSet) : (x.orFlags fl).rkey = x.rkey := by simp only [Fibre.orFlags]
@[simp] theorem Fibre.orFlags_rctr (x : Fibre) (fl : FlagSet) : (x.orFlags fl).rctr = x.rctr := by simp only [Fibre.orFlags]
@[simp] theorem Fibre.orFlags_rep (x : Fibre) (fl : FlagSet) : (x.orFlags fl).rep = x.rep := by simp only [Fibre.orFlags]
@[simp] theorem Fibre.orFlags_counts (x : Fibre) (fl : FlagSet) : (x.orFlags fl).counts = x.counts := by simp only [Fibre.orFlags]
@[simp] theorem Fibre.orFlags_issued (x : Fibre) (fl : FlagSet) : (x.orFlags fl).issued = x.issued := by simp only [Fibre.orFlags]
@[simp] theorem Fibre.orFlags_flags (x : Fibre) (fl : FlagSet) : (x.orFlags fl).flags = x.flags ||| fl := by simp only [Fibre.orFlags]
@[simp] theorem Fibre.orFlags_sp (x : Fibre) (fl : FlagSet) : (x.orFlags fl).sp = x.sp := by simp only [Fibre.orFlags]
@[simp] theorem Fibre.orFlags_stackSize (x : Fibre) (fl : FlagSet) : (x.orFlags fl).stackSize = x.stackSize := by simp only [Fibre.orFlags]
@[simp] theorem Fibre.orFlags_stack (x : Fibre) (fl : FlagSet) : (x.orFlags fl).stack = x.stack := by simp only [Fibre.orFlags]
@[simp] theorem Fibre.orFlags_badStack (x : Fibre) (fl : FlagSet) : (x.orFlags fl).badStack = x.badStack := by simp only [Fibre.orFlags]
@[simp] theorem Fibre.orFlags_trap (x : Fibre) (fl : FlagSet) : (x.orFlags fl).trap = x.trap := by simp only [Fibre.orFlags]
@[simp] theorem Fibre.orFlags_hints (x : Fibre) (fl : FlagSet) : (x.orFlags fl).hints = x.hints := by simp only [Fibre.orFlags]
@[simp] theorem Fibre.orFlags_queues (x : Fibre) (fl : FlagSet) : (x.orFlags fl).queues = x.queues := by simp only [Fibre.orFlags]
@[simp] theorem Fibre.orFlags_popped (x : Fibre) (fl : FlagSet) : (x.orFlags fl).popped = x.popped := by simp only [Fibre.orFlags]
@[simp] theorem Fibre.orFlags_pops (x : Fibre) (fl : FlagSet) : (x.orFlags fl).pops = x.pops := by simp only [Fibre.orFlags]
@[simp] theorem Fibre.orFlags_pushing (x : Fibre) (fl : FlagSet) : (x.orFlags fl).pushing = x.pushing := by simp only [Fibre.orFlags]
@[simp] theorem Fibre.orFlags_pend (x : Fibre) (fl : FlagSet) : (x.orFlags fl).pend = x.pend := by simp only [Fibre.orFlags]
@[simp] theorem Fibre.orFlags_rays (x : Fibre) (fl : FlagSet) : (x.orFlags fl).rays = x.rays := by simp only [Fibre.orFlags]
@[simp] theorem Fibre.orFlags_bank (x : Fibre) (fl : FlagSet) : (x.orFlags fl).bank = x.bank := by simp only [Fibre.orFlags]
@[simp] theorem Fibre.orFlags_lineage (x : Fibre) (fl : FlagSet) : (x.orFlags fl).lineage = x.lineage := by simp only [Fibre.orFlags]
@[simp] theorem Fibre.orFlags_launches (x : Fibre) (fl : FlagSet) : (x.orFlags fl).launches = x.launches := by simp only [Fibre.orFlags]
@[simp] theorem Fibre.orFlags_milestone (x : Fibre) (fl : FlagSet) : (x.orFlags fl).milestone = x.milestone := by simp only [Fibre.orFlags]
@[simp] theorem Fibre.orFlags_cls (x : Fibre) (fl : FlagSet) : (x.orFlags fl).cls = x.cls := by simp only [Fibre.orFlags]
@[simp] theorem Fibre.orFlags_speculative (x : Fibre) (fl : FlagSet) : (x.orFlags fl).speculative = x.speculative := by simp only [Fibre.orFlags]
@[simp] theorem Fibre.orFlags_acquired (x : Fibre) (fl : FlagSet) : (x.orFlags fl).acquired = x.acquired := by simp only [Fibre.orFlags]
@[simp] theorem Fibre.orFlags_mark (x : Fibre) (fl : FlagSet) : (x.orFlags fl).mark = x.mark := by simp only [Fibre.orFlags]
@[simp] theorem Fibre.orFlags_copies (x : Fibre) (fl : FlagSet) : (x.orFlags fl).copies = x.copies := by simp only [Fibre.orFlags]
@[simp] theorem Fibre.orFlags_copyFaults (x : Fibre) (fl : FlagSet) : (x.orFlags fl).copyFaults = x.copyFaults := by simp only [Fibre.orFlags]
@[simp] theorem Fibre.orFlags_bindingFault (x : Fibre) (fl : FlagSet) : (x.orFlags fl).bindingFault = x.bindingFault := by simp only [Fibre.orFlags]
@[simp] theorem Fibre.orFlags_held (x : Fibre) (fl : FlagSet) : (x.orFlags fl).held = x.held := by simp only [Fibre.orFlags]
@[simp] theorem Fibre.orFlags_target (x : Fibre) (fl : FlagSet) : (x.orFlags fl).target = x.target := by simp only [Fibre.orFlags]
@[simp] theorem Fibre.orFlags_parkOrder (x : Fibre) (fl : FlagSet) : (x.orFlags fl).parkOrder = x.parkOrder := by simp only [Fibre.orFlags]
@[simp] theorem Fibre.orFlags_place (x : Fibre) (fl : FlagSet) : (x.orFlags fl).place = x.place := by simp only [Fibre.orFlags]
@[simp] theorem Fibre.orFlags_stepDue (x : Fibre) (fl : FlagSet) : (x.orFlags fl).stepDue = x.stepDue := by simp only [Fibre.orFlags]
@[simp] theorem Fibre.orFlags_rayRequest (x : Fibre) (fl : FlagSet) : (x.orFlags fl).rayRequest = x.rayRequest := by simp only [Fibre.orFlags]

/-! ### Fibre.setPred -/

@[simp] theorem Fibre.setPred_context (x : Fibre) (p : Fin 8) (b : Bool) : (x.setPred p b).context = x.context := by simp only [Fibre.setPred]
@[simp] theorem Fibre.setPred_launch (x : Fibre) (p : Fin 8) (b : Bool) : (x.setPred p b).launch = x.launch := by simp only [Fibre.setPred]
@[simp] theorem Fibre.setPred_group (x : Fibre) (p : Fin 8) (b : Bool) : (x.setPred p b).group = x.group := by simp only [Fibre.setPred]
@[simp] theorem Fibre.setPred_core (x : Fibre) (p : Fin 8) (b : Bool) : (x.setPred p b).core = x.core := by simp only [Fibre.setPred]
@[simp] theorem Fibre.setPred_fid (x : Fibre) (p : Fin 8) (b : Bool) : (x.setPred p b).fid = x.fid := by simp only [Fibre.setPred]
@[simp] theorem Fibre.setPred_life (x : Fibre) (p : Fin 8) (b : Bool) : (x.setPred p b).life = x.life := by simp only [Fibre.setPred]
@[simp] theorem Fibre.setPred_pc (x : Fibre) (p : Fin 8) (b : Bool) : (x.setPred p b).pc = x.pc := by simp only [Fibre.setPred]
@[simp] theorem Fibre.setPred_preds (x : Fibre) (p : Fin 8) (b : Bool) : (x.setPred p b).preds = setPredBit x.preds p.val b := by simp only [Fibre.setPred]
@[simp] theorem Fibre.setPred_ages (x : Fibre) (p : Fin 8) (b : Bool) : (x.setPred p b).ages = x.ages := by simp only [Fibre.setPred]
@[simp] theorem Fibre.setPred_window (x : Fibre) (p : Fin 8) (b : Bool) : (x.setPred p b).window = x.window := by simp only [Fibre.setPred]
@[simp] theorem Fibre.setPred_windowBase (x : Fibre) (p : Fin 8) (b : Bool) : (x.setPred p b).windowBase = x.windowBase := by simp only [Fibre.setPred]
@[simp] theorem Fibre.setPred_named (x : Fibre) (p : Fin 8) (b : Bool) : (x.setPred p b).named = x.named := by simp only [Fibre.setPred]
@[simp] theorem Fibre.setPred_vregs (x : Fibre) (p : Fin 8) (b : Bool) : (x.setPred p b).vregs = x.vregs := by simp only [Fibre.setPred]
@[simp] theorem Fibre.setPred_masks (x : Fibre) (p : Fin 8) (b : Bool) : (x.setPred p b).masks = x.masks := by simp only [Fibre.setPred]
@[simp] theorem Fibre.setPred_quota (x : Fibre) (p : Fin 8) (b : Bool) : (x.setPred p b).quota = x.quota := by simp only [Fibre.setPred]
@[simp] theorem Fibre.setPred_rkey (x : Fibre) (p : Fin 8) (b : Bool) : (x.setPred p b).rkey = x.rkey := by simp only [Fibre.setPred]
@[simp] theorem Fibre.setPred_rctr (x : Fibre) (p : Fin 8) (b : Bool) : (x.setPred p b).rctr = x.rctr := by simp only [Fibre.setPred]
@[simp] theorem Fibre.setPred_rep (x : Fibre) (p : Fin 8) (b : Bool) : (x.setPred p b).rep = x.rep := by simp only [Fibre.setPred]
@[simp] theorem Fibre.setPred_counts (x : Fibre) (p : Fin 8) (b : Bool) : (x.setPred p b).counts = x.counts := by simp only [Fibre.setPred]
@[simp] theorem Fibre.setPred_issued (x : Fibre) (p : Fin 8) (b : Bool) : (x.setPred p b).issued = x.issued := by simp only [Fibre.setPred]
@[simp] theorem Fibre.setPred_flags (x : Fibre) (p : Fin 8) (b : Bool) : (x.setPred p b).flags = x.flags := by simp only [Fibre.setPred]
@[simp] theorem Fibre.setPred_sp (x : Fibre) (p : Fin 8) (b : Bool) : (x.setPred p b).sp = x.sp := by simp only [Fibre.setPred]
@[simp] theorem Fibre.setPred_stackSize (x : Fibre) (p : Fin 8) (b : Bool) : (x.setPred p b).stackSize = x.stackSize := by simp only [Fibre.setPred]
@[simp] theorem Fibre.setPred_stack (x : Fibre) (p : Fin 8) (b : Bool) : (x.setPred p b).stack = x.stack := by simp only [Fibre.setPred]
@[simp] theorem Fibre.setPred_badStack (x : Fibre) (p : Fin 8) (b : Bool) : (x.setPred p b).badStack = x.badStack := by simp only [Fibre.setPred]
@[simp] theorem Fibre.setPred_trap (x : Fibre) (p : Fin 8) (b : Bool) : (x.setPred p b).trap = x.trap := by simp only [Fibre.setPred]
@[simp] theorem Fibre.setPred_hints (x : Fibre) (p : Fin 8) (b : Bool) : (x.setPred p b).hints = x.hints := by simp only [Fibre.setPred]
@[simp] theorem Fibre.setPred_queues (x : Fibre) (p : Fin 8) (b : Bool) : (x.setPred p b).queues = x.queues := by simp only [Fibre.setPred]
@[simp] theorem Fibre.setPred_popped (x : Fibre) (p : Fin 8) (b : Bool) : (x.setPred p b).popped = x.popped := by simp only [Fibre.setPred]
@[simp] theorem Fibre.setPred_pops (x : Fibre) (p : Fin 8) (b : Bool) : (x.setPred p b).pops = x.pops := by simp only [Fibre.setPred]
@[simp] theorem Fibre.setPred_pushing (x : Fibre) (p : Fin 8) (b : Bool) : (x.setPred p b).pushing = x.pushing := by simp only [Fibre.setPred]
@[simp] theorem Fibre.setPred_pend (x : Fibre) (p : Fin 8) (b : Bool) : (x.setPred p b).pend = x.pend := by simp only [Fibre.setPred]
@[simp] theorem Fibre.setPred_rays (x : Fibre) (p : Fin 8) (b : Bool) : (x.setPred p b).rays = x.rays := by simp only [Fibre.setPred]
@[simp] theorem Fibre.setPred_bank (x : Fibre) (p : Fin 8) (b : Bool) : (x.setPred p b).bank = x.bank := by simp only [Fibre.setPred]
@[simp] theorem Fibre.setPred_lineage (x : Fibre) (p : Fin 8) (b : Bool) : (x.setPred p b).lineage = x.lineage := by simp only [Fibre.setPred]
@[simp] theorem Fibre.setPred_launches (x : Fibre) (p : Fin 8) (b : Bool) : (x.setPred p b).launches = x.launches := by simp only [Fibre.setPred]
@[simp] theorem Fibre.setPred_milestone (x : Fibre) (p : Fin 8) (b : Bool) : (x.setPred p b).milestone = x.milestone := by simp only [Fibre.setPred]
@[simp] theorem Fibre.setPred_cls (x : Fibre) (p : Fin 8) (b : Bool) : (x.setPred p b).cls = x.cls := by simp only [Fibre.setPred]
@[simp] theorem Fibre.setPred_speculative (x : Fibre) (p : Fin 8) (b : Bool) : (x.setPred p b).speculative = x.speculative := by simp only [Fibre.setPred]
@[simp] theorem Fibre.setPred_acquired (x : Fibre) (p : Fin 8) (b : Bool) : (x.setPred p b).acquired = x.acquired := by simp only [Fibre.setPred]
@[simp] theorem Fibre.setPred_mark (x : Fibre) (p : Fin 8) (b : Bool) : (x.setPred p b).mark = x.mark := by simp only [Fibre.setPred]
@[simp] theorem Fibre.setPred_copies (x : Fibre) (p : Fin 8) (b : Bool) : (x.setPred p b).copies = x.copies := by simp only [Fibre.setPred]
@[simp] theorem Fibre.setPred_copyFaults (x : Fibre) (p : Fin 8) (b : Bool) : (x.setPred p b).copyFaults = x.copyFaults := by simp only [Fibre.setPred]
@[simp] theorem Fibre.setPred_bindingFault (x : Fibre) (p : Fin 8) (b : Bool) : (x.setPred p b).bindingFault = x.bindingFault := by simp only [Fibre.setPred]
@[simp] theorem Fibre.setPred_held (x : Fibre) (p : Fin 8) (b : Bool) : (x.setPred p b).held = x.held := by simp only [Fibre.setPred]
@[simp] theorem Fibre.setPred_target (x : Fibre) (p : Fin 8) (b : Bool) : (x.setPred p b).target = x.target := by simp only [Fibre.setPred]
@[simp] theorem Fibre.setPred_parkOrder (x : Fibre) (p : Fin 8) (b : Bool) : (x.setPred p b).parkOrder = x.parkOrder := by simp only [Fibre.setPred]
@[simp] theorem Fibre.setPred_place (x : Fibre) (p : Fin 8) (b : Bool) : (x.setPred p b).place = x.place := by simp only [Fibre.setPred]
@[simp] theorem Fibre.setPred_stepDue (x : Fibre) (p : Fin 8) (b : Bool) : (x.setPred p b).stepDue = x.stepDue := by simp only [Fibre.setPred]
@[simp] theorem Fibre.setPred_rayRequest (x : Fibre) (p : Fin 8) (b : Bool) : (x.setPred p b).rayRequest = x.rayRequest := by simp only [Fibre.setPred]

/-! ### Fibre.acquire -/

@[simp] theorem Fibre.acquire_context (x : Fibre) (es : List Edge) : (x.acquire es).context = x.context := by simp only [Fibre.acquire]
@[simp] theorem Fibre.acquire_launch (x : Fibre) (es : List Edge) : (x.acquire es).launch = x.launch := by simp only [Fibre.acquire]
@[simp] theorem Fibre.acquire_group (x : Fibre) (es : List Edge) : (x.acquire es).group = x.group := by simp only [Fibre.acquire]
@[simp] theorem Fibre.acquire_core (x : Fibre) (es : List Edge) : (x.acquire es).core = x.core := by simp only [Fibre.acquire]
@[simp] theorem Fibre.acquire_fid (x : Fibre) (es : List Edge) : (x.acquire es).fid = x.fid := by simp only [Fibre.acquire]
@[simp] theorem Fibre.acquire_life (x : Fibre) (es : List Edge) : (x.acquire es).life = x.life := by simp only [Fibre.acquire]
@[simp] theorem Fibre.acquire_pc (x : Fibre) (es : List Edge) : (x.acquire es).pc = x.pc := by simp only [Fibre.acquire]
@[simp] theorem Fibre.acquire_preds (x : Fibre) (es : List Edge) : (x.acquire es).preds = x.preds := by simp only [Fibre.acquire]
@[simp] theorem Fibre.acquire_ages (x : Fibre) (es : List Edge) : (x.acquire es).ages = x.ages := by simp only [Fibre.acquire]
@[simp] theorem Fibre.acquire_window (x : Fibre) (es : List Edge) : (x.acquire es).window = x.window := by simp only [Fibre.acquire]
@[simp] theorem Fibre.acquire_windowBase (x : Fibre) (es : List Edge) : (x.acquire es).windowBase = x.windowBase := by simp only [Fibre.acquire]
@[simp] theorem Fibre.acquire_named (x : Fibre) (es : List Edge) : (x.acquire es).named = x.named := by simp only [Fibre.acquire]
@[simp] theorem Fibre.acquire_vregs (x : Fibre) (es : List Edge) : (x.acquire es).vregs = x.vregs := by simp only [Fibre.acquire]
@[simp] theorem Fibre.acquire_masks (x : Fibre) (es : List Edge) : (x.acquire es).masks = x.masks := by simp only [Fibre.acquire]
@[simp] theorem Fibre.acquire_quota (x : Fibre) (es : List Edge) : (x.acquire es).quota = x.quota := by simp only [Fibre.acquire]
@[simp] theorem Fibre.acquire_rkey (x : Fibre) (es : List Edge) : (x.acquire es).rkey = x.rkey := by simp only [Fibre.acquire]
@[simp] theorem Fibre.acquire_rctr (x : Fibre) (es : List Edge) : (x.acquire es).rctr = x.rctr := by simp only [Fibre.acquire]
@[simp] theorem Fibre.acquire_rep (x : Fibre) (es : List Edge) : (x.acquire es).rep = x.rep := by simp only [Fibre.acquire]
@[simp] theorem Fibre.acquire_counts (x : Fibre) (es : List Edge) : (x.acquire es).counts = x.counts := by simp only [Fibre.acquire]
@[simp] theorem Fibre.acquire_issued (x : Fibre) (es : List Edge) : (x.acquire es).issued = x.issued := by simp only [Fibre.acquire]
@[simp] theorem Fibre.acquire_flags (x : Fibre) (es : List Edge) : (x.acquire es).flags = x.flags := by simp only [Fibre.acquire]
@[simp] theorem Fibre.acquire_sp (x : Fibre) (es : List Edge) : (x.acquire es).sp = x.sp := by simp only [Fibre.acquire]
@[simp] theorem Fibre.acquire_stackSize (x : Fibre) (es : List Edge) : (x.acquire es).stackSize = x.stackSize := by simp only [Fibre.acquire]
@[simp] theorem Fibre.acquire_stack (x : Fibre) (es : List Edge) : (x.acquire es).stack = x.stack := by simp only [Fibre.acquire]
@[simp] theorem Fibre.acquire_badStack (x : Fibre) (es : List Edge) : (x.acquire es).badStack = x.badStack := by simp only [Fibre.acquire]
@[simp] theorem Fibre.acquire_trap (x : Fibre) (es : List Edge) : (x.acquire es).trap = x.trap := by simp only [Fibre.acquire]
@[simp] theorem Fibre.acquire_hints (x : Fibre) (es : List Edge) : (x.acquire es).hints = x.hints := by simp only [Fibre.acquire]
@[simp] theorem Fibre.acquire_queues (x : Fibre) (es : List Edge) : (x.acquire es).queues = x.queues := by simp only [Fibre.acquire]
@[simp] theorem Fibre.acquire_popped (x : Fibre) (es : List Edge) : (x.acquire es).popped = x.popped := by simp only [Fibre.acquire]
@[simp] theorem Fibre.acquire_pops (x : Fibre) (es : List Edge) : (x.acquire es).pops = x.pops := by simp only [Fibre.acquire]
@[simp] theorem Fibre.acquire_pushing (x : Fibre) (es : List Edge) : (x.acquire es).pushing = x.pushing := by simp only [Fibre.acquire]
@[simp] theorem Fibre.acquire_pend (x : Fibre) (es : List Edge) : (x.acquire es).pend = x.pend := by simp only [Fibre.acquire]
@[simp] theorem Fibre.acquire_rays (x : Fibre) (es : List Edge) : (x.acquire es).rays = x.rays := by simp only [Fibre.acquire]
@[simp] theorem Fibre.acquire_bank (x : Fibre) (es : List Edge) : (x.acquire es).bank = x.bank := by simp only [Fibre.acquire]
@[simp] theorem Fibre.acquire_lineage (x : Fibre) (es : List Edge) : (x.acquire es).lineage = x.lineage := by simp only [Fibre.acquire]
@[simp] theorem Fibre.acquire_launches (x : Fibre) (es : List Edge) : (x.acquire es).launches = x.launches := by simp only [Fibre.acquire]
@[simp] theorem Fibre.acquire_milestone (x : Fibre) (es : List Edge) : (x.acquire es).milestone = x.milestone := by simp only [Fibre.acquire]
@[simp] theorem Fibre.acquire_cls (x : Fibre) (es : List Edge) : (x.acquire es).cls = x.cls := by simp only [Fibre.acquire]
@[simp] theorem Fibre.acquire_speculative (x : Fibre) (es : List Edge) : (x.acquire es).speculative = x.speculative := by simp only [Fibre.acquire]
@[simp] theorem Fibre.acquire_acquired (x : Fibre) (es : List Edge) : (x.acquire es).acquired = addEdges x.core x.acquired es := by simp only [Fibre.acquire]
@[simp] theorem Fibre.acquire_mark (x : Fibre) (es : List Edge) : (x.acquire es).mark = x.mark := by simp only [Fibre.acquire]
@[simp] theorem Fibre.acquire_copies (x : Fibre) (es : List Edge) : (x.acquire es).copies = x.copies := by simp only [Fibre.acquire]
@[simp] theorem Fibre.acquire_copyFaults (x : Fibre) (es : List Edge) : (x.acquire es).copyFaults = x.copyFaults := by simp only [Fibre.acquire]
@[simp] theorem Fibre.acquire_bindingFault (x : Fibre) (es : List Edge) : (x.acquire es).bindingFault = x.bindingFault := by simp only [Fibre.acquire]
@[simp] theorem Fibre.acquire_held (x : Fibre) (es : List Edge) : (x.acquire es).held = x.held := by simp only [Fibre.acquire]
@[simp] theorem Fibre.acquire_target (x : Fibre) (es : List Edge) : (x.acquire es).target = x.target := by simp only [Fibre.acquire]
@[simp] theorem Fibre.acquire_parkOrder (x : Fibre) (es : List Edge) : (x.acquire es).parkOrder = x.parkOrder := by simp only [Fibre.acquire]
@[simp] theorem Fibre.acquire_place (x : Fibre) (es : List Edge) : (x.acquire es).place = x.place := by simp only [Fibre.acquire]
@[simp] theorem Fibre.acquire_stepDue (x : Fibre) (es : List Edge) : (x.acquire es).stepDue = x.stepDue := by simp only [Fibre.acquire]
@[simp] theorem Fibre.acquire_rayRequest (x : Fibre) (es : List Edge) : (x.acquire es).rayRequest = x.rayRequest := by simp only [Fibre.acquire]

/-! ### Fibre.cancelQueues -/

@[simp] theorem Fibre.cancelQueues_context (x : Fibre) : (x.cancelQueues).context = x.context := by simp only [Fibre.cancelQueues]
@[simp] theorem Fibre.cancelQueues_launch (x : Fibre) : (x.cancelQueues).launch = x.launch := by simp only [Fibre.cancelQueues]
@[simp] theorem Fibre.cancelQueues_group (x : Fibre) : (x.cancelQueues).group = x.group := by simp only [Fibre.cancelQueues]
@[simp] theorem Fibre.cancelQueues_core (x : Fibre) : (x.cancelQueues).core = x.core := by simp only [Fibre.cancelQueues]
@[simp] theorem Fibre.cancelQueues_fid (x : Fibre) : (x.cancelQueues).fid = x.fid := by simp only [Fibre.cancelQueues]
@[simp] theorem Fibre.cancelQueues_life (x : Fibre) : (x.cancelQueues).life = x.life := by simp only [Fibre.cancelQueues]
@[simp] theorem Fibre.cancelQueues_pc (x : Fibre) : (x.cancelQueues).pc = x.pc := by simp only [Fibre.cancelQueues]
@[simp] theorem Fibre.cancelQueues_preds (x : Fibre) : (x.cancelQueues).preds = x.preds := by simp only [Fibre.cancelQueues]
@[simp] theorem Fibre.cancelQueues_ages (x : Fibre) : (x.cancelQueues).ages = x.ages := by simp only [Fibre.cancelQueues]
@[simp] theorem Fibre.cancelQueues_window (x : Fibre) : (x.cancelQueues).window = x.window := by simp only [Fibre.cancelQueues]
@[simp] theorem Fibre.cancelQueues_windowBase (x : Fibre) : (x.cancelQueues).windowBase = x.windowBase := by simp only [Fibre.cancelQueues]
@[simp] theorem Fibre.cancelQueues_named (x : Fibre) : (x.cancelQueues).named = x.named := by simp only [Fibre.cancelQueues]
@[simp] theorem Fibre.cancelQueues_vregs (x : Fibre) : (x.cancelQueues).vregs = x.vregs := by simp only [Fibre.cancelQueues]
@[simp] theorem Fibre.cancelQueues_masks (x : Fibre) : (x.cancelQueues).masks = x.masks := by simp only [Fibre.cancelQueues]
@[simp] theorem Fibre.cancelQueues_quota (x : Fibre) : (x.cancelQueues).quota = x.quota := by simp only [Fibre.cancelQueues]
@[simp] theorem Fibre.cancelQueues_rkey (x : Fibre) : (x.cancelQueues).rkey = x.rkey := by simp only [Fibre.cancelQueues]
@[simp] theorem Fibre.cancelQueues_rctr (x : Fibre) : (x.cancelQueues).rctr = x.rctr := by simp only [Fibre.cancelQueues]
@[simp] theorem Fibre.cancelQueues_rep (x : Fibre) : (x.cancelQueues).rep = x.rep := by simp only [Fibre.cancelQueues]
@[simp] theorem Fibre.cancelQueues_counts (x : Fibre) : (x.cancelQueues).counts = x.counts := by simp only [Fibre.cancelQueues]
@[simp] theorem Fibre.cancelQueues_issued (x : Fibre) : (x.cancelQueues).issued = x.issued := by simp only [Fibre.cancelQueues]
@[simp] theorem Fibre.cancelQueues_flags (x : Fibre) : (x.cancelQueues).flags = x.flags := by simp only [Fibre.cancelQueues]
@[simp] theorem Fibre.cancelQueues_sp (x : Fibre) : (x.cancelQueues).sp = x.sp := by simp only [Fibre.cancelQueues]
@[simp] theorem Fibre.cancelQueues_stackSize (x : Fibre) : (x.cancelQueues).stackSize = x.stackSize := by simp only [Fibre.cancelQueues]
@[simp] theorem Fibre.cancelQueues_stack (x : Fibre) : (x.cancelQueues).stack = x.stack := by simp only [Fibre.cancelQueues]
@[simp] theorem Fibre.cancelQueues_badStack (x : Fibre) : (x.cancelQueues).badStack = x.badStack := by simp only [Fibre.cancelQueues]
@[simp] theorem Fibre.cancelQueues_trap (x : Fibre) : (x.cancelQueues).trap = x.trap := by simp only [Fibre.cancelQueues]
@[simp] theorem Fibre.cancelQueues_hints (x : Fibre) : (x.cancelQueues).hints = x.hints := by simp only [Fibre.cancelQueues]
@[simp] theorem Fibre.cancelQueues_queues (x : Fibre) : (x.cancelQueues).queues = x.queues := by simp only [Fibre.cancelQueues]
@[simp] theorem Fibre.cancelQueues_popped (x : Fibre) : (x.cancelQueues).popped = [] := by simp only [Fibre.cancelQueues]
@[simp] theorem Fibre.cancelQueues_pops (x : Fibre) : (x.cancelQueues).pops = [] := by simp only [Fibre.cancelQueues]
@[simp] theorem Fibre.cancelQueues_pushing (x : Fibre) : (x.cancelQueues).pushing = [] := by simp only [Fibre.cancelQueues]
@[simp] theorem Fibre.cancelQueues_pend (x : Fibre) : (x.cancelQueues).pend = x.pend := by simp only [Fibre.cancelQueues]
@[simp] theorem Fibre.cancelQueues_rays (x : Fibre) : (x.cancelQueues).rays = x.rays := by simp only [Fibre.cancelQueues]
@[simp] theorem Fibre.cancelQueues_bank (x : Fibre) : (x.cancelQueues).bank = x.bank := by simp only [Fibre.cancelQueues]
@[simp] theorem Fibre.cancelQueues_lineage (x : Fibre) : (x.cancelQueues).lineage = x.lineage := by simp only [Fibre.cancelQueues]
@[simp] theorem Fibre.cancelQueues_launches (x : Fibre) : (x.cancelQueues).launches = x.launches := by simp only [Fibre.cancelQueues]
@[simp] theorem Fibre.cancelQueues_milestone (x : Fibre) : (x.cancelQueues).milestone = x.milestone := by simp only [Fibre.cancelQueues]
@[simp] theorem Fibre.cancelQueues_cls (x : Fibre) : (x.cancelQueues).cls = x.cls := by simp only [Fibre.cancelQueues]
@[simp] theorem Fibre.cancelQueues_speculative (x : Fibre) : (x.cancelQueues).speculative = x.speculative := by simp only [Fibre.cancelQueues]
@[simp] theorem Fibre.cancelQueues_acquired (x : Fibre) : (x.cancelQueues).acquired = x.acquired := by simp only [Fibre.cancelQueues]
@[simp] theorem Fibre.cancelQueues_mark (x : Fibre) : (x.cancelQueues).mark = x.mark := by simp only [Fibre.cancelQueues]
@[simp] theorem Fibre.cancelQueues_copies (x : Fibre) : (x.cancelQueues).copies = x.copies := by simp only [Fibre.cancelQueues]
@[simp] theorem Fibre.cancelQueues_copyFaults (x : Fibre) : (x.cancelQueues).copyFaults = x.copyFaults := by simp only [Fibre.cancelQueues]
@[simp] theorem Fibre.cancelQueues_bindingFault (x : Fibre) : (x.cancelQueues).bindingFault = x.bindingFault := by simp only [Fibre.cancelQueues]
@[simp] theorem Fibre.cancelQueues_held (x : Fibre) : (x.cancelQueues).held = x.held := by simp only [Fibre.cancelQueues]
@[simp] theorem Fibre.cancelQueues_target (x : Fibre) : (x.cancelQueues).target = x.target := by simp only [Fibre.cancelQueues]
@[simp] theorem Fibre.cancelQueues_parkOrder (x : Fibre) : (x.cancelQueues).parkOrder = x.parkOrder := by simp only [Fibre.cancelQueues]
@[simp] theorem Fibre.cancelQueues_place (x : Fibre) : (x.cancelQueues).place = x.place := by simp only [Fibre.cancelQueues]
@[simp] theorem Fibre.cancelQueues_stepDue (x : Fibre) : (x.cancelQueues).stepDue = x.stepDue := by simp only [Fibre.cancelQueues]
@[simp] theorem Fibre.cancelQueues_rayRequest (x : Fibre) : (x.cancelQueues).rayRequest = x.rayRequest := by simp only [Fibre.cancelQueues]

/-! ### Fibre.trapReturn -/

@[simp] theorem Fibre.trapReturn_context (x : Fibre) : (x.trapReturn).context = x.context := by simp only [Fibre.trapReturn]
@[simp] theorem Fibre.trapReturn_launch (x : Fibre) : (x.trapReturn).launch = x.launch := by simp only [Fibre.trapReturn]
@[simp] theorem Fibre.trapReturn_group (x : Fibre) : (x.trapReturn).group = x.group := by simp only [Fibre.trapReturn]
@[simp] theorem Fibre.trapReturn_core (x : Fibre) : (x.trapReturn).core = x.core := by simp only [Fibre.trapReturn]
@[simp] theorem Fibre.trapReturn_fid (x : Fibre) : (x.trapReturn).fid = x.fid := by simp only [Fibre.trapReturn]
@[simp] theorem Fibre.trapReturn_life (x : Fibre) : (x.trapReturn).life = x.life := by simp only [Fibre.trapReturn]
@[simp] theorem Fibre.trapReturn_pc (x : Fibre) : (x.trapReturn).pc = x.trap.unit := by simp only [Fibre.trapReturn]
@[simp] theorem Fibre.trapReturn_preds (x : Fibre) : (x.trapReturn).preds = x.preds := by simp only [Fibre.trapReturn]
@[simp] theorem Fibre.trapReturn_ages (x : Fibre) : (x.trapReturn).ages = x.ages := by simp only [Fibre.trapReturn]
@[simp] theorem Fibre.trapReturn_window (x : Fibre) : (x.trapReturn).window = x.window := by simp only [Fibre.trapReturn]
@[simp] theorem Fibre.trapReturn_windowBase (x : Fibre) : (x.trapReturn).windowBase = x.windowBase := by simp only [Fibre.trapReturn]
@[simp] theorem Fibre.trapReturn_named (x : Fibre) : (x.trapReturn).named = x.named := by simp only [Fibre.trapReturn]
@[simp] theorem Fibre.trapReturn_vregs (x : Fibre) : (x.trapReturn).vregs = x.vregs := by simp only [Fibre.trapReturn]
@[simp] theorem Fibre.trapReturn_masks (x : Fibre) : (x.trapReturn).masks = x.masks := by simp only [Fibre.trapReturn]
@[simp] theorem Fibre.trapReturn_quota (x : Fibre) : (x.trapReturn).quota = x.quota := by simp only [Fibre.trapReturn]
@[simp] theorem Fibre.trapReturn_rkey (x : Fibre) : (x.trapReturn).rkey = x.rkey := by simp only [Fibre.trapReturn]
@[simp] theorem Fibre.trapReturn_rctr (x : Fibre) : (x.trapReturn).rctr = x.rctr := by simp only [Fibre.trapReturn]
@[simp] theorem Fibre.trapReturn_rep (x : Fibre) : (x.trapReturn).rep = x.trap.rep.toNat := by simp only [Fibre.trapReturn]
@[simp] theorem Fibre.trapReturn_counts (x : Fibre) : (x.trapReturn).counts = x.counts := by simp only [Fibre.trapReturn]
@[simp] theorem Fibre.trapReturn_issued (x : Fibre) : (x.trapReturn).issued = x.issued := by simp only [Fibre.trapReturn]
@[simp] theorem Fibre.trapReturn_flags (x : Fibre) : (x.trapReturn).flags = x.flags := by simp only [Fibre.trapReturn]
@[simp] theorem Fibre.trapReturn_sp (x : Fibre) : (x.trapReturn).sp = x.sp := by simp only [Fibre.trapReturn]
@[simp] theorem Fibre.trapReturn_stackSize (x : Fibre) : (x.trapReturn).stackSize = x.stackSize := by simp only [Fibre.trapReturn]
@[simp] theorem Fibre.trapReturn_stack (x : Fibre) : (x.trapReturn).stack = x.stack := by simp only [Fibre.trapReturn]
@[simp] theorem Fibre.trapReturn_badStack (x : Fibre) : (x.trapReturn).badStack = x.badStack := by simp only [Fibre.trapReturn]
@[simp] theorem Fibre.trapReturn_trap (x : Fibre) : (x.trapReturn).trap = { x.trap with inHandler := false } := by simp only [Fibre.trapReturn]
@[simp] theorem Fibre.trapReturn_hints (x : Fibre) : (x.trapReturn).hints = {} := by simp only [Fibre.trapReturn]
@[simp] theorem Fibre.trapReturn_queues (x : Fibre) : (x.trapReturn).queues = x.queues := by simp only [Fibre.trapReturn]
@[simp] theorem Fibre.trapReturn_popped (x : Fibre) : (x.trapReturn).popped = x.popped := by simp only [Fibre.trapReturn]
@[simp] theorem Fibre.trapReturn_pops (x : Fibre) : (x.trapReturn).pops = x.pops := by simp only [Fibre.trapReturn]
@[simp] theorem Fibre.trapReturn_pushing (x : Fibre) : (x.trapReturn).pushing = x.pushing := by simp only [Fibre.trapReturn]
@[simp] theorem Fibre.trapReturn_pend (x : Fibre) : (x.trapReturn).pend = x.pend := by simp only [Fibre.trapReturn]
@[simp] theorem Fibre.trapReturn_rays (x : Fibre) : (x.trapReturn).rays = x.rays := by simp only [Fibre.trapReturn]
@[simp] theorem Fibre.trapReturn_bank (x : Fibre) : (x.trapReturn).bank = x.bank := by simp only [Fibre.trapReturn]
@[simp] theorem Fibre.trapReturn_lineage (x : Fibre) : (x.trapReturn).lineage = x.lineage := by simp only [Fibre.trapReturn]
@[simp] theorem Fibre.trapReturn_launches (x : Fibre) : (x.trapReturn).launches = x.launches := by simp only [Fibre.trapReturn]
@[simp] theorem Fibre.trapReturn_milestone (x : Fibre) : (x.trapReturn).milestone = x.milestone := by simp only [Fibre.trapReturn]
@[simp] theorem Fibre.trapReturn_cls (x : Fibre) : (x.trapReturn).cls = x.cls := by simp only [Fibre.trapReturn]
@[simp] theorem Fibre.trapReturn_speculative (x : Fibre) : (x.trapReturn).speculative = x.speculative := by simp only [Fibre.trapReturn]
@[simp] theorem Fibre.trapReturn_acquired (x : Fibre) : (x.trapReturn).acquired = x.acquired := by simp only [Fibre.trapReturn]
@[simp] theorem Fibre.trapReturn_mark (x : Fibre) : (x.trapReturn).mark = x.mark := by simp only [Fibre.trapReturn]
@[simp] theorem Fibre.trapReturn_copies (x : Fibre) : (x.trapReturn).copies = x.copies := by simp only [Fibre.trapReturn]
@[simp] theorem Fibre.trapReturn_copyFaults (x : Fibre) : (x.trapReturn).copyFaults = x.copyFaults := by simp only [Fibre.trapReturn]
@[simp] theorem Fibre.trapReturn_bindingFault (x : Fibre) : (x.trapReturn).bindingFault = x.bindingFault := by simp only [Fibre.trapReturn]
@[simp] theorem Fibre.trapReturn_held (x : Fibre) : (x.trapReturn).held = x.held := by simp only [Fibre.trapReturn]
@[simp] theorem Fibre.trapReturn_target (x : Fibre) : (x.trapReturn).target = x.target := by simp only [Fibre.trapReturn]
@[simp] theorem Fibre.trapReturn_parkOrder (x : Fibre) : (x.trapReturn).parkOrder = x.parkOrder := by simp only [Fibre.trapReturn]
@[simp] theorem Fibre.trapReturn_place (x : Fibre) : (x.trapReturn).place = x.place := by simp only [Fibre.trapReturn]
@[simp] theorem Fibre.trapReturn_stepDue (x : Fibre) : (x.trapReturn).stepDue = x.stepDue := by simp only [Fibre.trapReturn]
@[simp] theorem Fibre.trapReturn_rayRequest (x : Fibre) : (x.trapReturn).rayRequest = x.rayRequest := by simp only [Fibre.trapReturn]

/-! ### Fibre.write -/

@[simp] theorem Fibre.write_context (x : Fibre) (d : Dst) (v : Word) : (x.write d v).context = x.context := by cases d <;> simp only [Fibre.write, Fibre.push, Fibre.setNamed]
@[simp] theorem Fibre.write_launch (x : Fibre) (d : Dst) (v : Word) : (x.write d v).launch = x.launch := by cases d <;> simp only [Fibre.write, Fibre.push, Fibre.setNamed]
@[simp] theorem Fibre.write_group (x : Fibre) (d : Dst) (v : Word) : (x.write d v).group = x.group := by cases d <;> simp only [Fibre.write, Fibre.push, Fibre.setNamed]
@[simp] theorem Fibre.write_core (x : Fibre) (d : Dst) (v : Word) : (x.write d v).core = x.core := by cases d <;> simp only [Fibre.write, Fibre.push, Fibre.setNamed]
@[simp] theorem Fibre.write_fid (x : Fibre) (d : Dst) (v : Word) : (x.write d v).fid = x.fid := by cases d <;> simp only [Fibre.write, Fibre.push, Fibre.setNamed]
@[simp] theorem Fibre.write_life (x : Fibre) (d : Dst) (v : Word) : (x.write d v).life = x.life := by cases d <;> simp only [Fibre.write, Fibre.push, Fibre.setNamed]
@[simp] theorem Fibre.write_pc (x : Fibre) (d : Dst) (v : Word) : (x.write d v).pc = x.pc := by cases d <;> simp only [Fibre.write, Fibre.push, Fibre.setNamed]
@[simp] theorem Fibre.write_preds (x : Fibre) (d : Dst) (v : Word) : (x.write d v).preds = x.preds := by cases d <;> simp only [Fibre.write, Fibre.push, Fibre.setNamed]
@[simp] theorem Fibre.write_window (x : Fibre) (d : Dst) (v : Word) : (x.write d v).window = x.window := by cases d <;> simp only [Fibre.write, Fibre.push, Fibre.setNamed]
@[simp] theorem Fibre.write_windowBase (x : Fibre) (d : Dst) (v : Word) : (x.write d v).windowBase = x.windowBase := by cases d <;> simp only [Fibre.write, Fibre.push, Fibre.setNamed]
@[simp] theorem Fibre.write_vregs (x : Fibre) (d : Dst) (v : Word) : (x.write d v).vregs = x.vregs := by cases d <;> simp only [Fibre.write, Fibre.push, Fibre.setNamed]
@[simp] theorem Fibre.write_masks (x : Fibre) (d : Dst) (v : Word) : (x.write d v).masks = x.masks := by cases d <;> simp only [Fibre.write, Fibre.push, Fibre.setNamed]
@[simp] theorem Fibre.write_quota (x : Fibre) (d : Dst) (v : Word) : (x.write d v).quota = x.quota := by cases d <;> simp only [Fibre.write, Fibre.push, Fibre.setNamed]
@[simp] theorem Fibre.write_rkey (x : Fibre) (d : Dst) (v : Word) : (x.write d v).rkey = x.rkey := by cases d <;> simp only [Fibre.write, Fibre.push, Fibre.setNamed]
@[simp] theorem Fibre.write_rctr (x : Fibre) (d : Dst) (v : Word) : (x.write d v).rctr = x.rctr := by cases d <;> simp only [Fibre.write, Fibre.push, Fibre.setNamed]
@[simp] theorem Fibre.write_rep (x : Fibre) (d : Dst) (v : Word) : (x.write d v).rep = x.rep := by cases d <;> simp only [Fibre.write, Fibre.push, Fibre.setNamed]
@[simp] theorem Fibre.write_counts (x : Fibre) (d : Dst) (v : Word) : (x.write d v).counts = x.counts := by cases d <;> simp only [Fibre.write, Fibre.push, Fibre.setNamed]
@[simp] theorem Fibre.write_issued (x : Fibre) (d : Dst) (v : Word) : (x.write d v).issued = x.issued := by cases d <;> simp only [Fibre.write, Fibre.push, Fibre.setNamed]
@[simp] theorem Fibre.write_flags (x : Fibre) (d : Dst) (v : Word) : (x.write d v).flags = x.flags := by cases d <;> simp only [Fibre.write, Fibre.push, Fibre.setNamed]
@[simp] theorem Fibre.write_sp (x : Fibre) (d : Dst) (v : Word) : (x.write d v).sp = x.sp := by cases d <;> simp only [Fibre.write, Fibre.push, Fibre.setNamed]
@[simp] theorem Fibre.write_stackSize (x : Fibre) (d : Dst) (v : Word) : (x.write d v).stackSize = x.stackSize := by cases d <;> simp only [Fibre.write, Fibre.push, Fibre.setNamed]
@[simp] theorem Fibre.write_stack (x : Fibre) (d : Dst) (v : Word) : (x.write d v).stack = x.stack := by cases d <;> simp only [Fibre.write, Fibre.push, Fibre.setNamed]
@[simp] theorem Fibre.write_badStack (x : Fibre) (d : Dst) (v : Word) : (x.write d v).badStack = x.badStack := by cases d <;> simp only [Fibre.write, Fibre.push, Fibre.setNamed]
@[simp] theorem Fibre.write_trap (x : Fibre) (d : Dst) (v : Word) : (x.write d v).trap = x.trap := by cases d <;> simp only [Fibre.write, Fibre.push, Fibre.setNamed]
@[simp] theorem Fibre.write_hints (x : Fibre) (d : Dst) (v : Word) : (x.write d v).hints = x.hints := by cases d <;> simp only [Fibre.write, Fibre.push, Fibre.setNamed]
@[simp] theorem Fibre.write_queues (x : Fibre) (d : Dst) (v : Word) : (x.write d v).queues = x.queues := by cases d <;> simp only [Fibre.write, Fibre.push, Fibre.setNamed]
@[simp] theorem Fibre.write_popped (x : Fibre) (d : Dst) (v : Word) : (x.write d v).popped = x.popped := by cases d <;> simp only [Fibre.write, Fibre.push, Fibre.setNamed]
@[simp] theorem Fibre.write_pops (x : Fibre) (d : Dst) (v : Word) : (x.write d v).pops = x.pops := by cases d <;> simp only [Fibre.write, Fibre.push, Fibre.setNamed]
@[simp] theorem Fibre.write_pushing (x : Fibre) (d : Dst) (v : Word) : (x.write d v).pushing = x.pushing := by cases d <;> simp only [Fibre.write, Fibre.push, Fibre.setNamed]
@[simp] theorem Fibre.write_rays (x : Fibre) (d : Dst) (v : Word) : (x.write d v).rays = x.rays := by cases d <;> simp only [Fibre.write, Fibre.push, Fibre.setNamed]
@[simp] theorem Fibre.write_bank (x : Fibre) (d : Dst) (v : Word) : (x.write d v).bank = x.bank := by cases d <;> simp only [Fibre.write, Fibre.push, Fibre.setNamed]
@[simp] theorem Fibre.write_lineage (x : Fibre) (d : Dst) (v : Word) : (x.write d v).lineage = x.lineage := by cases d <;> simp only [Fibre.write, Fibre.push, Fibre.setNamed]
@[simp] theorem Fibre.write_launches (x : Fibre) (d : Dst) (v : Word) : (x.write d v).launches = x.launches := by cases d <;> simp only [Fibre.write, Fibre.push, Fibre.setNamed]
@[simp] theorem Fibre.write_milestone (x : Fibre) (d : Dst) (v : Word) : (x.write d v).milestone = x.milestone := by cases d <;> simp only [Fibre.write, Fibre.push, Fibre.setNamed]
@[simp] theorem Fibre.write_cls (x : Fibre) (d : Dst) (v : Word) : (x.write d v).cls = x.cls := by cases d <;> simp only [Fibre.write, Fibre.push, Fibre.setNamed]
@[simp] theorem Fibre.write_speculative (x : Fibre) (d : Dst) (v : Word) : (x.write d v).speculative = x.speculative := by cases d <;> simp only [Fibre.write, Fibre.push, Fibre.setNamed]
@[simp] theorem Fibre.write_acquired (x : Fibre) (d : Dst) (v : Word) : (x.write d v).acquired = x.acquired := by cases d <;> simp only [Fibre.write, Fibre.push, Fibre.setNamed]
@[simp] theorem Fibre.write_mark (x : Fibre) (d : Dst) (v : Word) : (x.write d v).mark = x.mark := by cases d <;> simp only [Fibre.write, Fibre.push, Fibre.setNamed]
@[simp] theorem Fibre.write_copies (x : Fibre) (d : Dst) (v : Word) : (x.write d v).copies = x.copies := by cases d <;> simp only [Fibre.write, Fibre.push, Fibre.setNamed]
@[simp] theorem Fibre.write_copyFaults (x : Fibre) (d : Dst) (v : Word) : (x.write d v).copyFaults = x.copyFaults := by cases d <;> simp only [Fibre.write, Fibre.push, Fibre.setNamed]
@[simp] theorem Fibre.write_bindingFault (x : Fibre) (d : Dst) (v : Word) : (x.write d v).bindingFault = x.bindingFault := by cases d <;> simp only [Fibre.write, Fibre.push, Fibre.setNamed]
@[simp] theorem Fibre.write_held (x : Fibre) (d : Dst) (v : Word) : (x.write d v).held = x.held := by cases d <;> simp only [Fibre.write, Fibre.push, Fibre.setNamed]
@[simp] theorem Fibre.write_target (x : Fibre) (d : Dst) (v : Word) : (x.write d v).target = x.target := by cases d <;> simp only [Fibre.write, Fibre.push, Fibre.setNamed]
@[simp] theorem Fibre.write_parkOrder (x : Fibre) (d : Dst) (v : Word) : (x.write d v).parkOrder = x.parkOrder := by cases d <;> simp only [Fibre.write, Fibre.push, Fibre.setNamed]
@[simp] theorem Fibre.write_place (x : Fibre) (d : Dst) (v : Word) : (x.write d v).place = x.place := by cases d <;> simp only [Fibre.write, Fibre.push, Fibre.setNamed]
@[simp] theorem Fibre.write_stepDue (x : Fibre) (d : Dst) (v : Word) : (x.write d v).stepDue = x.stepDue := by cases d <;> simp only [Fibre.write, Fibre.push, Fibre.setNamed]
@[simp] theorem Fibre.write_rayRequest (x : Fibre) (d : Dst) (v : Word) : (x.write d v).rayRequest = x.rayRequest := by cases d <;> simp only [Fibre.write, Fibre.push, Fibre.setNamed]

theorem Fibre.write_push (x : Fibre) (v : Word) : x.write .push v = x.push v := rfl
theorem Fibre.write_named (x : Fibre) (i : Fin 32) (v : Word) : x.write (.n i) v = x.setNamed i.val v := rfl

end Sys2Proof.Machine
end

