-- ==== Sys2Proof/Laws/Ops.lean ====
section
/-! SUPPORT. What each shared operation can do, said once: the frame of every instruction, the ends of a unit, convoys, trace records, taking an exception and
returning from one, releases, translations and the checks of an access. -/

namespace Sys2Proof.Machine

/-! ### The frame of every instruction -/

theorem State.issueWith_eq {s : State} {f : Nat} {x : Fibre} (h : s.Issues f x) (k : Nat → Fibre → Issue) :
    s.issueWith k = .next (s.settle f x (k f x)) := by
  simp only [State.issueWith, h.issuing, h.fibre]

theorem State.own_eq {s : State} {f : Nat} {x : Fibre} (h : s.Issues f x) (k : (Src → Word) → Fibre → Fibre) :
    s.own k = .next (s.completed f x (k (s.operand x) x)) := State.issueWith_eq h _

theorem State.scalar_eq {s : State} {f : Nat} {x : Fibre} (h : s.Issues f x) (d : Dst) (k : (Src → Word) → Fibre → Flagged Word) :
    s.scalar d k = .next (s.completed f x ((x.write d (k (s.operand x) x).1).orFlags (k (s.operand x) x).2)) := State.issueWith_eq h _

/-- An instruction of a fibre stops only where no fibre issues. -/
theorem State.issueWith_safe (s : State) (k : Nat → Fibre → Issue) : s.issueWith k = .fault .noIssuingFibre ∨ Safe (s.issueWith k) := by
  unfold State.issueWith
  split
  · exact .inl rfl
  · split
    · exact .inl rfl
    · exact .inr ⟨_, rfl⟩

theorem State.settle_eq {x : Fibre} (h : x.target = none) (s : State) (f : Nat) (i : Issue) : s.settle f x i = s.settleUnit f x i := by
  simp only [State.settle, h]

/-! ### Components -/

theorem State.core_setCore_self (s : State) (c : Nat) (k : CoreState) : (s.setCore c k).core c = k := by
  simp only [State.core, State.setCore, Tab.get?_put_self, Option.getD_some]

theorem State.core_setCore_of_ne (s : State) (c d : Nat) (k : CoreState) (h : d ≠ c) : (s.setCore c k).core d = s.core d := by
  simp only [State.core, State.setCore, Tab.get?_put_of_ne _ _ _ _ h]

theorem State.core_setCore (s : State) (c d : Nat) (k : CoreState) : (s.setCore c k).core d = if d = c then k else s.core d := by
  by_cases h : d = c
  · simp [h, State.core_setCore_self]
  · simp [h, State.core_setCore_of_ne]

theorem State.updFibre_eq {s : State} {f : Nat} {x : Fibre} (h : s.fibres.get? f = some x) (k : Fibre → Fibre) :
    s.updFibre f k = s.setFibre f (k x) := by
  simp only [State.updFibre, h]

theorem State.updFibre_setFibre (s : State) (f : Nat) (x : Fibre) (k : Fibre → Fibre) : (s.setFibre f x).updFibre f k = s.setFibre f (k x) := by
  simp only [State.updFibre, State.setFibre, Tab.get?_put_self, Tab.put_put]

/-! ### Convoys, passes, trace records -/

/-- A fibre that leaves its convoy changes nothing but the convoys of its core. -/
theorem State.leaveConvoy_cases (s : State) (f : Nat) :
    ∃ cores, s.leaveConvoy f = { s with cores := cores } ∧ ∀ c, ∃ convoys, (s.leaveConvoy f).core c = { s.core c with convoys := convoys } := by
  unfold State.leaveConvoy
  split
  · exact ⟨s.cores, rfl, fun c => ⟨_, rfl⟩⟩
  · refine ⟨_, rfl, fun c => ?_⟩
    rw [State.core_setCore]
    split
    · rename_i h; subst h; exact ⟨_, rfl⟩
    · exact ⟨_, rfl⟩

theorem State.formConvoy_core (s : State) (core : Nat) (of : ConvoyOf) (ms : List Nat) (c : Nat) :
    ∃ convoys, (s.formConvoy core of ms).core c = { s.core c with convoys := convoys } := by
  show ∃ convoys, (s.setCore core _).core c = _
  rw [State.core_setCore]
  split
  · rename_i h; subst h; exact ⟨_, rfl⟩
  · exact ⟨_, rfl⟩

/-- Splitting a convoy changes nothing but the convoys of its core and the key counter. -/
theorem State.splitConvoy_cases (s : State) (core k fuel : Nat) :
    ∃ cores fresh, s.splitConvoy core k fuel = { s with cores := cores, fresh := fresh } ∧
      ∀ c, ∃ convoys, (s.splitConvoy core k fuel).core c = { s.core c with convoys := convoys } := by
  induction fuel generalizing s k with
  | zero => exact ⟨s.cores, s.fresh, rfl, fun c => ⟨_, rfl⟩⟩
  | succ n ih =>
    rw [State.splitConvoy]
    split
    · exact ⟨s.cores, s.fresh, rfl, fun c => ⟨_, rfl⟩⟩
    · split
      · exact ⟨s.cores, s.fresh, rfl, fun c => ⟨_, rfl⟩⟩
      · simp only []
        split
        · exact ⟨s.cores, s.fresh, rfl, fun c => ⟨_, rfl⟩⟩
        · rename_i c0 _ _ f0 _ _ _
          obtain ⟨cores, fresh, h1, h2⟩ := ih
            ((s.setCore core { s.core core with convoys := (s.core core).convoys.put k { c0 with members := c0.members.filter fun m => s.pointOf m == s.pointOf f0 } }).formConvoy
              core c0.of (c0.members.filter fun m => s.pointOf m != s.pointOf f0)) s.fresh
          refine ⟨cores, fresh, by rw [h1]; rfl, fun c => ?_⟩
          obtain ⟨v1, e1⟩ := h2 c
          obtain ⟨v2, e2⟩ := State.formConvoy_core
            (s.setCore core { s.core core with convoys := (s.core core).convoys.put k { c0 with members := c0.members.filter fun m => s.pointOf m == s.pointOf f0 } })
              core c0.of (c0.members.filter fun m => s.pointOf m != s.pointOf f0) c
          rw [e1, e2, State.core_setCore]
          split
          · rename_i h; subst h; exact ⟨_, rfl⟩
          · exact ⟨_, rfl⟩

/-- Trace records change nothing but the records that open sessions hold. -/
theorem State.traceIf_cases (s : State) (p : TraceSession → Bool) (rec : List Byte) :
    ∃ queues, s.traceIf p rec = { s with queues := queues } ∧
      ∀ q k, queues.get? q = some k → ∃ j, s.queues.get? q = some j ∧ k = { j with trace := k.trace } := by
  refine ⟨_, rfl, fun q k h => ?_⟩
  rw [Tab.get?_mapAll] at h
  cases hq : s.queues.get? q with
  | none => rw [hq] at h; cases h
  | some j =>
    rw [hq] at h
    refine ⟨j, rfl, ?_⟩
    simp only [Option.map_some, Option.some.injEq] at h
    subst h
    split
    · split <;> rfl
    · rfl

theorem State.traceUnit_cases (s : State) (x : Fibre) (unit : BitVec 52) (rep : Nat) (faulted : Bool) :
    ∃ queues, s.traceUnit x unit rep faulted = { s with queues := queues } ∧
      ∀ q k, queues.get? q = some k → ∃ j, s.queues.get? q = some j ∧ k = { j with trace := k.trace } := by
  unfold State.traceUnit
  split
  · exact ⟨s.queues, rfl, fun q k h => ⟨k, h, rfl⟩⟩
  · exact State.traceIf_cases _ _ _

/-- R84: where no group is being debugged, a member that is done changes nothing but the pass, the cycle count and the convoys of its core, and the key counter. -/
theorem State.memberDone_cases (s : State) (h : s.Undebugged) :
    ∃ cores fresh pass, s.memberDone = { s with cores := cores, fresh := fresh, pass := pass } ∧
      ∀ c, ∃ clock convoys, s.memberDone.core c = { s.core c with clock := clock, convoys := convoys } := by
  unfold State.memberDone
  split
  · exact ⟨s.cores, s.fresh, s.pass, rfl, fun c => ⟨_, _, rfl⟩⟩
  · rename_i p _
    have hcore : ∀ (pass : Option Pass) (c : Nat), ∃ clock convoys,
        ({ s.setCore p.core { s.core p.core with clock := (s.core p.core).clock + 1 } with pass := pass } : State).core c =
          { s.core c with clock := clock, convoys := convoys } := by
      intro pass c
      show ∃ clock convoys, (s.setCore p.core _).core c = _
      rw [State.core_setCore]
      split
      · rename_i hc; subst hc; exact ⟨_, _, rfl⟩
      · exact ⟨_, _, rfl⟩
    simp only []
    split
    · unfold State.passEnded
      obtain ⟨cores, fresh, h1, h2⟩ := State.splitConvoy_cases
        ({ s.setCore p.core { s.core p.core with clock := (s.core p.core).clock + 1 } with pass := none } : State) p.core p.convoy 32
      have hc : ∀ c, ∃ clock convoys, (({ s.setCore p.core { s.core p.core with clock := (s.core p.core).clock + 1 } with pass := none } : State).splitConvoy
          p.core p.convoy 32).core c = { s.core c with clock := clock, convoys := convoys } := by
        intro c
        obtain ⟨v, e⟩ := h2 c
        obtain ⟨w, u, e'⟩ := hcore none c
        exact ⟨w, v, by rw [e, e']⟩
      simp only []
      split
      · exact ⟨cores, fresh, none, by rw [h1]; rfl, hc⟩
      · split
        · exact ⟨cores, fresh, none, by rw [h1]; rfl, hc⟩
        · rename_i g _ _ k hk
          have hk' : s.groups.get? g = some k := by rw [h1] at hk; exact hk
          have hd := h _ (Tab.mem_of_get? hk')
          split
          · exact ⟨cores, fresh, none, by rw [h1]; rfl, hc⟩
          · rw [hd.1, hd.2]
            exact ⟨cores, fresh, none, by rw [h1]; rfl, hc⟩
    · exact ⟨_, s.fresh, _, rfl, hcore _⟩

/-! ### Exceptions -/

/-- R338, R443: what taking an exception can do: a trace record says that the unit faulted, but not where the exception waits for resolution (R304) or
is that of a step, whose unit has its record. -/
theorem State.takeTrap_cases {s : State} {f : Nat} {x : Fibre} {c : Context} (hx : s.fibres.get? f = some x) (hc : s.contexts.get? x.context = some c)
    (unit : BitVec 52) (rep : Nat) (src : FaultSource) (code : FaultCode) (addr info : Word) :
    let t := s.leaveConvoy f
    let u := if code = .step then t else t.traceUnit x unit rep true
    s.takeTrap f unit rep src code addr info =
      if (c.desc.breakToDebugger && x.group.isSome && code == .break_) = true then (u.setFibre f { x with pc := unit, hints := {} }).breakGroup x.group
      else if x.trap.inHandler = true ∨ c.desc.tvec = 0 then
        if x.speculative = true then t.setFibre f { x with life := x.life.waiting .resolution, pc := unit, hints := {} }
        else ((u.workEvent 8 code x.launch (u.linearOf f)).setFibre f { x.cancelQueues with hints := {}, rep := 0 }).endFibre f
      else u.setFibre f
        { x with
          life := x.life.readied, pc := c.desc.tvec, rep := 0, hints := {}, rayRequest := none,
          trap := { inHandler := true, code := BitVec.ofNat 16 (code.code + 256 * src.code), unit := unit, rep := BitVec.ofNat 7 rep, addr := addr, info := info } } := by
  have hc' : (s.leaveConvoy f).contexts.get? x.context = some c := by
    obtain ⟨cores, h, _⟩ := s.leaveConvoy_cases f
    rw [h]; exact hc
  simp only [State.takeTrap, hx, hc']
  generalize (c.desc.breakToDebugger && x.group.isSome && code == .break_) = d
  by_cases hw : x.trap.inHandler = true ∨ c.desc.tvec = 0
  · have hw' : (x.trap.inHandler || decide (c.desc.tvec = 0)) = true := by simpa using hw
    cases d <;> cases hs : x.speculative <;> simp only [hw, hw', Bool.and_true, Bool.and_false, Bool.not_false, Bool.not_true, Bool.false_or,
      Bool.true_or, beq_iff_eq, if_true, if_false, Bool.false_eq_true]
  · have hw' : (x.trap.inHandler || decide (c.desc.tvec = 0)) = false := by simpa using hw
    cases d <;> simp only [hw, hw', Bool.and_false, Bool.false_or, beq_iff_eq, if_true, if_false, Bool.false_eq_true]

/-! ### Releases -/

theorem State.releaseOn_edge (s : State) (c : Nat) : (s.releaseOn c).2 = (c, (s.core c).release) := rfl

/-- R215: a release point changes nothing but the release sequence of its core. -/
theorem State.releaseOn_cases (s : State) (c : Nat) :
    (s.releaseOn c).1 = s.setCore c { s.core c with release := ((s.core c).release + 1) % 2 ^ 64 } := rfl

/-! ### Translations and the checks of an access -/

/-- Keeping a translation changes nothing but what walkers hold. -/
theorem State.cacheLeaf_cases (s : State) (w : Walker) (l : CachedLeaf) : ∃ cores walks, s.cacheLeaf w l = { s with cores := cores, walks := walks } := by
  cases w with
  | core c => exact ⟨_, s.walks, rfl⟩
  | die d => exact ⟨s.cores, _, rfl⟩

/-- A translation changes nothing but what walkers hold. -/
theorem State.translate_cases (s : State) (w : Walker) (c va : Nat) : ∃ cores walks, (s.translate w c va).2 = { s with cores := cores, walks := walks } := by
  unfold State.translate
  split
  · exact ⟨s.cores, s.walks, rfl⟩
  · split
    · exact ⟨s.cores, s.walks, rfl⟩
    · split
      · exact State.cacheLeaf_cases _ _ _
      · exact ⟨s.cores, s.walks, rfl⟩

/-- R310: where the first access to a piece of a new block makes its bytes free, nothing changes but those bytes, wherever they are held, the counter of free
values, and the list of such pieces that the context keeps. -/
theorem State.freshen_cases (s : State) (c va pa comp : Nat) :
    ∃ home cores launches contexts freeCount,
      s.freshen c va pa comp = { s with home := home, cores := cores, launches := launches, contexts := contexts, freeCount := freeCount } ∧
      ∀ k, (contexts.get? k).map (fun q => { q with unset := [] }) = (s.contexts.get? k).map fun q => { q with unset := [] } := by
  unfold State.freshen
  split
  · exact ⟨s.home, s.cores, s.launches, s.contexts, s.freeCount, rfl, fun _ => rfl⟩
  · rename_i k hk
    simp only []
    split
    · refine ⟨_, _, _, _, _, rfl, fun j => ?_⟩
      show ((s.contexts.put c _).get? j).map _ = _
      rw [Tab.get?_put]
      split
      · rename_i h; subst h; rw [hk]; rfl
      · rfl
    · exact ⟨s.home, s.cores, s.launches, s.contexts, s.freeCount, rfl, fun _ => rfl⟩

/-- The checks of an access change nothing but what walkers hold, and what R310 makes free. -/
theorem State.locate_cases {s t : State} {f : Nat} {x : Fibre} {a : Access} {va : Word} {n al : Nat} {l : Loc}
    (h : s.locate f x a va n al = .ok (l, t)) :
    ∃ cores walks home launches contexts freeCount,
      t = { s with cores := cores, walks := walks, home := home, launches := launches, contexts := contexts, freeCount := freeCount } ∧
      ∀ k, (contexts.get? k).map (fun q => { q with unset := [] }) = (s.contexts.get? k).map fun q => { q with unset := [] } := by
  obtain ⟨cores, walks, ht⟩ := s.translate_cases (.core x.core) x.context va.toNat
  unfold State.locate at h
  simp only [] at h
  split at h
  · cases h
  · split at h
    · cases h
    · split at h
      · cases hw : s.windowLoc x a (va.toNat - Config.windowBase) n with
        | error e => rw [hw] at h; cases h
        | ok l => rw [hw] at h; cases h; exact ⟨s.cores, s.walks, s.home, s.launches, s.contexts, s.freeCount, rfl, fun _ => rfl⟩
      · split at h
        · cases h
        · rename_i heq
          split at h
          · cases h
          · split at h
            · cases h
            · split at h
              · cases h
              · split at h
                · cases h
                · simp only [Except.ok.injEq, Prod.mk.injEq] at h
                  rw [heq] at ht
                  simp only [] at ht
                  subst ht
                  rw [← h.2]
                  obtain ⟨home, cores', launches, contexts, freeCount, e, hk⟩ := State.freshen_cases { s with cores := cores, walks := walks } x.context va.toNat _ _
                  exact ⟨cores', walks, home, launches, contexts, freeCount, e, hk⟩

theorem State.locateAll_cases {f : Nat} {x : Fibre} {a : Access} {n al : Nat} (vas : List Word) {s t : State} {ls : List Loc}
    (h : s.locateAll f x a n al vas = .ok (ls, t)) :
    ls.length = vas.length ∧ ∃ cores walks home launches contexts freeCount,
      t = { s with cores := cores, walks := walks, home := home, launches := launches, contexts := contexts, freeCount := freeCount } ∧
      ∀ k, (contexts.get? k).map (fun q => { q with unset := [] }) = (s.contexts.get? k).map fun q => { q with unset := [] } := by
  induction vas generalizing s ls with
  | nil =>
    simp only [State.locateAll, Except.ok.injEq, Prod.mk.injEq] at h
    obtain ⟨rfl, rfl⟩ := h
    exact ⟨rfl, s.cores, s.walks, s.home, s.launches, s.contexts, s.freeCount, rfl, fun _ => rfl⟩
  | cons va vas ih =>
    rw [State.locateAll] at h
    split at h
    · cases h
    · rename_i l u hl
      split at h
      · cases h
      · rename_i ls' u' hu
        simp only [Except.ok.injEq, Prod.mk.injEq] at h
        obtain ⟨rfl, rfl⟩ := h
        obtain ⟨hlen, cores, walks, home, launches, contexts, freeCount, e, hk⟩ := ih hu
        obtain ⟨cores', walks', home', launches', contexts', freeCount', e', hk'⟩ := State.locate_cases hl
        subst e'
        exact ⟨by simp [hlen], cores, walks, home, launches, contexts, freeCount, e, fun k => (hk k).trans (hk' k)⟩

end Sys2Proof.Machine
end

