-- ==== Sys2Proof/Tests/Slice0.lean ====
section
/-! SUPPORT. Tests: an ill-formed term for each check of `Instr.wf`, words written out from the chapters' encodings, results of single steps that the
chapters work out, and a witness for the hypotheses of every statement. -/

namespace Sys2Proof.Tests

open Sys2Proof Sys2Proof.Machine

set_option maxRecDepth 20000

/-! Ill-formed terms: each list names terms that break one check each. -/

theorem smoke_scalar_types : ([.add .push (.a 0) (.a 0) .f32, .sub .push (.a 0) (.a 0) .b32, .mul .push (.a 0) (.a 0) .f64, .mulh .push (.a 0) (.a 0) .b64,
    .div .push (.a 0) (.a 0) .bf16, .rem .push (.a 0) (.a 0) .f16, .min .push (.a 0) (.a 0) .f32, .max .push (.a 0) (.a 0) .f32, .neg .push (.a 0) .f32,
    .abs .push (.a 0) .b32, .mad .push (.a 0) (.a 0) .f32, .and .push (.a 0) (.a 0) .s32, .or .push (.a 0) (.a 0) .n32, .xor .push (.a 0) (.a 0) .f32,
    .not .push (.a 0) .s64, .shl .push (.a 0) (.a 0) .n32, .shr .push (.a 0) (.a 0) .n64, .sra .push (.a 0) (.a 0) .s32, .ror .push (.a 0) (.a 0) .s8,
    .pcnt .push (.a 0) .n32, .clz .push (.a 0) .n64, .ctz .push (.a 0) .n16, .brev .push (.a 0) .f32, .bfi .push (.a 0) (.a 0) .s32,
    .bfx .push (.a 0) (.a 0) .n32, .mov .push (.a 0) .f32, .sel .push (.a 0) (.a 0) false 0 .s32, .setpEq (.a 0) (.a 0) 0 .f32,
    .setpNe (.a 0) (.a 0) 0 .f64, .setpLt (.a 0) (.a 0) 0 .b32, .setpLe (.a 0) (.a 0) 0 .b64, .shlImm .push (.a 0) 64, .shrImm .push (.a 0) 64,
    .sraImm .push (.a 0) 64, .fadd .push (.a 0) (.a 0) .s32, .fsub .push (.a 0) (.a 0) .n32, .fmul .push (.a 0) (.a 0) .b32, .fmin .push (.a 0) (.a 0) .s8,
    .fmax .push (.a 0) (.a 0) .n8, .sfnRcp .push (.a 0) .s32, .sfnRsq .push (.a 0) .s32, .sfnSqrt .push (.a 0) .s32, .sfnExp2 .push (.a 0) .s32,
    .sfnLog2 .push (.a 0) .s32, .sfnSin .push (.a 0) .s32, .sfnCos .push (.a 0) .s32, .sfnTanh .push (.a 0) .s32, .fcvt .push (.a 0) .f32 .f32,
    .fsetpEq (.a 0) (.a 0) 0 .s32, .fsetpLt (.a 0) (.a 0) 0 .s32, .fsetpLe (.a 0) (.a 0) 0 .s32, .fsetpUn (.a 0) (.a 0) 0 .b32,
    .rareModifierHint false .rz false .default] : List Instr).all (fun i => !i.wf) = true := by decide

theorem smoke_vector_types : ([.vadd 0 0 0 0 .b32 false, .vsub 0 0 0 0 .b64 false, .vmul 0 0 0 0 .b32 false, .vdiv 0 0 0 0 .b32 false,
    .vmin 0 0 0 0 .b32 false, .vmax 0 0 0 0 .b32 false, .vabs 0 0 0 .b32 false, .vneg 0 0 0 .b32 false, .vfma 0 0 0 0 .s32 false, .vand 0 0 0 0 .s32 false,
    .vor 0 0 0 0 .f32 false, .vxor 0 0 0 0 .n32 false, .vshl 0 0 0 0 .s32 false, .vshr 0 0 0 0 .n32 false, .vsra 0 0 0 0 .s32 false,
    .vcmpNe 0 0 0 0 .f32 false, .vcmpLt 0 0 0 0 .b32 false, .vcmpLe 0 0 0 0 .b64 false, .vcmpUn 0 0 0 0 .s32 false, .vcvt 0 0 0 0 false .f32 .f32 false,
    .vcvt 0 0 1 0 false .f16 .f32 false, .vcvt 0 0 0 0 true .f64 .f32 false, .vcvt 0 0 0 0 true .f16 .s32 false, .vcvtSx 0 0 0 0 false .sx4 .f16 false,
    .vcvtSx 0 0 1 0 false .sx4 .f32 false, .vsfnRcp 0 0 0 .s32, .vsfnRsq 0 0 0 .s32, .vsfnSqrt 0 0 0 .s32, .vsfnExp2 0 0 0 .s32, .vsfnLog2 0 0 0 .s32,
    .vsfnSin 0 0 0 .s32, .vsfnCos 0 0 0 .s32, .vsfnTanh 0 0 0 .b32, .mand 1 0 0 0 false, .mor 1 0 0 0 false, .mxor 1 0 0 0 false, .mnot 1 0 0 false,
    .vaddS 0 0 (.k 0) 0 .b32, .vsubS 0 0 (.k 0) 0 .b32, .vmulS 0 0 (.k 0) 0 .b32, .vdivS 0 0 (.k 0) 0 .b32, .vminS 0 0 (.k 0) 0 .b32,
    .vmaxS 0 0 (.k 0) 0 .b32, .vfmaS 0 0 (.k 0) 0 .s32, .vandS 0 0 (.k 0) 0 .s32, .vorS 0 0 (.k 0) 0 .s32, .vxorS 0 0 (.k 0) 0 .s32,
    .vshlS 0 0 (.k 0) 0 .s32, .vshrS 0 0 (.k 0) 0 .s32, .vsraS 0 0 (.k 0) 0 .s32, .mpop 0 .push, .mfirst 0 .push, .vidx 0 (.k 0) 0 .f32] :
    List Instr).all (fun i => !i.wf) = true := by decide

theorem smoke_rearrangement : ([.vilv2 0 15 false, .vilv3 0 14 false, .vilv4 0 13 false, .vdilv2 15 0 false, .vdilv3 14 0 false, .vdilv4 13 0 false,
    .vredAdd 0 0 0 .b32, .vredMin 0 0 0 .b32, .vredMax 0 0 0 .b32, .vredAnd 0 0 0 .s32, .vredOr 0 0 0 .s32, .vredXor 0 0 0 .s32, .vscanAdd 0 0 0 .b32 false,
    .vscanMin 0 0 0 .b32 false, .vscanMax 0 0 0 .b32 false, .vscanAnd 0 0 0 .s32 false, .vscanOr 0 0 0 .s32 false, .vscanXor 0 0 0 .s32 false,
    .xredAdd 0 0 (.k 0) .b32, .xredMin 0 0 (.k 0) .b32, .xredMax 0 0 (.k 0) .b32, .xredAnd 0 0 (.k 0) .s32, .xredOr 0 0 (.k 0) .s32,
    .xredXor 0 0 (.k 0) .s32] : List Instr).all (fun i => !i.wf) = true := by decide

theorem smoke_memory : ([.ldq 0 0 (.k 0) .s32 .sx8, .ldq 15 0 (.k 0) .f32 .sx4, .ldq 0 1 (.k 0) .f32 .sx4, .stq 0 (.k 0) .s32 .sx8 false 0,
    .stq 0 (.k 0) .f32 .sx8 false 1, .stq 15 (.k 0) .f32 .sx4 false 0, .stq 0 (.k 0) .f32 .sx4 true 15, .compressedTileWrite 192 0,
    .atomAdd .push (.k 0) (.k 0) .b32, .atomMin .push (.k 0) (.k 0) .b32, .atomMax .push (.k 0) (.k 0) .s8, .atomAnd .push (.k 0) (.k 0) .n32,
    .atomOr .push (.k 0) (.k 0) .n32, .atomXor .push (.k 0) (.k 0) .n32, .atomExch .push (.k 0) (.k 0) .s32, .atomCas .push (.k 0) (.k 0) .f32,
    .aredAdd (.k 0) (.k 0) .b32, .aredMin (.k 0) (.k 0) .f16, .aredMax (.k 0) (.k 0) .b32, .aredAnd (.k 0) (.k 0) .n32, .aredOr (.k 0) (.k 0) .n32,
    .atomwLd .push (.k 0), .atomwExch .push (.k 0) (.n 0), .atomwExch (.n 0) (.k 0) (.k 0), .atomwCas .push (.k 0) (.n 0), .atomwCas (.n 0) (.k 0) (.a 0),
    .queueReadAhead 0 4] : List Instr).all (fun i => !i.wf) = true := by decide

theorem smoke_groups_and_engines : ([.bar 16, .gset 16 (.k 0), .gsetOpen 16, .mma (.k 0) (.k 0) (.k 0) none, .matrixSelfTest 192 0 [], .matrixSelfTest 0 4 [],
    .matrixSelfTest 0 0 [4], .traceR (.k 0) (.k 0), .traceaR (.a 0) (.k 0), .hitld .push (.k 0) 8, .lwalk .push (.k 0) (.k 0), .tex (.k 0) (.k 0) (.n 0),
    .tex (.n 0) (.k 0) (.k 0), .texq .push (.k 0) (.k 0), .rsinit .push (.k 0), .rsadd .push (.n 0) (.k 0), .rsadd (.n 0) (.k 0) (.k 0),
    .rsmerge .push (.n 0) (.k 0), .rsmerge (.n 0) (.k 0) (.k 0), .rsnorm .push, .rsld .push (.k 0), .rsst (.k 0) (.k 0), .tcall .push (.k 0) (.k 0),
    .trapRd .push 5, .trapWr 0 (.k 0), .trapWr 3 (.k 0)] : List Instr).all (fun i => !i.wf) = true := by decide

theorem smoke_device_steps : ([.convoyForming 192, .convoyPass 192 0, .convoyAgePromotion 192 0, .groupPlacement 2, .taskStart 192, .parkedFibreSave 192,
    .localBoundaryStep 192 false, .recordSteal 192 0, .jointLaunch 1024, .writeThenSignal 1024, .signalStep 1024, .waitOnValue 1024,
    .waitValuePoll 1024, .timestamp 1024, .traceOpen 1024, .traceClose 1024, .traceFlush 1024, .queueResetPacket 1024, .marker 1024, .doorbellPoll 1024,
    .eventWrite (.queue 1024), .eventAckPoll (.context 64), .sliceEnd 64, .contextSaved 64, .contextSchedule 64, .dumpComplete 64, .createContext 64,
    .destroyContext 64, .createQueue 64, .destroyQueue 64, .resetQueue 64, .setSlice 64, .serviceReply 64, .dumpRequest 64, .readCapabilityList 64,
    .attestationReport 64, .mailboxUnknownCode 64, .pageMigration 64 0 false 0, .rdmaWrite 1024 0 0 [], .rdmaRead 1024 0 0 0, .rdmaFetchAdd 1024 0 0 0,
    .rdmaCmpSwap 1024 0 0 0 0, .rdmaUnsupported 1024, .remoteAccessRequest 4096 0 (.load false 0 1), .remoteAccessRequest 0 128 (.load false 0 1),
    .pathDownTimeout 4096, .flushMarker ⟨0, 4096, 0, 0, 1⟩, .flushMarker ⟨128, 0, 0, 0, 1⟩, .flushAck 4096 0, .traceSample 1024 0, .traceSample 0 192,
    .debugStop 64, .debugResume 64, .stepByTrap 64, .stepByStop 64, .stepOff 64, .debugDump 64, .junctionLimit 2, .targetedSelfTestDone (.core 192) true,
    .targetedSelfTestDone (.slice 2 0) true, .targetedSelfTestDone (.slice 0 256) true, .targetedSelfTestDone (.subArray 192 0 0) true,
    .targetedSelfTestDone (.subArray 0 4 0) true, .targetedSelfTestDone (.subArray 0 0 4) true, .targetedSelfTestDone (.memoryDevice 2 false 0) true,
    .targetedSelfTestDone (.memoryDevice 0 false 24) true] : List Instr).all (fun i => !i.wf) = true := by decide

/-! Words of the chapters' examples (each chapter's table of words, bit by bit). -/

/-- The examples of 04_fibre.md (after R110), 03_encoding.md (R69, R70, R72) and 14_context.md. -/
theorem test_decode_scalar :
    decode 0x78000020 = .ok (.getsv .push .fid) ∧ decode 0x18003093 = .ok (.setpLt (.a 0) (.k 0) 1 .n64) ∧ decode 0x66400003 = .ok (.brp true 1 3) ∧
    decode 0x04000023 = .ok (.mul .push (.a 0) (.a 0) .n64) ∧ decode 0x60000002 = .ok (.bra 2) ∧ decode 0x20000064 = .ok (.addImm .push (.a 0) 100) ∧
    decode 0x0D000039 = .ok (.mov (.n 0) (.a 0) .b64) ∧ decode 0x70000030 = .ok .exit ∧ decode 0x74000000 = .ok .nop ∧
    decode 0x1804FF79 = .ok (.setpEq (.n 3) (.k 15) 7 .b64) ∧ decode 0x111C1023 = .ok (.lea (.n 1) (.k 0) (.n 0) 2) ∧
    decode 0x14058319 = .ok (.sel .push (.n 6) (.a 3) false 1 .b64) ∧ decode 0x08001459 = .ok (.shr .push (.a 0) (.n 4) .b64) ∧
    decode 0x3400001B = .ok (.shrImm .push (.a 0) 27) ∧ decode 0x2400003F = .ok (.andImm .push (.a 0) 63) ∧ decode 0x30004003 = .ok (.shlImm .push (.a 1) 3) ∧
    decode 0x3C000804 = .ok (.movImm .push 0x804) ∧ decode 0x24000001 = .ok (.andImm .push (.a 0) 1) := by and_intros <;> rfl

theorem test_decode_floating :
    decode 0x40003204 = .ok (.fadd .push (.a 0) (.k 2) .f32) ∧ decode 0x41A68015 = .ok (.fsub (.n 10) (.n 10) (.a 0) .f64) ∧
    decode 0x40000084 = .ok (.sfnRcp .push (.a 0) .f32) ∧ decode 0x44000052 = .ok (.fcvt .push (.a 0) .f64 .s64) ∧
    decode 0x44000054 = .ok (.fcvt .push (.a 0) .f64 .f32) := by and_intros <;> rfl

theorem test_decode_hints :
    decode 0xFC000123 = .ok (.wideImmediateHint 0x123) ∧ decode 0xFD0F8000 = .ok (.repeatPrefix 3 true true true false) ∧
    decode 0xFFA00000 = .ok (.rareModifierHint true .rz false .default) ∧ decode 0xFC400000 = .ok (.wideImmediateHint 0x400000) ∧
    (decode 0xFFFFFFFF).toOption = none ∧ decode 0x00000000 = .error .unassignedOpcode := by and_intros <;> rfl

/-- The examples of 05_vector_register.md, 06_vector_operations.md and 14_context.md. -/
theorem test_decode_vector :
    decode 0xAC430000 = .ok (.vidx 1 (.k 0) 0 .s32) ∧ decode 0xAC871010 = .ok (.vsplat 2 1 (.k 1) 0 .s32) ∧
    decode 0x88448082 = .ok (.vcmpLt 1 1 2 0 .s32 true) ∧ decode 0xA8050020 = .ok (.mpop 1 (.n 0)) ∧ decode 0xA4871028 = .ok (.vxorS 2 1 (.k 1) 0 .b32) ∧
    decode 0xB0C80280 = .ok (.vtopkI 3 2 .s32) ∧ decode 0xACC32020 = .ok (.vsetl 3 (.k 2)) ∧ decode 0xB108C180 = .ok (.vperm 4 2 3 0 false) ∧
    decode 0xBC1330E0 = .ok (.vext 4 (.k 3)) ∧ decode 0x8C440080 = .ok (.vcoal 1 1) := by and_intros <;> rfl

/-- The examples of 07_memory.md (R194), 08_frame.md, 10_barrier.md and 09_group.md. -/
theorem test_decode_memory_frames_groups :
    decode 0xD4045000 = .ok (.ldt .push (.n 1) .f32 0) ∧ decode 0xC5245000 = .ok (.st (.n 2) (.n 1) .f32 0) ∧ decode 0xD4000200 = .ok .pfence ∧
    decode 0xD4000300 = .ok .pfenceDie ∧ decode 0xC0040C18 = .ok (.ld .push (.n 0) .n64 24) ∧ decode 0xC8461A00 = .ok (.vld 1 0 (.k 0) .n8 0) ∧
    decode 0xD80C4000 = .ok (.spawn (.k 1) (.a 0)) ∧ decode 0xD8000010 = .ok .await ∧ decode 0xE0003280 = .ok (.kst (.a 0) 2) ∧
    decode 0xE00C0110 = .ok (.elect .push (.k 0) (.a 1) 1) ∧ decode 0xE4020000 = .ok (.bar 1) ∧ decode 0xDC0CD384 = .ok (.aredAdd (.k 3) (.n 3) .f32) := by
  and_intros <;> rfl

/-- The examples of 10_barrier.md and 11_matrix.md. -/
theorem test_decode_engines :
    decode 0xE8619813 = .ok (.kick (.k 0) (.k 3) (some 3)) ∧ decode 0xE8619800 = .ok (.kick (.k 0) (.k 3) none) ∧ decode 0xE8FFF800 = .ok (.wait 63 63 0) ∧
    decode 0xE9860000 = .ok (.gset 3 (.a 0)) ∧ decode 0xE669A800 = .ok (.swwait (.k 4) (.k 5) .push) ∧ decode 0xEF000000 = .ok .mrdy ∧
    decode 0xEC249A00 = .ok (.mma (.n 2) (.n 3) (.n 0) none) ∧ decode 0xEDEA8EE0 = .ok (.mst (.k 5) (.n 1) (.k 7) none) ∧
    decode 0xEFEA0000 = .ok (.mwait (.k 5)) := by and_intros <;> rfl

/-- The examples of R307, R340, R361, R434 and R439. -/
theorem test_decode_system :
    decode 0xF80C0000 = .ok (.launch .push (.k 0)) ∧ decode 0xF8049310 = .ok (.shape (.n 2) (.n 3)) ∧ decode 0xF9457220 = .ok (.xalloc (.n 4) (.n 5) (.k 2)) ∧
    decode 0xF8050030 = .ok (.xfree (.n 4)) ∧ decode 0xF9300040 = .ok (.trapRd (.n 3) 0) ∧ decode 0xF8009041 = .ok (.trapWr 2 (.n 0)) ∧
    decode 0xF8000042 = .ok .trapRet ∧ decode 0xF8045250 = .ok (.sys .push (.n 1) (.n 2)) ∧ decode 0xF8014060 = .ok (.brk 5) ∧
    decode 0xF8049370 = .ok (.pinval (.n 2) (.n 3)) ∧ decode 0xF8049380 = .ok (.metaz (.n 2) (.n 3)) ∧ decode 0xF8049390 = .ok (.decomp (.n 2) (.n 3)) ∧
    decode 0xF94480A0 = .ok (.pquery (.n 4) (.n 2)) ∧ decode 0xF80480B0 = .ok (.bxsum (.n 2)) ∧ decode 0xF80493C0 = .ok (.markOpen (.n 2) (.n 3)) ∧
    decode 0xF80000C1 = .ok .markClose ∧ decode 0xF80480C2 = .ok (.markTrace (.n 2)) := by and_intros <;> rfl

/-- The examples of R397 and of 21_programs_paths.md. -/
theorem test_decode_rays_and_records :
    decode 0xF0308820 = .ok (.traceR (.n 8) (.n 1)) ∧ decode 0xF10088C0 = .ok (.hitld .push (.n 1) 6) ∧ decode 0xF1810000 = .ok (.lwalk .push (.n 16) (.a 0)) ∧
    decode 0xF0B00020 = .ok (.traceaR (.n 8) (.a 0)) ∧ decode 0xF40C1100 = .ok (.rngkey (.k 0) (.n 1)) ∧ decode 0xF4041110 = .ok (.rngset (.n 0) (.n 1)) ∧
    decode 0xF4000020 = .ok (.rng .push) ∧ decode 0xF4354030 = .ok (.rngV 3 (.n 5)) ∧ decode 0xF58C4040 = .ok (.rsinit (.n 8) (.k 1)) ∧
    decode 0xF5870050 = .ok (.rsadd (.n 8) (.n 12) (.a 0)) ∧ decode 0xF5880060 = .ok (.rsmerge (.n 8) (.n 16) (.a 0)) ∧ decode 0xF5800070 = .ok (.rsnorm (.n 8)) ∧
    decode 0xF5848080 = .ok (.rsld (.n 8) (.n 2)) ∧ decode 0xF4049890 = .ok (.rsst (.n 2) (.n 8)) ∧ decode 0xF40C80A0 = .ok (.reuse (.k 2)) ∧
    decode 0xF54CD8B0 = .ok (.tcall (.n 4) (.k 3) (.n 8)) ∧ decode 0xF40400C0 = .ok (.tret (.n 0)) := by and_intros <;> rfl

/-! Witnesses: for each statement, states and operands that meet the hypotheses of its clauses. `fibre` has the named registers given, `machine` runs one
fibre in the pass in progress. -/

def fibre (vs : List Word) : Fibre := { benchFibre with named := Vector.ofFn fun i => vs.getD i.val 0 }

/-- A machine on the state that `withFetchWord` builds: what stands in its tables beside the fibre. -/
def machine (x : Fibre) (g : Group := benchGroup) (c : Context := benchContext) (l : Launch := benchLaunch) (r : Frame := benchFrame) : State :=
  { State.reset.withFetchWord 32 0x74000000 with
    fibres := [(0, x)], groups := [(0, g)], contexts := [(0, c)], launches := [(0, l)], frames := [(0, r)],
    pass := some { core := 0, convoy := 0, todo := [0], members := [0], snapshot := [(0, x)] } }

theorem issues (x : Fibre) (g : Group) (c : Context) (l : Launch) (r : Frame) : (machine x g c l r).Issues 0 x := ⟨rfl, rfl⟩

theorem undebugged (s : State) (h : s.groups = [(0, benchGroup)] := by rfl) : s.Undebugged := by
  intro e he
  rw [h] at he
  rw [List.mem_singleton.mp he]
  exact ⟨rfl, rfl⟩

/-- Did a check answer without an error? -/
abbrev fine {ε α : Type} (e : Except ε α) : Bool := e.toOption.isSome

theorem witness_Decode_encode : encode (.add .push (.a 0) (.a 0) .s32) = some 0x04000000 := rfl

theorem witness_Encode_decode : decode 0x04000023 = .ok (.mul .push (.a 0) (.a 0) .n64) := rfl

/-- A word that runs, one that decodes to nothing, one ill-formed, a hint word, one that names n4 in a window of 4, and a fetch that faults. -/
theorem witness_Step_runs_decoded :
    (∀ w ∈ [0x74000000, 0, 0x04000004, 0xFC000123],
      (State.reset.withFetchWord 32 w).Issues 0 benchFibre ∧
      (((State.reset.withFetchWord 32 w).fetchWord 0 benchFibre).toOption.map fun e => e.1) = some (BitVec.ofNat 32 w)) ∧
    decode 0x74000000 = .ok .nop ∧ Instr.nop.wf = true ∧ isHint 0x74000000 = false ∧ unitOk benchFibre 0x74000000 .nop = true ∧
    (decode 0).toOption = none ∧
    decode 0x04000004 = .ok (.add .push (.a 0) (.a 0) .f32) ∧ (Instr.add .push (.a 0) (.a 0) .f32).wf = false ∧
    decode 0xFC000123 = .ok (.wideImmediateHint 0x123) ∧ isHint 0xFC000123 = true ∧
    decode 0x04050000 = .ok (.add .push (.n 4) (.a 0) .s32) ∧
    unitOk { benchFibre with window := 4 } 0x04050000 (.add .push (.n 4) (.a 0) .s32) = false ∧
    fine ((machine { benchFibre with pc := 0x4000000000000 }).fetchWord 0 { benchFibre with pc := 0x4000000000000 }) = false ∧
    encode .packageReset = none ∧ Instr.packageReset.wf = true ∧
    (∃ s : State, s.pass = none ∧ s.schedule = [.event .packageReset, .time 1]) := by
  refine ⟨?_, rfl, rfl, rfl, by decide, rfl, rfl, rfl, rfl, rfl, rfl, by decide, by decide, rfl, rfl, ⟨{ schedule := [.event .packageReset, .time 1] }, rfl, rfl⟩⟩
  intro w hw
  simp only [List.mem_cons, List.not_mem_nil, or_false] at hw
  rcases hw with rfl | rfl | rfl | rfl <;> exact ⟨⟨rfl, rfl⟩, by decide⟩

theorem witness_Memory_stays_canonical : (State.reset.withFetchWord 32 0x74000000).home.mem.wf = true ∧
    (State.reset.withFetchWord 32 0x74000000).host.wf = true ∧ ∃ t, step (State.reset.withFetchWord 32 0x74000000) = .next t :=
  ⟨by decide, by decide, _, rfl⟩

/-- Registers n0-n4: 5, 0, the least number, -1, the greatest number. -/
def numbers : Fibre := fibre [5, 0, 0x8000000000000000, 0xFFFFFFFFFFFFFFFF, 0x7FFFFFFFFFFFFFFF]

theorem witness_Integer_results :
    let x := numbers
    let y : Fibre := { numbers with hints := { sat := true } }
    let s := machine x
    x.hints.sat = false ∧ y.hints.sat = true ∧ (s.operand x (.n 1)).setWidth Ty.s64.width = 0 ∧ Ty.n64.signed = false ∧ Ty.s64.signed = true ∧
    ((s.operand x (.n 4)).setWidth Ty.s64.width).msb = false ∧ ((s.operand x (.n 2)).setWidth Ty.s64.width).msb = true ∧
    (s.operand x (.n 0)).setWidth Ty.n64.width ≠ 0 ∧ (s.operand x (.n 2)).setWidth Ty.s64.width = BitVec.intMin Ty.s64.width ∧
    (s.operand x (.n 3)).setWidth Ty.s64.width = BitVec.allOnes Ty.s64.width ∧
    BitVec.saddOverflow ((machine y).operand y (.n 4)) (1 : Word) = true ∧ BitVec.saddOverflow ((machine y).operand y (.n 0)) (1 : Word) = false := by
  decide

theorem witness_Integer_results_issues : (machine numbers).Issues 0 numbers ∧
    (machine { numbers with hints := { sat := true } }).Issues 0 { numbers with hints := { sat := true } } := ⟨issues .., issues ..⟩

theorem witness_Bit_results : (machine numbers).Issues 0 numbers := issues ..

theorem witness_Moves : (machine numbers).Issues 0 numbers := issues ..

theorem witness_Integer_compares : (machine numbers).Issues 0 numbers := issues ..

theorem witness_Nop_and_pset : (machine numbers).Issues 0 numbers := issues ..

/-- n0 a quiet NaN, n1 the number 1. -/
theorem witness_Floating_results :
    let x := fibre [0x7FC00000, 0x3F800000]
    (machine x).Issues 0 x ∧ (exact .f32 ((machine x).operand x (.n 0))).isNan = true ∧ (exact .f32 ((machine x).operand x (.n 1))).isNan = false :=
  ⟨issues .., by decide, by decide⟩

theorem witness_Floating_compares : (machine numbers).Issues 0 numbers := issues ..

theorem witness_Branches : (machine numbers).Issues 0 numbers := issues ..

/-- A word address below 2^52, an odd address, and the first address above the range. -/
theorem witness_Indirect_transfers :
    let x := fibre [0xFFFFFFFFFFFFC, 6, 0x10000000000000]
    let v (i : Fin 32) : Word := (machine x).operand x (.n i)
    (machine x).Issues 0 x ∧ (v 0).extractLsb' 0 2 = 0 ∧ (v 0).extractLsb' 52 12 = 0 ∧ (v 1).extractLsb' 0 2 ≠ 0 ∧
    (v 2).extractLsb' 0 2 = 0 ∧ (v 2).extractLsb' 52 12 ≠ 0 :=
  ⟨issues .., by decide, by decide, by decide, by decide, by decide⟩

/-- The ends of the stack, an address that is not a multiple of 8, and the addresses next to the stack. -/
theorem witness_Special_values :
    let x := fibre [BitVec.ofNat 64 stackBase, BitVec.ofNat 64 (stackBase + 4096), BitVec.ofNat 64 (stackBase + 4), BitVec.ofNat 64 (stackBase - 8),
      BitVec.ofNat 64 (stackBase + 4104)]
    let s := machine x
    let v (i : Fin 32) : Nat := (s.operand x (.n i)).toNat
    s.Issues 0 x ∧ s.frames.get? 0 = some benchFrame ∧ s.contexts.get? benchFrame.context = some benchContext ∧ s.launches.get? x.launch = some benchLaunch ∧
    (∃ p, s.pass = some p ∧ p.members.length ≤ 32 ∧ 0 ∈ p.members) ∧
    (∀ i ∈ [(0 : Fin 32), 1], v i % 8 = 0 ∧ stackBase ≤ v i ∧ v i ≤ x.stackTop) ∧ v 2 % 8 ≠ 0 ∧
    (v 3 % 8 = 0 ∧ v 3 < stackBase) ∧ v 4 % 8 = 0 ∧ x.stackTop < v 4 :=
  ⟨issues .., rfl, rfl, rfl, ⟨_, rfl, by decide, by decide⟩, by decide, by decide, by decide, by decide, by decide⟩

theorem witness_Completed_units : (machine numbers).Issues 0 numbers ∧ numbers.target = none ∧ (machine numbers).Undebugged ∧
    (machine numbers).fibres.get? 0 = some numbers := ⟨issues .., rfl, undebugged _, rfl⟩

theorem witness_Trap_entry :
    let c : Context := { benchContext with desc := { benchContext.desc with tvec := 0 } }
    let y : Fibre := { numbers with trap := { inHandler := true } }
    ((machine numbers).Issues 0 numbers ∧ numbers.target = none ∧ (machine numbers).Undebugged ∧
      (machine numbers).contexts.get? numbers.context = some benchContext ∧ benchContext.desc.tvec ≠ 0 ∧ numbers.trap.inHandler = false ∧
      benchContext.desc.breakToDebugger = false) ∧
    ((machine numbers benchGroup c).Issues 0 numbers ∧ c.desc.tvec = 0 ∧ numbers.speculative = false ∧ benchFrame.pending = 0 ∧
      benchLaunch.context = numbers.context ∧ numbers.copyFaults = []) ∧
    (machine y).Issues 0 y ∧ y.trap.inHandler = true ∧ (machine y).frames.get? 0 = some benchFrame ∧ (machine y).launches.get? y.launch = some benchLaunch :=
  ⟨⟨issues .., rfl, undebugged _, rfl, by decide, rfl, rfl⟩, ⟨issues .., rfl, rfl, rfl, rfl, rfl⟩, issues .., rfl, rfl, rfl⟩

theorem witness_Trap_forms :
    let y : Fibre := { numbers with trap := { inHandler := true } }
    (machine y).Issues 0 y ∧ y.trap.inHandler = true ∧ (machine numbers).Issues 0 numbers ∧ numbers.trap.inHandler = false :=
  ⟨issues .., rfl, issues .., rfl⟩

theorem witness_Break_and_illegal :
    (machine numbers).Issues 0 numbers ∧ numbers.target = none ∧ (machine numbers).Undebugged ∧
    (machine numbers).contexts.get? numbers.context = some benchContext ∧ benchContext.desc.tvec ≠ 0 ∧ numbers.trap.inHandler = false ∧
    benchContext.desc.breakToDebugger = false := ⟨issues .., rfl, undebugged _, rfl, by decide, rfl, rfl⟩

/-- v0 and v1 of length 4, v2 of length 3, v3 and v4 of length 32, m1 of length 4. -/
def vectors (quota : Nat := 256) (vs : List Word := []) : Fibre :=
  { fibre vs with
    quota := quota, masks := (Vector.replicate 8 []).set 1 [⟨1, 2⟩, ⟨0, 2⟩],
    vregs := Vector.ofFn fun i => if i.val < 2 then [⟨7, 1⟩, ⟨5, 3⟩] else if i.val = 2 then [⟨9, 3⟩] else if i.val < 5 then [⟨3, 32⟩] else [] }

theorem witness_Vector_arithmetic :
    (machine (vectors)).Issues 0 (vectors) ∧ runsLen (vectors).vregs[0] = 4 ∧ runsLen (vectors).vregs[1] = 4 ∧ runsLen (vectors).masks[1] = 4 ∧
    runsLen (vectors).vregs[2] ≠ 4 ∧ (vectors).room (.v 1) ≥ 4 ∧ (vectors 0).room (.v 1) < 1 := ⟨issues .., by decide⟩

theorem witness_Compares_and_masks : (machine (vectors)).Issues 0 (vectors) ∧ (1 : MReg) ≠ 0 := ⟨issues .., by decide⟩

theorem witness_Vector_functions : (machine (vectors)).Issues 0 (vectors) := issues ..

/-- Lengths 64 and 65; positions inside and outside; two registers of 32 elements, which interleave to 64; three of them are too long. -/
theorem witness_Rearrangements :
    let x := vectors 256 [64, 65, 2, 4]
    let s := machine x
    let w (i : Fin 32) : Nat := (s.operand x (.n i)).toNat
    s.Issues 0 x ∧ w 0 ≤ 64 ∧ 64 < w 1 ∧ 0 < runsLen x.vregs[1] ∧ w 2 < runsLen x.vregs[0] ∧ runsLen x.vregs[0] ≤ w 3 ∧ runsLen x.vregs[9] = 0 ∧
    (∀ n < 2, runsLen (x.vregs.toList.getD (3 + n) []) = 32) ∧ 2 * 32 ≤ 64 ∧ 64 < 3 * runsLen x.vregs[3] ∧
    (∃ n < 2, runsLen (x.vregs.toList.getD (2 + n) []) ≠ runsLen x.vregs[2]) ∧ runsLen x.vregs[0] % 2 = 0 ∧ runsLen x.vregs[0] % 3 ≠ 0 ∧
    (elements x.vregs[0])[w 2]? = some 5 ∧ (elements x.vregs[0])[w 3]? = none ∧ x.room (.v 5) ≥ 64 ∧ (vectors 0).room (.v 5) < 1 :=
  ⟨issues .., by decide⟩

theorem witness_Reductions_and_sorts :
    let x := vectors
    (machine x).Issues 0 x ∧ (1 : MReg) ≠ 0 ∧ runsLen x.masks[1] ≠ runsLen x.vregs[2] ∧ runsLen x.masks[1] = runsLen x.vregs[0] ∧
    Ty.s32.isFloat = false ∧ x.hints.sat = false ∧ 1 ≤ x.room (.v 5) ∧ (vectors 0).room (.v 5) = 0 := ⟨issues .., by decide⟩

/-- Two fibres of the group, indices 0 and 1; the second is in the pass, or waits at a list form with the word given. -/
def pair (x y : Fibre) : State :=
  { machine x with fibres := [(0, x), (1, y)], fresh := 2,
                   pass := some { core := 0, convoy := 0, todo := [0, 1], members := [0, 1], snapshot := [(0, x), (1, y)] } }

/-- The word that lists indices 0 to n - 1. -/
def listWord (n : Nat) : Word := BitVec.ofNat 64 (2 ^ 63 + 2 ^ 10 * n + 2 ^ 21)

/-- A mask word of two members with v0 of unequal length, one of the issuing fibre alone; list words: of no group, of a bad count, of others, of two members
of which one has not arrived, and of two that are there. -/
theorem witness_Cross_fibre :
    let x := vectors 256 [3, 1, listWord 0, listWord 3, listWord 2, BitVec.ofNat 64 (2 ^ 63 + 2 ^ 10 + 2 ^ 21 + 1)]
    let y : Fibre := { vectors 256 [] with fid := 1, vregs := Vector.replicate 16 [⟨1, 5⟩] }
    let why := Stall.list (listWord 2) false x.pc
    let z : Fibre := { y with life := .stalled why }
    let kept (at_ : BitVec 52) : Fibre := { x with held := some ⟨at_, listWord 2, [⟨1, 4⟩], 0⟩ }
    let v (i : Fin 32) : Word := (pair x y).operand x (.n i)
    ((pair x y).Issues 0 x ∧ (pair x z).Issues 0 x) ∧ (v 0).msb = false ∧ (v 1).msb = false ∧ (v 2).msb = true ∧
    (∃ e ∈ ((pair x y).maskSet 0 3 x).parts, runsLen e.2.vregs[0] ≠ runsLen x.vregs[0]) ∧
    (∀ e ∈ ((pair x y).maskSet 0 1 x).parts, runsLen e.2.vregs[0] = runsLen x.vregs[0]) ∧
    (machine { x with group := none }).Issues 0 { x with group := none } ∧ x.group = some 0 ∧ x.held = none ∧
    ((v 2).extractLsb' 10 11).toNat = 0 ∧ (pair x y).indexBound 0 = 2 ∧ (pair x y).indexBound 0 ≤ 0 + (((v 3).extractLsb' 10 11).toNat - 1) * 1 ∧
    ((v 4).extractLsb' 0 10).toNat = 0 ∧ ((v 4).extractLsb' 10 11).toNat = 2 ∧ ((v 4).extractLsb' 21 10).toNat = 1 ∧
    (∀ k < 1, ((v 5).extractLsb' 0 10).toNat + k * 1 ≠ x.fid) ∧ (∃ k < 2, 0 + k * 1 = x.fid) ∧
    (pair x y).arrived 0 0 why (listIndices 0 2 1) = none ∧ ((pair x z).arrived 0 0 why (listIndices 0 2 1)).isSome = true ∧
    (∀ h ∈ (kept x.pc).held.toList, h.at_ = x.pc ∧ h.word = v 4) ∧ (kept (x.pc + 4)).held.isSome = true ∧ (∀ h ∈ (kept (x.pc + 4)).held.toList, h.at_ ≠ x.pc) ∧
    (pair x z).fibres.get? 1 = some z ∧ (pair x z).Undebugged ∧ (pair x z).Issues 0 x := by
  and_intros <;> first | decide | exact ⟨rfl, rfl⟩ | exact issues .. | exact undebugged _

/-- The machine with another leaf for the lowest addresses. -/
def mapped (x : Fibre) (leaf : Nat) (g : Group := benchGroup) : State :=
  { machine x g with home := { mem := (machine x g).home.mem.writeNat (localKey true 0x2000) 8 leaf } }

/-- Addresses of each kind: odd; 2^52; the last bytes of the grant and the next ones; past the window's slice; the grant word; and in the lowest page, with a
leaf that is invalid, not resident, of another package, read-only, ordered, and writable. -/
theorem witness_Access_checks :
    let x := numbers
    let detached : Fibre := { numbers with group := none }
    let leaf (l va : Nat) : Option Word := ((mapped x l).translate (.core 0) 0 va).1.map fun e => e.2
    (7 % 4 ≠ 0 ∧ 2 ^ 52 ≤ 2 ^ 52) ∧ x.group = some 0 ∧ (machine x).groups.get? 0 = some benchGroup ∧
    (Config.windowBase + 65532 < 2 ^ 52 ∧ 65532 + 4 ≤ benchGroup.grant ∧ benchGroup.grant < 65536 + 4 ∧ 65536 < Config.stackOffset) ∧ detached.group = none ∧
    Config.stackOffset < Config.grantOffset ∧ Config.windowBase + Config.grantOffset < 2 ^ 52 ∧
    (leaf 0 0x10000 = none ∧ leaf 0x117 0x10000 = some 0x117) ∧ leafResident 0x113 = false ∧ leaf 0x113 0x10000 = some 0x113 ∧
    (mapped x 0x10000000000117).leafReachable 0x10000000000117 0 = false ∧
    ([(0x107 : Word), 0x137, 0x117].all fun l => leafResident l && (mapped x l.toNat).leafReachable l 0x10000 && leafNode l == 0) = true ∧
    leafWritable 0x107 = false ∧ (machine x).inDeviceArea 0 0x1000000 4 = true ∧ leafWritable 0x117 = true ∧ (machine x).inDeviceArea 0 0x10000 4 = false ∧
    leafOrdered 0x117 = false ∧ leafOrdered 0x137 = true ∧ ({ write := true } : Access).orderedOk = true ∧
    (let far : State := { mapped x 0x10000000000117 with link := { control := 0x68000, unreachable := [1] } }
     far.leafReachable 0x10000000000117 0 = true ∧ leafNode 0x10000000000117 ≠ far.node ∧ leafNode 0x10000000000117 ∈ far.link.unreachable ∧
       ({ write := true, atomic := true } : Access).atomic = true ∧ ({ write := true } : Access).atomic = false) := by decide

/-- A frame area that is full has no room for buffers, whatever the package holds beside it. -/
theorem noRoom (s : State) (x : Fibre) (n : Nat) (h : s.frameSlots x.context < ((s.usedSlots x.context).map (·.2)).sum) : s.bufferRoom x (n + 1) = false := by
  simp [State.bufferRoom]
  omega

/-- The lowest counts at which an instruction waits, and the highest at which it issues. -/
def counted (n : Nat) (vs : List Word := [0x10000]) : Fibre := { vectors 256 vs with counts := { ld := n, st := n, cp := n, mx := n, ry := n } }

/-- The machine with a byte in error at the address that n0 names. -/
def withBad (x : Fibre) : State := { machine x with home := { (machine x).home with bad := [localKey true 0x10000] } }

/-- A full count, a load that faults, one of plain memory, and one of a byte in error; a masked vector load of 4 elements, an indexed one, a block. -/
theorem witness_Loads_issue :
    let x := counted 4094 [0x10000, 0x10002]
    let s := machine x
    let at_ (i : Fin 32) (n : Nat) := s.locate 0 x {} (s.operand x (.n i)) n n
    ((machine (counted 4095)).Issues 0 (counted 4095) ∧ 4095 ≤ (counted 4095).counts.ld) ∧ s.Issues 0 x ∧ x.target = none ∧ x.counts.ld < 4095 ∧ x.pushing = [] ∧
    ({ x with pushing := [(0, .s32, .slice 0)] } : Fibre).pushing = [(0, .s32, .slice 0)] ∧
    fine (at_ 1 4) = false ∧ fine (at_ 0 4) = true ∧ (∀ loc ∈ ((at_ 0 4).toOption.map fun e => e.1).toList, s.mayFault 0 x 4 [loc] = false) ∧
    (∀ loc ∈ (((withBad x).locate 0 x {} (s.operand x (.n 0)) 4 4).toOption.map fun e => e.1).toList, (withBad x).mayFault 0 x 4 [loc] = true) ∧
    runsLen x.masks[1] = runsLen x.vregs[0] ∧ runsLen x.vregs[0] = runsLen x.vregs[1] ∧
    fine (s.locateAll 0 x {} 4 4 (([0, 1].map fun j => s.operand x (.n 0) + BitVec.ofNat 64 (j * 4)))) = true ∧
    fine (s.locateAll 0 x {} 4 4 ([0, 1].map fun j => s.operand x (.n 0) + (runsElem x.vregs[1] j <<< 2))) = true ∧
    fine (s.locate 0 x { slice := false } (s.operand x (.n 0)) 64 64) = true ∧ fine (at_ 0 32) = true ∧ runsLen x.vregs[2] ≠ runsLen x.masks[1] ∧
    (let y : Fibre := { x with target := some ⟨x.ages, x.named, 32, x.preds, x.flags, x.pc, {}, .push, 0⟩ }
     let t := mapped y 0x107
     let loc : Loc := .mem (localKey true 0x10000) 0 false .default 0x10000
     y.target.isSome = true ∧ (t.locate 0 y { slice := false, detach := false } 0x10000 4 4).toOption.map (fun e => e.1) = some loc ∧
       ((t.translate (.core 0) 0 0x10000).1.map fun e => e.2) = some 0x107 ∧ leafWritable 0x107 = false ∧ leafWritable 0x117 = true ∧
       t.samplerError 0 y 4 loc = false ∧ (t.readSampler 0 y loc 4).1.isSome = true) := by
  and_intros <;> first | decide | exact issues ..

theorem witness_Stores_issue :
    let x := counted 4094 [0x10000, 0x4000000000000000, 0x4000000000000001, 1]
    let s := machine x
    s.Issues 0 x ∧ x.counts.st < 4095 ∧ 4095 ≤ (counted 4095).counts.st ∧ x.speculative = false ∧ fine (s.locate 0 x { write := true } (s.operand x (.n 0)) 4 4) = true ∧
    runsLen x.masks[1] = runsLen x.vregs[0] ∧ runsLen x.vregs[1] = runsLen x.vregs[0] ∧
    fine (s.locateAll 0 x { write := true } 4 4 ([0, 1].map fun j => s.operand x (.n 0) + BitVec.ofNat 64 (j * 4))) = true ∧
    (x.blockValues 0 .sx8).length ≤ SxFmt.sx8.elements ∧ (x.blockValues 1 .sx8).length = (x.blockValues 0 .sx8).length ∧
    fine (s.locate 0 x { write := true, slice := false } (s.operand x (.n 0)) 64 64) = true ∧
    fine (s.locate 0 x { write := true, slice := false, detach := false, orderedOk := false } (s.operand x (.n 0)) 32 32) = true ∧
    1 ≤ (s.operand x (.n 3)).toNat ∧ (s.operand x (.n 1)).toNat ≤ 2 ^ 62 ∧ 2 ^ 62 < (s.operand x (.n 2)).toNat ∧
    (List.replicate 32 (0 : Byte)).length = 32 ∧ ((0 : Word) = 0 ∧ (1 : Word) ≠ 0) ∧
    (let task : Launch := { benchLaunch with kernel := { benchLaunch.kernel with ordered := true } }
     let t (size : Nat) : State := machine x benchGroup { benchContext with desc := { benchContext.desc with frameSize := size } } task
     let line (ordered : Bool) : Loc := .mem (localKey true 0x10000) 0 ordered .default 0x10000
     (t 0).buffers 0 x (line true) = true ∧ (t 0).buffers 0 x (line false) = false ∧ (t 0).buffering 0 x (.store [(line true, [1])] 0) = 16 ∧
       (t 0).bufferRoom x 16 = false ∧ (t 0).bufferRoom x 0 = true) ∧
    (let y : Fibre := { x with speculative := true }
     let u (budget : Nat) : State := { machine y with launches := [(0, { benchLaunch with record := { benchLaunch.record with budget := budget } })] }
     let line : Loc := .mem (localKey true 0x10000) 0 false .default 0x10000
     (u 0).Issues 0 y ∧ y.counts.st < 4095 ∧ y.speculative = true ∧ ((u 0).launches.get? y.launch).isSome = true ∧ ((u 0).contexts.get? y.context).isSome = true ∧
       fine ((u 0).locate 0 y { write := true } ((u 0).operand y (.n 0)) 4 4) = true ∧
       (u 0).specRoom 0 y [(line, [0])] = false ∧ (u 1).specRoom 0 y [(line, [0])] = true) := by
  and_intros <;> first | decide | exact issues .. | exact noRoom _ _ 15 (by decide)

/-- A load of the last four bytes of the grant; a store there; a store to memory. -/
theorem witness_Loads_and_stores_perform :
    let load : Pend := { op := .load (.slice 65532) .s32 false, dest := .named 31, unit := 0 }
    let store : Pend := { op := .store [(.slice 65532, [1, 2, 3, 4])] 0, unit := 0 }
    let plain : Pend := { op := .store [(.mem (localKey true 0x10000) 0 false .default 0x10000, [1])] 0, unit := 0 }
    let x : Fibre := { numbers with pend := [load, store, plain] }
    let y : Fibre := { numbers with pend := [store, plain] }
    let read : Pend := { op := .load (.mem (localKey true 0x10000) 0 false .default 0x10000) .s32 false, dest := .named 31, unit := 0 }
    let z : Fibre := { numbers with pend := [read] }
    (machine x).fibres.get? 0 = some x ∧ x.pend[0]? = some load ∧ x.performable 0 = true ∧ x.group = some 0 ∧
    (machine x).groups.get? 0 = some benchGroup ∧ (∀ i < 4, benchGroup.unacquired (.fibre 0) (65532 + i) = false) ∧ benchGroup.badBytes = [] ∧
    (machine y).fibres.get? 0 = some y ∧ y.pend[0]? = some store ∧ y.performable 0 = true ∧ y.pend[1]? = some plain ∧ y.performable 1 = true ∧
    y.speculative = false ∧ load.pushes = [] ∧ (machine y).storeTurn 0 store = true ∧ (machine y).storeTurn 0 plain = true ∧ benchGroup.matrix = [] ∧
    benchGroup.doneMatrix = [] ∧ (machine z).fibres.get? 0 = some z ∧ z.pend[0]? = some read ∧ z.performable 0 = true ∧ localKey true 0x10000 < 2 ^ 41 ∧
    localKey true 0x10000 % 64 + 4 ≤ 64 ∧ (∀ i < 4, benchContext.freedAt (0x10000 + i) = false) ∧ (machine z).coreFaulty 0 (localKey true 0x10000) 4 0 .default = false ∧
    ((machine z).core 0).clean = [] ∧ ((machine z).core 0).dirty = [] ∧
    (distinct ((List.range 1).map fun i => (localKey true 0x10000 + i) / 64)).length ≤ 1024 * ((machine y).core 0).boundary := by
  and_intros <;> decide

/-- Core 3 holds a byte stamped at the release value and one stamped after it; a fibre owes an edge of that core; a tile of its own; a queue of one element. -/
theorem witness_Coherence :
    let k : CoreState := { dirty := [(0x100, ⟨7, 2, 0, false, false⟩), (0x101, ⟨8, 3, 0, false, false⟩)] }
    let x : Fibre := { numbers with acquired := [(3, 2)] }
    let s : State := { machine x with cores := [(3, k)] }
    let b : QueueBinding := { desc := bytesOfNat 8 0x10000 ++ bytesOfNat 4 1 ++ bytesOfNat 4 4 ++ [0, 0], index := 0 }
    let y : Fibre := { numbers with queues := (Vector.replicate 4 none).set 1 (some b) }
    3 < 192 ∧ (s.core 3).dirty.Pairwise (fun a b => a.1 < b.1) ∧ (∀ e ∈ (s.core 3).dirty, e.2.comp = 0) ∧ (s.core 3).dirty.get? 0x100 = some ⟨7, 2, 0, false, false⟩ ∧
    (s.core 3).dirty.get? 0x101 = some ⟨8, 3, 0, false, false⟩ ∧ x.acquired = (3, 2) :: [] ∧ (3, 2).1 < 256 ∧ (s.reconcile 0 (3, 2)).link.sent = [] ∧
    (s.reconcile 0 (3, 2)).link.waiting = [] ∧ 256 ≤ (257, 1).1 ∧ ({ s with link := { waiting := [(1, 1)] } } : State).unacked (257, 1) = true ∧
    s.unacked (257, 1) = false ∧
    (machine y).Issues 0 y ∧ y.queues[1] = some b ∧ b.ahead.length < 16 ∧ y.life ≠ .gone ∧ fine ((machine y).queueElement 0 y b 0 false) = true ∧
    (((machine y).queueElement 0 y b 0 false).toOption.map fun e => ((e.2.readLoc 0 y e.1 4).1.isSome, e.2.elementFault 0 y b e.1)) = some (true, none) := by
  and_intros <;> first | decide | exact issues ..

theorem witness_Atomics :
    let x := counted 4094
    let y : Fibre := { x with speculative := true }
    let p : Pend := { op := .atom (.mem (localKey true 0x10000) 0 false .default 0x10000) (.op .add .n64 .rn false 1 0), dest := .named 31, unit := 0 }
    let z : Fibre := { numbers with pend := [p] }
    (machine y).Issues 0 y ∧ y.speculative = true ∧ (machine x).Issues 0 x ∧ x.speculative = false ∧ x.counts.ld < 4095 ∧ x.counts.st < 4095 ∧
    fine ((machine x).locate 0 x { write := true, orderedOk := false, atomic := true } ((machine x).operand x (.n 0)) 8 8) = true ∧
    fine ((machine x).locate 0 x { write := true, atomic := true } ((machine x).operand x (.n 0)) 8 8) = true ∧
    fine ((machine x).locate 0 x { write := true, orderedOk := false, atomic := true } ((machine x).operand x (.n 0)) 16 16) = true ∧ (30 : Fin 32).val + 1 < 32 ∧
    (machine z).fibres.get? 0 = some z ∧ z.pend[0]? = some p ∧ p.hold = false ∧ z.performable 0 = true ∧ p.pushes = [] ∧ localKey true 0x10000 < 2 ^ 41 ∧
    (∀ i < 8, benchContext.freedAt (0x10000 + i) = false) ∧
    (let task : Launch := { benchLaunch with kernel := { benchLaunch.kernel with ordered := true } }
     let t (w : Fibre) (size : Nat) : State := machine w benchGroup { benchContext with desc := { benchContext.desc with frameSize := size } } task
     let line (ordered : Bool) : Loc := .mem (localKey true 0x10000) 0 ordered .default 0x10000
     (t y 0).Issues 0 y ∧ (t y 0).buffers 0 y (line true) = true ∧ (t x 0).buffers 0 x (line false) = false ∧
       (t x 0).buffering 0 x (.ared (line true) (.op .add .n64 .rn false 1 0)) = 16 ∧ (t x 0).bufferRoom x 16 = false ∧ (t x 0).bufferRoom x 0 = true) := by
  and_intros <;> first | decide | exact issues .. | exact noRoom _ _ 15 (by decide)

/-- A fibre with sp at an offset of its stack and a window of 8. -/
def stacked (off : Nat) (vs : List Word) : Fibre := { vectors 256 vs with sp := BitVec.ofNat 52 (stackBase + off), window := 8 }

/-- Two registers; one outside the window; at each end of the stack, and with room for the registers just not there. -/
theorem witness_Spills :
    let x := stacked 16 [0x81, 0x100, 1, 2]
    let low := stacked 8 [0x81]
    let high := stacked 4080 [0x81]
    let past := stacked 4088 [0x81]
    let record := runRecord (x.runsOf (.v 0))
    let y : Fibre := { stacked 0 [1] with stack := Memory.writeBytes [] 0 record }
    (∀ z ∈ [x, low, high, past, y], stackBase ≤ z.sp.toNat ∧ z.stackTop < 2 ^ 52) ∧ ((machine x).Issues 0 x ∧ (machine low).Issues 0 low ∧
      (machine high).Issues 0 high ∧ (machine past).Issues 0 past ∧ (machine y).Issues 0 y) ∧
    ((List.range 32).filter ((machine x).operand x (.n 0)).getLsbD = [0, 7] ∧ x.sp.toNat - stackBase = 16 ∧ low.sp.toNat - stackBase < 16 ∧
      high.sp.toNat - stackBase + 16 ≤ high.stackSize ∧ past.stackSize < past.sp.toNat - stackBase + 16) ∧
    ((List.range 32).filter ((machine x).operand x (.n 1)).getLsbD = [8] ∧ x.window ≤ 8) ∧ (∀ q : Fin 4, x.queues[q] = none) ∧
    ((machine x).operand x (.n 2)).getLsbD 0 = true ∧ ((machine x).operand x (.n 3)).getLsbD 0 = false ∧ record.length = 32 ∧
    16 < record.length ∧ (runRecord (x.runsOf (.m 1))).length ≤ 48 ∧ y.stack.readBytes 0 32 = record ∧ 0 + 32 ≤ y.stackSize ∧
    (∀ r ∈ x.runsOf (.v 0), 1 ≤ r.count ∧ r.count ≤ 64) ∧ runsLen (x.runsOf (.v 0)) ≤ 64 ∧
    (x.runsOf (.v 0)).length ≤ y.quota - (y.runsUsed - y.occupancy (.v 0)) :=
  ⟨by decide, ⟨issues .., issues .., issues .., issues .., issues ..⟩, by decide⟩

/-- Entries that are odd or too high; words of 1 child, of 1,024, of 0 and of 1,025; a parent with and without unfinished children. -/
theorem witness_Spawns_and_exits :
    let x := fibre [0x20000, 0x20001, 0x10000000000000, 1, 1024, 0, 1025]
    let s := machine x
    let v (i : Fin 32) : Word := s.operand x (.n i)
    let busy : Frame := { benchFrame with pending := 1 }
    s.Issues 0 x ∧ s.frames.get? 0 = some benchFrame ∧ (v 0).extractLsb' 0 2 = 0 ∧ (v 0).extractLsb' 52 12 = 0 ∧ (v 1).extractLsb' 0 2 ≠ 0 ∧
    (v 2).extractLsb' 0 2 = 0 ∧ (v 2).extractLsb' 52 12 ≠ 0 ∧
    (∀ i ∈ [(3 : Fin 32), 4], (v i).extractLsb' 16 48 = 0 ∧ 1 ≤ ((v i).extractLsb' 0 11).toNat ∧ ((v i).extractLsb' 0 11).toNat ≤ 1024 ∧
      ((v i).extractLsb' 11 5).toNat ≤ 16 ∧ ((v i).extractLsb' 11 5).toNat ≤ x.window ∧ s.frameRoom x.context ((v i).extractLsb' 0 11).toNat = true ∧
      benchFrame.pending + ((v i).extractLsb' 0 11).toNat < 2 ^ 32) ∧
    ((v 5).extractLsb' 0 11).toNat = 0 ∧ 1024 < ((v 6).extractLsb' 0 11).toNat ∧ x.group = some 0 ∧ s.groups.get? 0 = some benchGroup ∧
    benchGroup.state = .running ∧ s.roomInGroup 0 = true ∧ s.roomForFibre x.core x.quota x.stackSize = true ∧ 0 ≠ s.fresh ∧ benchFrame.pending = 0 ∧
    (machine x benchGroup benchContext benchLaunch busy).frames.get? 0 = some busy ∧ busy.pending ≠ 0 ∧ x.copyFaults = [] ∧
    (let alone : Fibre := { x with group := none }
     (machine alone).Issues 0 alone ∧ (machine alone).frames.get? 0 = some benchFrame ∧ (∀ g ∈ alone.group.toList, (machine alone).roomInGroup g = false) ∧
       ((machine alone).operand alone (.n 3)) = 1 ∧ (machine alone).frameRoom 0 1 = true) := by
  and_intros <;> first | decide | exact issues ..

/-- An Exiting fibre in its group and a detached one; a Task, and a saved fibre, that can start where the core has room, and cannot with its runs taken; a
thief; a parked fibre that must be saved; and one fibre for each reason to stall. -/
theorem witness_Life_of_fibres :
    let exiting : Fibre := { numbers with life := .exiting }
    let alone : Fibre := { exiting with group := none }
    let task : Frame := { benchFrame with slot := 2, state := .task, parent := some 0, order := 1 }
    let resumed : Frame := { task with state := .resumable, savedFibre := some numbers }
    let s : State := { machine numbers with frames := [(0, benchFrame), (1, task)] }
    let r : State := { s with frames := [(0, benchFrame), (1, resumed)] }
    let parked : Fibre := { numbers with life := .parked, quota := 131072 }
    let full : State := { machine parked with frames := [(0, { benchFrame with state := .parked, pending := 1 }), (1, task)] }
    let waits (why : Stall) : Prop := (machine { numbers with life := .stalled why }).fibres.get? 0 = some { numbers with life := .stalled why }
    let lone : Fibre := { parked with group := none }
    let saving : State := { machine lone with frames := [(0, { benchFrame with state := .parked, pending := 1 }), (1, task)] }
    let busy : Fibre := { exiting with counts := { ld := 1 } }
    let leaving : State := { s with frames := [(0, benchFrame), (1, { resumed with exitWait := true })] }
    ((machine exiting).fibres.get? 0 = some exiting ∧ exiting.life = .exiting ∧ exiting.group = some 0) ∧
    (alone.group = none ∧ alone.counts = {} ∧ alone.pend = [] ∧ alone.acquired = [] ∧ busy.counts ≠ {} ∧ alone.copyFaults = [] ∧ alone.mark = none ∧ benchFrame.parent = none) ∧
    s.startable 0 = (1, task) :: [] ∧ r.startable 0 = (1, resumed) :: [] ∧ s.roomForFibre 0 (s.recordNeeds task).1 (s.recordNeeds task).2 = true ∧
    full.roomForFibre 0 (full.recordNeeds task).1 (full.recordNeeds task).2 = false ∧ full.startable 0 = (1, task) :: [] ∧
    (s.stealable 1 0 = (1, task) :: [] ∧ s.coreOpen 1 = true ∧ ({ s with fences := [.core 1] } : State).coreOpen 1 = false ∧ s.startableOf 1 0 = [] ∧ s.coreOpen 0 = true ∧ s.roomForFibre 1 (s.recordNeeds task).1 (s.recordNeeds task).2 = true) ∧
    full.savable 0 = (0, parked) :: [] ∧ full.mustSave 0 = true ∧ parked.pend = [] ∧
    (saving.savable 0 = (0, lone) :: [] ∧ saving.mustSave 0 = true ∧ lone.group = none ∧
      (saving.frames.get? 0).map (·.pending) = some 1 ∧
      ({ saving with contexts := [(0, { benchContext with desc := { benchContext.desc with frameSize := 0x1000000 } })] } : State).frameSlots 0 = 0x40000 ∧
      firstFree (saving.usedSlots 0) 0x40000 (saveSlots lone) = some 3) ∧ (leaving.startable 0).map (fun e => e.2.exitWait) = [true] ∧
    (∀ why ∈ [Stall.result, .stores, .counter 0, .counter 1, .counter 2, .counter 3, .counter 4, .resolution, .specRoom, .acquire, .rayUnit 0 false,
      .collectives, .queue 0, .queue 2, .migration, .saving, .matrix 0, .translations, .barrier 0, .list 0 true 0, .matrixQueue, .rays 0,
      .counts (some 0) none none none none], waits why) := by
  and_intros <;> decide



/-- A convoy of the one fibre, that last issued at cycle 0; the next key is 2. -/
def convoyed (clock : Nat) : State :=
  { machine numbers with
    cores := [(0, { clock := clock, convoys := [(1, { of := .group 0, members := [0], lane := 0, formed := 0, issued := 0 })] })], fresh := 2, pass := none }

/-- One convoy at the age of promotion and one cycle before it; a unit in its second repetition; heads of queues at that age. -/
theorem witness_Convoys :
    let s := convoyed 1024
    let c : Convoy := { of := .group 0, members := [0], lane := 0, formed := 0, issued := 0 }
    let x : Fibre := { numbers with rep := 1 }
    let z : Fibre := { numbers with life := .stalled (.rayUnit 0 false) }
    let r : State := { s with fibres := [(0, x)] }
    let copy : CopyCommand := { fibre := some 0, unit := 0, list := 0, count := 1, guard := none }
    let cmd : MatrixCommand := { fibre := some 0, unit := 0, fn := 1, a := 0, b := 0, c := 0, guard := none }
    let g : Group := { benchGroup with copies := [copy], matrix := [cmd] }
    (s.pass = none ∧ (s.core 0).convoys.Pairwise (fun a b => a.1 < b.1) ∧ (∀ c ∈ (s.core 0).convoys, c.1 < s.fresh) ∧
      (∃ e ∈ (machine numbers).fibresOn 0, e.2.life = .ready)) ∧
    ((s.core 0).convoys.get? 1 = some c ∧ s.coreLive 0 = true ∧ s.chosen 0 c.lane = some 1) ∧
    (r.fibres.get? 0 = some x ∧ x.core = 0 ∧ 0 < x.rep ∧ (((r.core 0).convoys.find? fun e => e.2.members.contains 0) = some (1, c)) ∧
      r.chosen 0 c.lane = some 1) ∧
    c.issued + 1024 ≤ (s.core 0).clock ∧ ((convoyed 1023).core 0).clock < c.issued + 1024 ∧
    ({ s with groups := [(0, g)] } : State).groups.get? 0 = some g ∧ g.copies = copy :: [] ∧ copy.since + 1024 ≤ (s.core g.core).clock ∧
    g.matrix = cmd :: [] ∧ cmd.since + 1024 ≤ (s.core g.core).clock ∧
    ({ s with fibres := [(0, z)] } : State).fibres.get? 0 = some z ∧ z.life = .stalled (.rayUnit 0 false) ∧ 0 + 1024 ≤ (s.core z.core).clock := by
  and_intros <;> decide

theorem witness_Elections_and_banks :
    let x := vectors 256 [1, 0, listWord 0, listWord 3, listWord 2, BitVec.ofNat 64 (2 ^ 63 + 2 ^ 10 + 2 ^ 21 + 1)]
    let why := Stall.list (listWord 2) false x.pc
    let y : Fibre := { vectors 256 [] with fid := 1 }
    let z : Fibre := { y with life := .stalled why }
    let u := pair x y
    let v (i : Fin 32) : Word := u.operand x (.n i)
    let s := machine x
    let r : Group := { benchGroup with bankWrites := [(4, 0, 2, 10), (4, 1, 2, 11)] }
    (s.Issues 0 x ∧ u.Issues 0 x ∧ (pair x z).Issues 0 x) ∧ ((v 2).msb = true ∧ u.badList 0 0 0 1 = true ∧ u.badList 0 0 3 1 = true ∧ (v 4).msb = true ∧
      u.badList 0 0 2 1 = false ∧ listIndices 1 1 1 = [1] ∧ ((v 5).extractLsb' 0 10).toNat = 1 ∧ x.fid ∈ listIndices 0 2 1 ∧
      u.arrived 0 0 why (listIndices 0 2 1) = none ∧ ((pair x z).arrived 0 0 why (listIndices 0 2 1)).isSome = true) ∧
    (s.operand x (.n 0)).msb = false ∧ (s.maskSet 0 1 x).parts.find? (fun e => s.operand e.2 (.n 1) != 0) = none ∧
    (((s.maskSet 0 1 x).parts.find? (fun e => s.operand e.2 (.n 0) != 0)).map fun e => e.1) = some 0 ∧
    ({ x with group := none } : Fibre).group = none ∧ x.group = some 0 ∧ s.groups.get? 0 = some benchGroup ∧ r.bankWrites ≠ [] ∧
    (∀ w ∈ r.bankWrites, w.2.2.1 ≠ 3) ∧ (∃ w ∈ r.bankWrites, ∀ v ∈ r.bankWrites, v.2.2.1 = w.2.2.1 → v = w ∨ v.1 < w.1 ∨ (v.1 = w.1 ∧ v.2.1 < w.2.1)) := by
  and_intros <;> first | decide | exact ⟨rfl, rfl⟩

/-- Two members, of which the last to arrive issues, or the other is still to come; a mask word of the issuing fibre; list words as for shuffles; a group whose
only member waits. -/
theorem witness_Barriers :
    let x := vectors 256 [1, listWord 0, listWord 2]
    let y : Fibre := { numbers with fid := 1 }
    let there : Group := { benchGroup with barriers := benchGroup.barriers.set 15 { arrivals := [1] } }
    let s := pair x y
    let t : State := { s with groups := [(0, there)] }
    let v (i : Fin 32) : Word := s.operand x (.n i)
    let z : Fibre := { numbers with life := .stalled (.barrier 0) }
    let w : Fibre := { y with life := .stalled (.list (listWord 2) true y.pc) }
    (s.Issues 0 x ∧ t.Issues 0 x ∧ (machine { x with group := none }).Issues 0 { x with group := none }) ∧ (pair x w).Issues 0 x ∧ (15 : Fin 64).val < 16 ∧ x.group = some 0 ∧ s.groups.get? 0 = some benchGroup ∧
    (benchGroup.barriers.toList.getD 15 {}).arrivals.contains 0 = false ∧ (benchGroup.barriers.toList.getD 15 {}).arrivals.Nodup ∧
    (∃ e ∈ s.members 0, e.1 ∉ [0]) ∧ (there.barriers.toList.getD 15 {}).arrivals = [1] ∧ (∀ e ∈ t.members 0, e.1 ∈ [1, 0]) ∧
    (v 0).msb = false ∧ ((v 0).setWidth 32).getLsbD ([0, 1].idxOf 0) = true ∧ (v 1).msb = true ∧ s.badList 0 0 0 1 = true ∧ s.badList 0 0 2 1 = false ∧
    (∃ i < 2, 0 + i * 1 = x.fid) ∧ (∃ i < 2, 0 + i * 1 ≠ x.fid) ∧ ((v 0).setWidth 32).getLsbD ([1, 0].idxOf 0) = false ∧ ({ y with fid := 2 } : Fibre).fid = 2 ∧
    (∀ i < 2, 0 + i * 1 ≠ 2) ∧ y.waitsFor = none ∧ (1, w) ∈ (pair x w).members 0 ∧ w.fid = 1 ∧ w.waitsFor = some (.list (listWord 2) true y.pc) ∧
    (machine numbers).stuck 0 = false ∧ (machine z).stuck 0 = true ∧ (0, z) ∈ (machine z).members 0 ∧ benchContext.desc.tvec ≠ 0 ∧
    z.trap.inHandler = false ∧ (machine z).fibres.Pairwise (fun a b => a.1 < b.1) := by
  and_intros <;> first | decide | exact ⟨rfl, rfl⟩

/-- A Waiting group that core 0 can take, and one that no core can; a coresident grid of one such group, and one that its other die does not hold first; a group in its prologue, before a binding of one element that can be read, before one that cannot, and after it. -/
theorem witness_Placement :
    let w : Group := { benchGroup with state := .waiting }
    let b : Binding := { kind := 0, stype := 0xD, dtype := 0xD, doff := 0, src := 0x10000, gsx := 0, gsy := 0, gsz := 0, cols := 1, rows := 1, sstride := 0,
                         dstride := 0, idx := 0, sync := 0 }
    let bad : Binding := { b with src := 0x8000000000000 }
    let p : Group := { benchGroup with state := .prologue }
    let q : Group := { p with binding := 1 }
    let x : Fibre := { numbers with life := .placed }
    let s (l : Launch) (g : Group) : State := machine x g benchContext l
    let ag (u : State) : Agent := { u.groupAgent 0 p none with group := none }
    let l : Launch := { benchLaunch with bindings := [b] }
    let m : Launch := { benchLaunch with bindings := [bad] }
    ((s benchLaunch w).launches.get? w.launch = some benchLaunch ∧ benchLaunch.kernel.coresident = false ∧ (s benchLaunch w).placeOn benchLaunch w.die 1 = some 1 ∧
      (s benchLaunch w).recordsFit benchLaunch = true) ∧
    ((s l p).groups.get? 0 = some p ∧ (s l p).launches.get? p.launch = some l ∧ (s l p).contextRuns p.context = true ∧ p.state = .prologue ∧
      p.prologueFault = none ∧ l.bindings[p.binding]? = some b ∧ b.sync = 0 ∧
      fine (((s l p).reconcileHome p.acquired).bindingRows b p.linear 0x10000 0 (ag ((s l p).reconcileHome p.acquired)) b.rows ([], 0)) = true) ∧
    (m.bindings[p.binding]? = some bad ∧
      fine (((s m p).reconcileHome p.acquired).bindingRows bad p.linear 0x8000000000000 0 (ag ((s m p).reconcileHome p.acquired)) bad.rows ([], 0)) = false) ∧
    (let tight : Launch := { benchLaunch with kernel := { benchKernel with smin := 1000 } }
     let whole : Launch := { benchLaunch with kernel := { benchKernel with coresident := true } }
     let two : State := { s benchLaunch w with launches := [(0, benchLaunch), (1, { whole with order := 1 })], groups := [(0, w), (1, { w with launch := 1 })] }
     (s tight w).placeOn tight w.die 1000 = none ∧ tight.kernel.coresident = false ∧ whole.kernel.coresident = true ∧ (s whole w).firstOnDies 0 = true ∧
     ((s whole w).placeAll 0 whole).isSome = true ∧ two.firstOnDies 1 = false ∧ two.launches.get? 1 = some { whole with order := 1 }) ∧
    (let held : Group := { p with acquired := [(0, 1)] }
     let spec : Group := { p with speculative := true }
     let adds (sync : Word) : Launch := { l with bindings := [{ b with sync := sync }] }
     let add (sync : Word) := (s (adds sync) { p with binding := 1 }).engineAdd 0 0 false sync 4 []
     ((s l p).engineAcquires p.acquired).2 = true ∧
     (({ s l held with link := { waiting := [(1, 1)] } } : State).engineAcquires held.acquired).2 = false ∧ spec.state = .prologue ∧
     (adds 0x10000).bindings[spec.binding]? = some { b with sync := 0x10000 } ∧ (0x10000 : Word) ≠ 0 ∧ fine (add 0x10000) = true ∧ fine (add 1) = false) ∧
    p.binding < l.bindings.length ∧ l.bindings.length ≤ q.binding ∧ q.stream = none ∧ q.dbg.stopping = none ∧
    (s l q).fibres.Pairwise (fun a b => a.1 < b.1) ∧ (0, x) ∈ (s l q).members 0 ∧ x.life = .placed := by
  and_intros <;> decide

/-- Before any hint word; after a kind-0 word; after three words. -/
theorem witness_Hint_words :
    let x : Fibre := { numbers with hints := { words := 2, lastKind := some 0 } }
    let y : Fibre := { numbers with hints := { words := 3, lastKind := some 2 } }
    (machine x).Issues 0 x ∧ x.hints.words < 3 ∧ (∀ k, x.hints.lastKind = some k → k < 1) ∧ (∃ k, x.hints.lastKind = some k ∧ 0 ≤ k) ∧
    (machine y).Issues 0 y ∧ 3 ≤ y.hints.words := by
  and_intros <;> first | decide | exact ⟨rfl, rfl⟩

/-- A word at generation 0: 0 and 2^31 + 1 are reached, 1 and 2^31 are not; a misplaced word; limits at and below the counts. -/
theorem witness_Waits :
    let x := fibre [0x10000, 0, 1, 0x10001, 4094, 4095, 0x80000001, 0x80000000]
    let s := machine x
    let at_ (i : Fin 32) := s.locate 0 x (syncAccess false) (s.operand x (.n i)) 32 32
    let y : Fibre := { x with counts := { ld := 62 } }
    let why := Stall.syncWord 0x20000 0 .push
    let z : Fibre := { x with life := .stalled why }
    let c : CopyFault := { code := .access, record := 0, addr := 0, unit := 0, index := 0 }
    let f : Fibre := { x with copyFaults := [c] }
    (s.Issues 0 x ∧ x.copyFaults = [] ∧ fine (at_ 3) = false ∧ fine (at_ 0) = true) ∧
    ((s.flushLine 0 (localKey true 0x20000) 0).readGen 0 0x20000 (localKey true 0x20000) 0).map (·.1) = some 0 ∧
    (∀ i ∈ [(1 : Fin 32), 6], ((0 : BitVec 32) - (s.operand x (.n i)).setWidth 32).toNat < 2 ^ 31) ∧
    (∀ i ∈ [(2 : Fin 32), 7], 2 ^ 31 ≤ ((0 : BitVec 32) - (s.operand x (.n i)).setWidth 32).toNat) ∧
    ((machine z).fibres.get? 0 = some z ∧ z.life = .stalled why ∧ (machine z).Undebugged ∧ z.hints.rep = none ∧ z.copyFaults = [] ∧
      fine ((machine z).readWord 0 z 0x20000) = true ∧ fine ((machine z).readWord 0 z 1) = false ∧ ({ f with life := .stalled why } : Fibre).copyFaults ≠ []) ∧
    ((machine y).Issues 0 y ∧ y.counts.ld ≤ 62 ∧ ¬ y.counts.ld ≤ 61) ∧ (machine f).Issues 0 f ∧ f.copyFaults = c :: [] ∧
    (s.operand x (.n 4)).toNat < 4095 ∧ 4095 ≤ (s.operand x (.n 5)).toNat := by
  and_intros <;> first | decide | exact ⟨rfl, rfl⟩ | exact issues .. | exact undebugged _

/-- The bytes of a record of one row of 64 bytes from 0x12000 to 0x13000. -/
def copyRecord : List Byte := bytesOfNat 8 0x12000 ++ bytesOfNat 8 0x13000 ++ bytesOfNat 4 64 ++ bytesOfNat 4 1 ++ List.replicate 40 0

/-- Lists that are misplaced; counts 0, 1, 256 and 257; full and other counts; the states of a guard slot; a started command of two records. -/
theorem witness_Copies :
    let x := counted 4094 [0x10000, 0x10004, 0x10000000000000, 0, 1, 256, 257]
    let s := machine x
    let v (i : Fin 32) : Nat := (s.operand x (.n i)).toNat
    let g (st : GuardState) (cs : List CopyCommand) : Group := { benchGroup with guards := benchGroup.guards.set 3 st, copies := cs }
    let held : CopyCommand := { fibre := some 0, unit := 0, list := 0x10000, count := 1, guard := some 3 }
    let run : CopyCommand := { held with count := 2, started := some 0, passed := true }
    let k := g .true_ [run]
    let u : State := { machine x k with home := (machine x k).home.write 0 (addressed (localKey true 0x10000) copyRecord) }
    let ag := u.groupAgent 0 k run.fibre
    let w : Group := { benchGroup with guardWrites := [(4, 0, 3, .true_, (0, 0))] }
    (s.Issues 0 x ∧ v 1 % 64 ≠ 0 ∧ (v 2 % 64 = 0 ∧ 2 ^ 52 ≤ v 2) ∧ v 0 % 64 = 0 ∧ v 0 < 2 ^ 52 ∧ v 3 = 0 ∧ 1 ≤ v 4 ∧ v 5 ≤ 256 ∧ 256 < v 6) ∧
    ((machine (counted 4095)).Issues 0 (counted 4095) ∧ 4095 ≤ (counted 4095).counts.cp) ∧ x.counts.cp < 4095 ∧ x.mark = none ∧ x.group = some 0 ∧
    s.groups.get? 0 = some benchGroup ∧ (15 : Fin 64).val < 16 ∧ s.operand x (.n 3) = 0 ∧ s.operand x (.n 4) ≠ 0 ∧
    (w.guardWrites ≠ [] ∧ (∀ e ∈ w.guardWrites, e.2.2.1 ≠ 4) ∧
      ∃ e ∈ w.guardWrites, ∀ d ∈ w.guardWrites, d.2.2.1 = e.2.2.1 → d = e ∨ d.1 < e.1 ∨ (d.1 = e.1 ∧ d.2.1 < e.2.1)) ∧
    ((g .open_ [held]).copies = [held] ∧ held.guard = some 3 ∧ held.passed = false ∧ held.started = none ∧ benchGroup.guardWrites = [] ∧
      benchGroup.matrix = [] ∧ (g .true_ [held]).state = .running ∧ (machine x (g .true_ [held])).ownerRuns (.group 0) = true ∧
      (∀ o ∈ (machine x (g .true_ [held])).copyOwners 0, o ≠ .group 0 → (machine x (g .true_ [held])).copiesOf o = []) ∧
      (∀ st ∈ [GuardState.open_, .true_, .false_], (g st [held]).guards[(3 : Fin 16)] = st) ∧ held.fibre = some 0) ∧
    u.groups.get? 0 = some k ∧ k.copies = run :: [] ∧ run.started = some 0 ∧ 0 + 1 < run.count ∧ k.speculative = false ∧
    (u.engineBytes ag (run.list.toNat + 64 * 0) 64).toOption.map (fun e => e.1) = some copyRecord ∧
    (requestOf copyRecord).map (fun r => (r.src, r.dst, r.row, r.rows, r.sync)) = some (0x12000, 0x13000, 64, 1, 0) ∧
    fine (u.engineBytes ag 0x12000 64) = true ∧
    (u.engineLocate ag 0x13000 64 true).toOption.map (fun e => e.1) = some (.mem (localKey true 0x13000) 0 false .default 0x13000) ∧
    (∀ b ∈ (requestOf copyRecord).toList.flatMap (u.sourceBytes ag), b < localKey true 0x13000 ∨ localKey true 0x13000 + 64 ≤ b) := by
  and_intros <;> first | decide | exact ⟨rfl, rfl⟩


/-- Records of an mma of f32 operands: 32 rows, A from 0 and B from 4,096, both in strides of 64 bytes. -/
def recordA : List Byte := bytesOfNat 4 0 ++ bytesOfNat 2 64 ++ [5, 1, 0, 0, 0, 0, 0, 0, 0, 0]
def recordB : List Byte := bytesOfNat 4 4096 ++ bytesOfNat 2 64 ++ [5, 0, 0, 0, 0, 0, 0, 0, 0, 0]

/-- Words that break the limits and keep them; misplaced records and one past the grant; full counts and a full queue. -/
theorem witness_Matrix_commands :
    let k : Group := { benchGroup with slice := Memory.writeBytes (Memory.writeBytes [] 0 recordA) 16 recordB }
    let x := counted 4094 [0, 16, 0x10000, 0x40, 0x4000000, 8, 65536]
    let y := counted 4095
    let s := machine x k
    let v (i : Fin 32) : Word := s.operand x (.n i)
    let command (fn : Nat) (a b c : Word) : MatrixCommand := { fibre := some 0, unit := x.unit, fn := fn, a := a, b := b, c := c, guard := none }
    let full : Group := { k with matrix := List.replicate 64 (command 1 0x10000 0 0) }
    (s.Issues 0 x ∧ (machine y k).Issues 0 y) ∧ ({ x with group := none } : Fibre).group = none ∧ x.group = some 0 ∧ s.groups.get? 0 = some k ∧
    (command 1 (v 4) 0 0).ok k.grant k.units = false ∧ (command 1 (v 2) 0 0).ok k.grant k.units = true ∧
    (command 2 (v 2) (v 0) (v 3)).ok k.grant k.units = true ∧ (command 4 (v 2) (v 0) 0x400002).ok k.grant k.units = true ∧
    ({ command 0 (v 0) (v 1) 1 with recA := recordA, recB := recordB } : MatrixCommand).ok k.grant k.units = true ∧
    k.slice.readBytes (sliceOffset (v 0)) 16 = recordA ∧ k.slice.readBytes (sliceOffset (v 1)) 16 = recordB ∧ k.badBytes = [] ∧
    (∀ i < 32, k.unacquired (.fibre 0) i = false) ∧ sliceOffset (v 5) % 16 ≠ 0 ∧ (sliceOffset (v 6) % 16 = 0 ∧ k.grant < sliceOffset (v 6) + 16) ∧
    4095 ≤ y.counts.mx ∧ x.counts.mx < 4095 ∧ x.mark = none ∧ k.matrix.length < 64 ∧ 64 ≤ full.matrix.length := by
  and_intros <;> first | decide | exact ⟨rfl, rfl⟩

/-- A head that may start, one suspended, one whose last step ends, and one command of each function in the first of its two steps. -/
theorem witness_Matrix_steps :
    let head : MatrixCommand := { fibre := some 0, unit := 0, fn := 1, a := 0x10000, b := 0, c := 0, guard := none }
    let run (fn : Nat) (n : Nat) (c : Word) : MatrixCommand := { head with fn := fn, started := some n, passed := true, c := c, recA := recordA, recB := recordB }
    let g (c : MatrixCommand) : Group := { benchGroup with matrix := [c] }
    let s (c : MatrixCommand) : State := machine numbers (g c)
    let high : Group := { g head with cls := 3 }
    let held : MatrixCommand := { run 1 1 0 with suspended := true }
    let both : State := { s held with groups := [(0, g held), (1, high)] }
    (g head).matrix = head :: [] ∧ (g head).state = .running ∧ head.guard = none ∧ head.started = none ∧ (g head).copies = [] ∧
    (s head).contextRuns 0 = true ∧ TestUnit.core (g head).core ∉ (s head).platform.testing ∧
    (g head).guardWrites = [] ∧ (∀ d ∈ (g head).copies.head?, d.passed = true) ∧ (g head).engineRuns = true ∧
    ((s head).setGroup 0 { g head with matrix := [{ head with passed := true }] }).matrixTurn (g head) { head with passed := true } = true ∧
    held.suspended = true ∧
    (s held).higherReady 0 0 = false ∧ both.higherReady 0 0 = true ∧
    ((run 1 1 0).started = some 1 ∧ (run 1 1 0).suspended = false ∧ (run 1 1 0).stream = none ∧ (run 1 1 0).fibre = some 0 ∧
      (s (run 1 1 0)).fibres.get? 0 = some numbers ∧ (0, numbers) ∈ (s (run 1 1 0)).members 0 ∧
      (matrixStep { s := s (run 1 1 0), k := g (run 1 1 0) } (run 1 1 0) 1).2 ≤ 16 * (1 + 1)) ∧
    ((run 1 0 0).stale = [] ∧ (g (run 1 0 0)).badBytes = [] ∧ (g (run 1 0 0)).badAccumulators = [] ∧ (s (run 1 0 0)).higherReady 0 0 = false) ∧
    ((productOf recordA recordB 65536 1).map fun p => (p.tile.rows, p.tile.cols)) = some (32, 16) ∧
    ((tileOf 0x10000 1).map fun t => (t.rows, t.cols)) = some (32, 16) ∧ 16 * (0 + 1) < 32 ∧ 4 * 16 ≤ (64 : Word).toNat ∧
    ((tileOf 0x10000 1).bind fun t => (quantiseOf 0x400002 t 0 65536).map fun z => (z.sr, decide (64 * z.blocks t.cols ≤ z.stride))) = some (false, true) := by
  and_intros <;> decide

/-- The machine with bytes at virtual addresses of the lowest page. -/
def holding (s : State) (ws : List (Nat × List Byte)) : State :=
  { s with home := ws.foldl (fun h w => h.write 0 (addressed (localKey true w.1) w.2)) s.home }

/-- A kernel descriptor of one fibre, and a launch record of two groups. -/
def descriptor : List Byte :=
  bytesOfNat 8 0x10000 ++ bytesOfNat 2 1 ++ bytesOfNat 2 1 ++ bytesOfNat 2 1 ++ [1, 4, 0, 1, 0, 0] ++ List.replicate 44 0
def launchRecord : List Byte := bytesOfNat 8 0x12000 ++ bytesOfNat 4 2 ++ bytesOfNat 4 1 ++ bytesOfNat 4 1 ++ List.replicate 172 0

/-- A descriptor with a predictor, and a launch record of a predicted extent from 1 to 2. -/
def predictor : List Byte := descriptor.take 40 ++ bytesOfNat 8 0x14800 ++ List.replicate 16 0
def predictedRecord : List Byte :=
  bytesOfNat 8 0x12000 ++ bytesOfNat 4 2 ++ bytesOfNat 4 1 ++ bytesOfNat 4 0 ++ [0, 0, 1, 0] ++ bytesOfNat 4 1 ++ bytesOfNat 4 2 ++ List.replicate 16 0 ++
    bytesOfNat 8 0x15000 ++ List.replicate 136 0

/-- Launches of context 0 in its slots 0 to n. -/
def slots (n : Nat) : Tab Launch := (0, benchLaunch) :: (List.range n).map fun i => (i + 1, { benchLaunch with slot := i + 1 })

theorem slots_full (s : State) (n : Nat) (hn : 65535 ≤ n) (h : s.launches = slots n) : s.freeSlot 0 = none := by
  unfold State.freeSlot
  rw [h, List.find?_eq_none]
  intro i _ hc
  simp only [slots, List.contains_eq_mem, Bool.and_eq_true, Bool.not_eq_true', decide_eq_false_iff_not, decide_eq_true_eq, List.mem_map, List.mem_filter] at hc
  cases i with
  | zero => exact hc.1 ⟨(0, benchLaunch), ⟨List.mem_cons_self, rfl⟩, rfl⟩
  | succ i => exact hc.1 ⟨_, ⟨List.mem_cons_of_mem _ (List.mem_map.mpr ⟨i, List.mem_range.mpr (by omega), rfl⟩), rfl⟩, rfl⟩

/-- The machine with a leaf of compressed tiles for the lowest addresses, and a reserved mode for the tile at 0x15000 and for the one at 0x10000. -/
def broken (s : State) : State :=
  { s with
    home := { s.home with
      mem := s.home.mem.writeNat (localKey true 0x2000) 8 0x517
      encoded := [localKey true 0x10000 / 65536]
      modes := [(localKey true 0x10000 / 256, 0x0F), (localKey true 0x15000 / 256, 0x0F)] } }

/-- Records that can be read and launched, that are refused, and that lie on no page; a launch at depth 10; cells of each state; sizes and alignments at and
beyond their limits; a heap with room, and one without; a live block. -/
theorem witness_Launches :
    let x := fibre [0x13000, 0x13004, 0x8000000000000, 0x14000, 1, 0x100000000, 8, 7, 22, 0x100000]
    let y : Fibre := { x with speculative := true }
    let deep : Launch := { benchLaunch with depth := 10 }
    let s := holding (machine x) [(0x12000, descriptor), (0x13000, launchRecord)]
    let read (u : State) (i : Fin 32) := u.readPlan (fibreReader 0 x) (fibreAtomicReader 0 x) (u.operand x (.n i)).toNat (some 0) (u.inOrdered 0)
    let foreseen := holding (machine x) [(0x12000, predictor), (0x13000, predictedRecord)]
    let full : State := { foreseen with launches := slots 65535 }
    let far := holding (mapped x 0x107) [(0x12000, predictor), (0x13000, predictedRecord)]
    let waiting : Launch := { benchLaunch with record := { benchLaunch.record with predicted := true, zmin := 1, zmax := 1, cell := 0x15000 }, resolved := false }
    let m := machine x benchGroup benchContext waiting
    let cell (n : Nat) : List Byte := bytesOfNat 4 0 ++ bytesOfNat 4 n ++ bytesOfNat 8 0
    let c (heap : Nat) (bs : List HeapBlock) : Context := { benchContext with heap := bs, desc := { benchContext.desc with heapBase := 0x100000, heapSize := heap } }
    ((machine y).Issues 0 y ∧ y.speculative = true) ∧ s.Issues 0 x ∧ x.speculative = false ∧ deep.depth = 10 ∧ benchLaunch.depth ≠ 10 ∧
    (s.operand x (.n 1)).toNat % 64 ≠ 0 ∧ (s.operand x (.n 0)).toNat % 64 = 0 ∧
    fine (read s 2) = false ∧ (read s 3).toOption.map (fun e => e.1) = some none ∧
    ((read s 0).toOption.bind fun e => e.1.map fun p => [p.record.predicted, p.predicted.isSome, p.kernel.ordered, p.record.x != 2, (e.2.taskOf 0 x).isSome,
      e.2.freeSlot 0 != some 1]) = some [false, false, false, false, false, false] ∧
    ((read s 0).toOption.map fun e => (e.2.launches.get? 0, decide (0 ≠ e.2.fresh))) = some (some benchLaunch, true) ∧
    fine (m.locate 0 x { write := true, slice := false, detach := false } 0x15000 16 16) = true ∧
    (∀ n ∈ [0, 1, 2], cellState (cell n) = n ∧ zeroBytes (cell n) 12 4 = true ∧
      ((holding m [(0x15000, cell n)]).atomicAt 0 x (.mem (localKey true 0x15000) 0 false .default 0x15000) 16 fun _ => none).map (fun e => e.1) = some (cell n)) ∧
    ((read foreseen 0).toOption.bind fun e => e.1.bind fun p =>
      let u := (e.2.flushLine 0 (localKey true 0x15000) 0).releaseOn 0
      (u.1.accept ((e.2.flushLine 0 (localKey true 0x15000) 0).launcherOf 0 x benchLaunch u.2) p).map fun r => (p.record.predicted, (r.2.launches.get? r.1).isSome)) =
        some (true, true) ∧
    fine (foreseen.locate 0 x { write := true, slice := false, detach := false } 0x15000 16 16) = true ∧
    (fine (read far 0) = true ∧ fine (far.locate 0 x { write := true, slice := false, detach := false } 0x15000 16 16) = false) ∧
    (fine (read full 0) = true ∧ full.freeSlot 0 = none ∧ full.launches.get? 0 = some benchLaunch) ∧
    ((m.locate 0 x { write := true, slice := false, detach := false } 3 16 16).toOption.isSome = false ∧
      (broken m).atomicError 0 x 16 (.mem (localKey true 0x15000) 1 false .default 0x15000) = false ∧
      ((broken m).atomicAt 0 x (.mem (localKey true 0x15000) 1 false .default 0x15000) 16 fun _ => none) = none ∧
      ({ m with home := { m.home with bad := [localKey true 0x15000] } } : State).atomicError 0 x 16 (.mem (localKey true 0x15000) 0 false .default 0x15000) = true) ∧
    ((m.pendingOn 0 0 0x15000).map fun e => (e.1, e.2.record.zmin, e.2.record.zmax)) = some (0, 1, 1) ∧ m.pendingOn 0 0 0x15010 = none ∧
    2 ^ 32 ≤ (s.operand x (.n 5)).toNat + 0 ∧ (s.operand x (.n 4)).toNat < 2 ^ 32 ∧
    ((c 0 []).desc.heapSize = 0 ∧ (s.operand x (.n 5)).toNat ≤ 2 ^ 32 ∧ 8 ≤ (s.operand x (.n 6)).toNat ∧ (s.operand x (.n 7)).toNat < 8 ∧
      21 < (s.operand x (.n 8)).toNat ∧ 0x100000 % 2 ^ 8 = 0 ∧ 0x100000 + 256 ≤ 0x100000 + (c 256 []).desc.heapSize) ∧
    (c 256 [⟨0x100000, 256, none, none, none⟩]).heap.find? (fun o => o.base == (s.operand x (.n 9)).toNat) = some ⟨0x100000, 256, none, none, none⟩ ∧
    (∀ o ∈ (c 256 [⟨0x100000, 256, none, none, none⟩]).heap, o.base ≠ (s.operand x (.n 4)).toNat) ∧
    (∃ o : HeapBlock, o = ⟨0x100000, 256, none, some (0, 0), none⟩ ∧ (c 256 [o]).heap.find? (fun b => b.base == (s.operand x (.n 9)).toNat) = some o ∧ o.freeing ≠ none) := by
  and_intros <;> first | exact slots_full _ _ (Nat.le_refl _) rfl | decide | exact ⟨_, rfl, rfl, by decide⟩ | exact ⟨rfl, rfl⟩

/-- A queue of 16 packets with its doorbell at 0x10020, and packets. -/
def queue (ps : List Packet) (st : QueueState := .active) : Queue :=
  { context := 0, ring := 0x20000, lsize := 4, cls := 0, device := false, interval := 1, allow := 0x10040, bell := 0x10020, state := st, packets := ps,
    events := { base := 0x1000, size := 4, ack := 0x10080 } }

/-- The machine with a queue, 0. -/
def queued (ps : List Packet) (st : QueueState := .active) : State := { machine numbers with queues := [(0, queue ps st)] }

/-- Counts of 0, 1 and 17 at the doorbell; a ring with an event and room, and a full one; an acknowledgement word. -/
theorem witness_Doorbells_and_events :
    let s (n : Nat) : State := holding (queued []) [(0x10020, bytesOfNat 8 n)]
    let e : Event := { kind := 4, context := 0 }
    let ring : Ring := { (queue []).events with held := [e] }
    let full : Ring := { ring with seq := 16 }
    let r (v : Ring) : State := { queued [] with queues := [(0, { queue [] with events := v })] }
    (queue []).state ≠ .halted ∧ (∀ n ∈ [0, 1, 17], ((s n).readBell (queue [])).map (fun b => b.1) = some (BitVec.ofNat 64 n)) ∧
    2 ^ (queue []).lsize < ((17 : Word) - (queue []).consumed).toNat ∧ ((0 : Word) - (queue []).consumed).toNat = 0 ∧
    ((1 : Word) - (queue []).consumed).toNat = 1 ∧ 1 ≤ 2 ^ (queue []).lsize ∧ fine ((s 1).engineRange (commandAgent 0) 0x20000 64) = true ∧
    (let late : State := { s 1 with wordEdges := [(localKey true 0x10020, [(0, 1)])], link := { waiting := [(1, 1)] } }
     ((late.readBell (queue [])).map fun b => (b.2.1, (b.2.2.engineAcquires b.2.1).2)) = some ([(0, 1)], false) ∧
     (((s 1).readBell (queue [])).map fun b => (b.2.1, (b.2.2.engineAcquires b.2.1).2)) = some ([], true) ∧
     (late.engineAcquires ({ e with acquired := [(0, 1)] } : Event).acquired).2 = false ∧ ((r ring).engineAcquires e.acquired).2 = true ∧
     fine ((r ring).engineBytes (commandAgent 0) 0x8000000000000 8) = false) ∧
    (r ring).ring? (.queue 0) = some (ring, 0) ∧ ring.held = e :: [] ∧ ring.hasRoom = true ∧ (r full).ring? (.queue 0) = some (full, 0) ∧
    full.hasRoom = false ∧ (r ring).ring? (.context 0) = some (benchContext.events, 0) ∧
    fine ((r ring).engineBytes (commandAgent 0) 0x10080 8) = true := by
  and_intros <;> decide

/-- A packet of a type, its first bytes as given. -/
def packet (bs : List Byte) : Packet := { number := 0, bytes := padTo 64 0 bs }

/-- A packet of each type that is legal; a type that does not exist; writes that can and cannot be made; sessions open and not; a waiting packet. -/
theorem witness_Packets :
    let signal : Packet := { packet ([2, 0, 0, 0, 0, 0, 0, 0] ++ bytesOfNat 8 0x10000 ++ bytesOfNat 8 9 ++ bytesOfNat 8 0x10020 ++ bytesOfNat 8 1) with started := true, steps := 1 }
    let wait : Packet := { packet ([3, 0, 0, 0, 0, 0, 0, 0] ++ bytesOfNat 8 0x10020 ++ bytesOfNat 4 1) with started := true }
    let reached : Packet := { packet ([3, 0, 0, 0, 0, 0, 0, 0] ++ bytesOfNat 8 0x10020) with started := true }
    let session : List Byte := bytesOfNat 8 0x30000 ++ [12, 7] ++ bytesOfNat 14 0 ++ bytesOfNat 4 1024 ++ bytesOfNat 36 0
    (∀ t ∈ [2, 3, 4, 6, 7], packetLegal (packet [BitVec.ofNat 8 t]).bytes = true ∧
      ((queued [packet [BitVec.ofNat 8 t]]).startable? 0).map (fun e => (e.2.type, e.2.number)) = some (t, 0)) ∧
    (∀ op ∈ [0, 1, 2], packetLegal (packet [5, 0, 0, 0, 0, 0, 0, 0, BitVec.ofNat 8 op]).bytes = true ∧
      ((queued [packet [5, 0, 0, 0, 0, 0, 0, 0, BitVec.ofNat 8 op]]).startable? 0).isSome = true) ∧
    (packetLegal (packet [1, 0, 0, 0, 0, 0, 0, 0, 1]).bytes = true ∧ ((queued [packet [1, 0, 0, 0, 0, 0, 0, 0, 1]]).startable? 0).isSome = true) ∧
    (packetLegal (packet [9]).bytes = false ∧ (packet [9]).type ≠ 5 ∧ (packet [9]).takenBy 7 = true ∧ ((queued [packet [9]]).startable? 0).isSome = true) ∧
    (((queued []).commandWrite 0 0x10000 [1]).isSome = true ∧ ((queued []).commandWrite 0 0x8000000000000 [1]).isSome = false) ∧
    ((queue []).trace = none ∧ (sessionOf session).isSome = true ∧ fine ((queued []).engineRange (commandAgent 0) 0x10000 64) = true) ∧
    ((queued [signal]).queues.get? 0 = some (queue [signal]) ∧ (queue [signal]).packets.find? (fun o => o.number == signal.number) = some signal ∧
      (queued [signal]).contextRuns 0 = true ∧ (queue [signal]).state = .active ∧
      (queue [signal]).packets.find? (fun p => p.started && p.type = 2 && p.steps = 1) = some signal ∧ wordFieldOf signal.bytes 24 ≠ 0) ∧
    ((queue [wait]).packets.find? (fun p => p.started && p.type = 3) = some wait ∧
      fine ((queued [wait]).locateWord 0 0 false (wordFieldOf wait.bytes 8) false) = true ∧ (queued [wait]).home.faulty (localKey true 0x10020) 32 0 = false ∧
      ((queued [wait]).readGen 0 0x10020 (localKey true 0x10020) 0).map (·.1) = some 0) ∧
    (let behind : Packet := { packet [3, 1] with number := 1, acquired := [(0, 1)] }
     let held : Queue := { queue [behind] with acquired := [(2, 1)] }
     (({ queued [] with link := { waiting := [(1, 1)] } } : State).engineAcquires (held.startEdges behind)).2 = false ∧
       ((queued [packet [7]]).engineAcquires ((queue [packet [7]]).startEdges (packet [7]))).2 = true) ∧
    ((∀ b, (queue [wait]).state ≠ .descheduled b) ∧ fine ((queued []).engineAdd 0 0 false 0x10020 1 []) = true ∧
      fine ((queued []).engineAdd 0 0 false 1 1 []) = false ∧ fine ((queued []).locateWord 0 0 false 1 false) = false ∧
      (broken (queued [])).home.faulty (localKey true 0x10000) 32 1 = false ∧ ((broken (queued [])).readGen 0 0x10000 (localKey true 0x10000) 1).isSome = false ∧
      ({ (queued []).home with bad := [localKey true 0x10020] } : Images).faulty (localKey true 0x10020) 32 0 = true ∧
      ((queued []).engineAcquires ((queued []).edgesOf (localKey true 0x10020))).2 = true) ∧
    2 ^ 31 ≤ ((0 : BitVec 32) - BitVec.ofNat 32 (fieldOf wait.bytes 16 4)).toNat ∧ ((0 : BitVec 32) - BitVec.ofNat 32 (fieldOf reached.bytes 16 4)).toNat < 2 ^ 31 := by
  and_intros <;> decide


/-- Ranges that are misplaced, too high, and within 2^52; a metaz word; one region that can be written and one that is not mapped; a page that moves. -/
theorem witness_Pages :
    let x := counted 4094 [0x10000, 0x10001, 0x10000000000000, 0x20000, 0x100001, 0x8000000000000, 0xFFFFFFFFF0000, 0x10000]
    let s := machine x
    let v (i : Fin 32) : Nat := (s.operand x (.n i)).toNat
    s.Issues 0 x ∧ v 1 % 65536 ≠ 0 ∧ (v 2 % 65536 = 0 ∧ 2 ^ 52 ≤ v 2) ∧ (v 6 % 65536 = 0 ∧ v 6 + v 7 = 2 ^ 52 ∧ v 6 < 2 ^ 52) ∧ 2 ^ 52 < v 6 + v 3 ∧
    v 0 % 65536 = 0 ∧ metazWordOk (s.operand x (.n 4)) = true ∧ bitsField (s.operand x (.n 4)) 0 17 = 1 ∧
    fine (s.locateRegions 0 x (s.operand x (.n 5)) 1) = false ∧
    (s.locateRegions 0 x (s.operand x (.n 0)) 1).toOption.map (fun e => e.1) = some [(localKey true 0x10000, 0, 0x10000)] ∧
    (x.speculative = false ∧ v 7 % 65536 = 0 ∧ s.operand x (.n 7) ≠ 0 ∧ v 0 + v 7 ≤ 2 ^ 52) ∧
    ((machine (counted 4095)).Issues 0 (counted 4095) ∧ 4095 ≤ (counted 4095).counts.ld) ∧ x.counts.ld < 4095 ∧ x.pushing = [] ∧
    (let m := mapped x 0x400000117
     let src := localKey true 0x400000000
     m.contexts.get? 0 = some benchContext ∧ validTable benchContext.desc.ptroot = true ∧
      leafPlace m.home m.node 0x10000 benchContext.desc.ptroot 4 = some (1, 0x400000117) ∧ leafNode 0x400000117 = m.node ∧ entryTier 0x400000117 ≠ false ∧
      leafResident 0x400000117 = true ∧ 0 % pageSize 1 = 0 ∧ 0 + pageSize 1 ≤ 2 * Config.tierBytes false ∧ m.served false 0 = true ∧
      (∀ b ∈ m.writeBackAll.home.mem, b.1 < localKey false 0 ∨ localKey false 0 + pageSize 1 ≤ b.1) ∧ (∀ f ∈ m.fibres, f.2.pend = []) ∧
      m.writeBackAll.home.mem.wf = true ∧ (∀ t ∈ m.writeBackAll.allEntries, entryPins m.node src (pageSize 1) t.2.1 t.2.2 = false) ∧
      (some (localKey true 0x2000), 1, 0x400000117) ∈ m.writeBackAll.allEntries ∧ validLeaf m.node 1 0x400000117 = true ∧ leafResident 0x113 = false ∧
      src = localKey (entryTier 0x400000117) (entryOffset 0x400000117)) ∧
    (let z : Fibre := { x with pushing := [(0, .s32, .slice 0)] }
     (machine z).Issues 0 z ∧ z.pushing ≠ [] ∧ s.queryError x 0x10000 = false ∧
       ({ s with home := { s.home with bad := [localKey true 0x2000] } } : State).queryError x 0x10000 = true) ∧
    (let region (comp : Nat) : List (Nat × Nat × Word) := [(localKey true 0x10000, comp, 0x10000)]
     let code (e : Except (FaultCode × Word × State) State) : Option FaultCode := match e with | .error r => some r.1 | .ok _ => none
     code (s.plainRegions 0 (region 0)) = none ∧ code ((broken s).plainRegions 0 (region 1)) = some .decode ∧
     code (({ s with home := { s.home with encoded := [localKey true 0x10000 / 65536], badModes := [localKey true 0x10000 / 256] } } : State).plainRegions 0
       (region 1)) = some .ecc) := by
  and_intros <;> first | decide | exact ⟨rfl, rfl⟩

/-- A message in slot 0: its code, context, queue, ticket, argument, value, reply address. -/
def message (code c q ticket arg value : Nat) : List Byte :=
  bytesOfNat 1 code ++ bytesOfNat 1 c ++ bytesOfNat 2 q ++ bytesOfNat 4 ticket ++ bytesOfNat 8 arg ++ bytesOfNat 8 value ++ bytesOfNat 8 0x9000 ++ bytesOfNat 32 0

/-- The machine with that message, a descriptor in host memory at 0x8000, and a queue. -/
def mailed (m : List Byte) (desc : List Byte := []) (c : Context := benchContext) (x : Fibre := numbers) : State :=
  { machine x benchGroup c with mailbox := { bytes := Memory.writeBytes [] 0 m, pending := [0] }, host := Memory.writeBytes [] 0x8000 desc,
                                queues := [(5, queue [] .idle), (6, queue [])] }

/-- A context descriptor, and a queue descriptor, that keep the limits. -/
def contextBytes : List Byte :=
  bytesOfNat 8 0x1101 ++ bytesOfNat 8 0x20000 ++ bytesOfNat 8 0x1000000 ++ bytesOfNat 4 1 ++ bytesOfNat 4 100 ++ bytesOfNat 8 0x2000000 ++ bytesOfNat 4 1 ++
    bytesOfNat 4 0 ++ bytesOfNat 48 0 ++ bytesOfNat 8 0x5000000 ++ bytesOfNat 1 4 ++ bytesOfNat 7 0 ++ bytesOfNat 16 0
def queueBytes : List Byte := bytesOfNat 8 0x20000 ++ [4, 0, 0, 0] ++ bytesOfNat 4 1 ++ bytesOfNat 8 0x10040 ++ bytesOfNat 8 0x10020 ++ bytesOfNat 8 0x1000 ++ [4] ++ bytesOfNat 23 0

/-- A message of each code, in recovery mode and in full service, whose limits hold or not; services 0, 1, 2, 255 and 256; the reply that a fibre waits for. -/
theorem witness_Mailbox :
    let down : State := { mailed (message 9 0 0 0 0x8000 0) with platform := {} }
    let has (s : State) (code : Nat) : Prop := s.fullService = true ∧ (s.mail 0 (· == code)).isSome = true
    let x := fibre [0, 1, 2, 255, 256]
    let z : Fibre := { x with life := .stalled (.service 7 .push) }
    let loaded : Context := { benchContext with state := .loaded }
    let saved : Context := { benchContext with state := .saved }
    let served : Context := { benchContext with tickets := [(7, 0)] }
    (down.fullService = false ∧ (down.mail 0 (· == 9)).isSome = true) ∧
    (has (mailed (message 1 63 0 0 0x8000 0) contextBytes) 1 ∧ (contextDescOf contextBytes).isSome = true ∧ (contextDescOf []).isSome = false ∧
      (mailed []).contexts.get? 63 = none ∧ (mailed []).contexts.get? 0 ≠ none ∧ 2 ≤ (mailed []).carveRoom) ∧
    (has (mailed (message 2 0 0 0 0 0) [] loaded) 2 ∧ loaded.state = .loaded ∧ benchContext.state ≠ .loaded ∧ benchContext.destroying = none) ∧
    (let going : Context := { benchContext with destroying := some 1 }
     has (mailed (message 2 0 0 0 0 0) [] going) 2 ∧ (∀ n ∈ going.destroying, n ≠ 0) ∧ ({ going with destroying := some 0 } : Context).destroying = some 0 ∧
     (mailed []).contexts.get? 9 = none ∧ (∀ k, (mailed []).queues.get? 9 = some k → k.context ≠ 0)) ∧
    (has (mailed (message 3 0 1023 0 0x8000 0) queueBytes) 3 ∧ ((mailed []).queueOf queueBytes).isSome = true ∧ (mailed []).queues.get? 1023 = none ∧
      ((mailed []).queueOf []).isSome = false ∧ (mailed []).queues.get? 5 ≠ none) ∧
    (has (mailed (message 4 0 5 0 0 0)) 4 ∧ (queue [] .idle).state = .idle ∧ (queue []).state ≠ .idle ∧ (queue []).context = 0 ∧ has (mailed (message 5 0 6 0 0 0)) 5) ∧
    (has (mailed (message 6 0 0 0 100 0)) 6 ∧ 100 ≤ 100 ∧ ¬ (99 = 0 ∨ 100 ≤ 99 ∧ 99 ≤ 1000000) ∧ ¬ (1000001 = 0 ∨ 100 ≤ 1000001 ∧ 1000001 ≤ 1000000)) ∧
    (has (mailed (message 8 0 0 0 0 1) [] saved) 8 ∧ saved.state = .saved ∧ saved.desc.dumpSize ≠ 0 ∧ benchContext.state ≠ .saved) ∧
    (has (mailed (message 10 0 0 0 0x8000 0)) 10 ∧ zeroBytes (message 10 0 0 0 0x8000 0) 56 7 = true ∧ zeroBytes (List.replicate 64 1) 56 7 = false) ∧
    ((mailed (message 11 0 0 0 0 0)).mail 0 (fun code => code = 0 || code > 10)).isSome = true ∧
    ((machine x).Issues 0 x ∧ x.speculative = false ∧ (∀ i : Fin 5, ((machine x).operand x (.n (i.castLE (by decide)))).toNat = [0, 1, 2, 255, 256].getD i.val 0) ∧
      benchContext.tickets.length < 2 ^ 32 - 1) ∧
    (has (mailed (message 7 0 0 7 0 1) [] served z) 7 ∧ served.tickets.find? (fun t => t.1 == 7) = some (7, 0) ∧
      (mailed (message 7 0 0 7 0 1) [] served z).fibres.get? 0 = some z ∧ z.life = .stalled (.service 7 .push) ∧ z.hints.rep = none ∧ (∀ t ∈ served.tickets, t.1 ≠ 8)) := by
  and_intros <;> first | decide | exact ⟨rfl, rfl⟩

/-- A Running context at the end of its slice and one nanosecond before it, whose room another context wants or not; one that is Saving with its work done;
one that is ready to run; and one Dumping. -/
theorem witness_Context_states :
    let at_ (n : Nat) : State := { machine numbers with time := n }
    let big : Context := { benchContext with desc := { benchContext.desc with reservoirMib := 256, specMib := 448 } }
    let other : Context := { big with state := .loaded, bound := false }
    let both (save : Nat) : State :=
      { at_ 1000000 with contexts := [(0, { big with desc := { big.desc with saveSize := save } }), (1, other)],
                         queues := [(0, { queue [] with context := 1, cls := 3 })] }
    let k (st : ContextState) : Context := { benchContext with state := st, bound := false }
    let s (st : ContextState) : State := machine numbers benchGroup (k st)
    (benchContext.state = .running ∧ (at_ 999999).time < benchContext.sliceStart + benchContext.slice ∧ benchContext.sliceStart + benchContext.slice ≤ (at_ 1000000).time ∧
      (at_ 1000000).roomWanted 0 benchContext = false) ∧
    (((both 0).roomWanted 0 { big with desc := { big.desc with saveSize := 0 } } = true) ∧ 0 < (both 0).contextSaveBytes 0 ∧
      (both 0x100000).contextSaveBytes 0 ≤ 0x100000) ∧
    ((k .saving).state = .saving ∧ (s .saving).drained 0 = true ∧ (∀ e ∈ (s .saving).residentGroups 0, (s .saving).readable e.1 e.2 = true)) ∧
    (let lost : Group := { benchGroup with badBytes := [0] }
     (∃ e ∈ (machine numbers lost (k .saving)).residentGroups 0, (machine numbers lost (k .saving)).readable e.1 e.2 = false) ∧ (machine numbers lost (k .saving)).drained 0 = true ∧
     ({ k .saving with destroying := some 0 } : Context).destroying ≠ none ∧ (∃ l ∈ (s .loaded).launches, l.2.context = 0)) ∧
    ((k .loaded).state = .loaded ∧ (s .loaded).contextReady 0 = true ∧ (s .loaded).bindable 0 (k .loaded) = true ∧ (s .loaded).platform.holding = false ∧
      (∀ e ∈ (s .loaded).contexts, (s .loaded).contextClass e.1 ≤ (s .loaded).contextClass 0) ∧ (∀ e ∈ (s .loaded).groups, e.2.state = .running)) ∧
    (s .dumping).contexts.get? 0 = some (k .dumping) ∧ (k .dumping).state = .dumping ∧ (k .dumping).destroying = none := by
  and_intros <;> decide

/-- The 64 bytes of a ray from the origin along x, with an empty interval. -/
def rayBytes : List Byte := bytesOfNat 24 0 ++ bytesOfNat 4 0x3F800000 ++ bytesOfNat 36 0

/-- Hit records misplaced, past the grant and in its last bytes; records that keep the limits and not; full counts; a ray that ends; loads of a hit record. -/
theorem witness_Rays :
    let g : Group := { benchGroup with slice := Memory.writeBytes [] 0 rayBytes }
    let x := counted 4094 [0, 65504, 8, 65536, 64]
    let y : Fibre := { x with rays := [{ anyHit := false, record := rayBytes, group := 0, hit := 65504, core := 0 }] }
    let full : Fibre := { x with rays := List.replicate 512 { anyHit := false, record := rayBytes, group := 0, hit := 0, core := 0 } }
    let s := machine x g
    let v (i : Fin 32) : Nat := (s.operand x (.n i)).toNat
    (s.Issues 0 x ∧ (machine y g).Issues 0 y) ∧ ({ x with group := none } : Fibre).group = none ∧ x.group = some 0 ∧ s.groups.get? 0 = some g ∧
    v 2 % 32 ≠ 0 ∧ (v 3 % 32 = 0 ∧ g.grant < v 3 + 32) ∧ (v 1 % 32 = 0 ∧ v 1 + 32 = g.grant) ∧
    (rayOf (List.replicate 64 0)).isSome = false ∧ (rayOf rayBytes).isSome = true ∧ 4095 ≤ (counted 4095).counts.ry ∧ x.counts.ry < 4095 ∧
    (machine full g).raysHeld 0 = 512 ∧ s.raysHeld 0 < 512 ∧ (v 0 % 32 = 0 ∧ v 0 + 64 ≤ g.grant) ∧ g.badBytes = [] ∧ (∀ i < 64, g.unacquired (.fibre 0) i = false) ∧
    ((machine y g).fibres.get? 0 = some y ∧ y.rays[0]?.map (fun r => (r.group, r.hit)) = some (0, 65504)) ∧ (7 : Fin 64).val < 8 ∧
    (∃ o ∈ ({ g with badBytes := [4] } : Group).badBytes, v 0 ≤ o ∧ o < v 0 + 64) ∧ (∃ o ∈ ({ g with badBytes := [65508] } : Group).badBytes, v 1 + 4 ≤ o ∧ o < v 1 + 8) ∧
    (g.matrix = [] ∧ g.doneMatrix = []) ∧ (v 4 % 32 = 0 ∧ g.grant < 65504 + 64) ∧ (∃ r ∈ y.rays, r.hit = v 1) ∧ (∀ r ∈ x.rays, r.hit ≠ v 1) ∧ x.counts.ld < 4095 ∧ x.pushing = [] ∧ (∀ i < 8, (g.acquireHit 0 65504).unacquired (.fibre 0) (65504 + 4 + i) = false) := by
  and_intros <;> first | decide | exact ⟨rfl, rfl⟩

/-- The machine with a second page of 16 GiB, not resident. -/
def twoPages (x : Fibre) (ws : List (Nat × List Byte)) : State := holding (machine x) ((0x2008, bytesOfNat 8 0x400000113) :: ws)

/-- A texture descriptor of one texel. -/
def textureBytes (base : Nat) : List Byte := bytesOfNat 8 base ++ [1, 1, 0, 0] ++ bytesOfNat 2 1 ++ bytesOfNat 2 1 ++ bytesOfNat 48 0

/-- A misplaced root, one that cannot be read and a node; descriptors misplaced, not resident, and of textures whose texels are there, are not resident, and lie
on no page. -/
theorem witness_Samples :
    let x := counted 4094 [0x10000, 0x10004, 0x8000000000000, 0x10040, 0x10080, 0x100C0, 0x400000000, 0x10100, 0x10140]
    let s := twoPages x [(0x10040, textureBytes 0x20000), (0x10080, textureBytes 0x400000000), (0x100C0, textureBytes 0x8000000000000),
      (0x10100, bytesOfNat 24 0 ++ bytesOfNat 8 (2 ^ 62) ++ bytesOfNat 24 0 ++ bytesOfNat 8 (2 ^ 62)), (0x10140, bytesOfNat 8 0x7FFFFFF00 ++ [1, 2, 0, 0] ++ bytesOfNat 2 2 ++ bytesOfNat 2 1 ++ bytesOfNat 48 0)]
    let three := holding s [(0x2010, bytesOfNat 8 0x117)]
    let v : Viewer := { core := 0, context := 0, fibre := some (0, x) }
    let o (i : Fin 32) : Word := s.operand x (.n i)
    let regs (a : Word) : List Word := [a, 0, 0, 0]
    let t (i : Fin 32) : Option Texture := (s.textureAt v (o i)).toOption.bind id
    let spans (t : Texture) : List (Nat × Nat) := t.spans (t.texels 0 0 [(0, 256)])
    s.Issues 0 x ∧ x.counts.ld < 4095 ∧ x.pushing = [] ∧ (o 1).toNat % 64 ≠ 0 ∧ (o 7).toNat % 64 = 0 ∧
    fine (lightWalk (s.sceneReader v) (regs (o 2)) 0) = false ∧ fine (lightWalk (s.sceneReader v) (regs (o 7)) 0) = true ∧
    fine (s.textureAt v (o 1)) = false ∧ ((s.textureAt v (o 6)).toOption.map Option.isNone) = some true ∧ (t 3).isSome = true ∧
    ((t 3).map fun t => (s.footprintPages v (spans t)).isNone) = some true ∧
    ((t 4).map fun t => match s.footprint v (spans t) with | .missing p => p | .whole _ | .bad _ _ => 0) = some 0x400000000 ∧
    ((t 5).map fun t => match s.footprint v (spans t) with | .bad _ _ => true | .whole _ | .missing _ => false) = some true ∧
    (let kind (e : Option Footprint) : Nat := match e with | none => 0 | some (.missing _) => 1 | some (.bad _ _) => 2 | some (.whole _) => 3
     let tail (t : Texture) : List (Nat × Nat) := t.spans (t.texels 0 0 [(t.levels - 1, 256)])
     ((t 8).map fun t => (kind (s.footprintPages v (spans t)), kind (s.footprintPages v (tail t)))) = some (1, 2) ∧
     ((t 8).map fun t => (kind (three.footprintPages v (spans t)), kind (three.footprintPages v (tail t)))) = some (1, 0) ∧
     ((t 4).map fun t => kind (s.footprintPages v (tail t))) = some 1 ∧ ((t 5).map fun t => kind (s.footprintPages v (spans t))) = some 2) := by
  and_intros <;> first | decide +kernel | exact ⟨rfl, rfl⟩

/-- Lengths 64 and 65; blocks at the last places that hold them. -/
theorem witness_Draws_and_records :
    let x := fibre [64, 65]
    (machine x).Issues 0 x ∧ 64 < ((machine x).operand x (.n 1)).toNat ∧ ((machine x).operand x (.n 0)).toNat ≤ 64 ∧ 64 ≤ x.room (.v 0) ∧
    ({ x with quota := 0 } : Fibre).room (.v 0) < 1 ∧ (28 : Fin 32).val + 4 ≤ 32 := ⟨issues .., by decide⟩

/-- A job descriptor: a frame of one row of tiles, all in its range; the output buffer. -/
def jobBytes (tiles out : Nat) : List Byte :=
  bytesOfNat 4 0 ++ bytesOfNat 2 tiles ++ bytesOfNat 2 1 ++ bytesOfNat 2 (8 * tiles) ++ bytesOfNat 2 8 ++ [1, 0, 0, 0] ++ [1, 0, BitVec.ofNat 8 out, 0] ++
    bytesOfNat 4 0 ++ bytesOfNat 4 128 ++ bytesOfNat 4 256 ++ bytesOfNat 96 0

/-- Records of the store that exist and not; descriptors misplaced, that keep the limits and that do not; jobs in each state, with tiles open, written and retired. -/
theorem witness_Reuse :
    let x := counted 4094 [0x13000, 0x13020, 0x13080, 5, 40000]
    let s := holding (machine x) [(0x13000, jobBytes 1 1), (0x13080, jobBytes 1 0)]
    let v (i : Fin 32) : Nat := (s.operand x (.n i)).toNat
    let j : ReuseJob := { context := 0, cls := 0, desc := jobBytes 2 1, root := (0, 0), state := .resampling }
    let j' : ReuseJob := { j with written := [0, 1], retired := [1] }
    let t (j : ReuseJob) : State := { machine numbers with jobs := [(0, j)] }
    (s.Issues 0 x ∧ x.counts.ld < 4095 ∧ x.counts.st < 4095 ∧ x.speculative = false) ∧
    (v 3 < 2 ^ 25 ∧ v 3 / 2 ^ 24 % 2 ∈ s.diesUp ∧ v 3 % 2 ^ 24 < s.storeRecords x.context) ∧ ¬ v 4 % 2 ^ 24 < s.storeRecords x.context ∧
    v 1 % 64 ≠ 0 ∧ v 0 % 64 = 0 ∧ v 2 % 64 = 0 ∧
    ((fibreReader 0 x s (v 0) 128).toOption.map fun e => jobOk s.diesUp (s.storeRecords x.context) e.1) = some true ∧
    ((fibreReader 0 x s (v 2) 128).toOption.map fun e => jobOk s.diesUp (s.storeRecords x.context) e.1) = some false ∧
    ({ j with state := .exchange } : ReuseJob).state = .exchange ∧ (t j).jobs.get? 0 = some j ∧ j.state = .resampling ∧ (t j).tileOpen j 2 = false ∧
    (t j).tileOpen j 0 = true ∧ 0 ∉ j.written ∧ 0 ∈ j'.written ∧ 0 ∉ j'.retired ∧ (jobOf j.desc).sync = 0 ∧
    (∃ i ∈ (jobOf j.desc).rangeTiles, i ∉ [0]) ∧ (∀ i ∈ (jobOf j.desc).rangeTiles, i ∈ 0 :: j'.retired) ∧
    ((t j).engineAcquires j.acquired).2 = true ∧ (({ t j with link := { waiting := [(1, 1)] } } : State).engineAcquires [(0, 1)]).2 = false ∧
    (jobOf ((j.desc.take 32) ++ bytesOfNat 96 0)).sync = 0 ∧ fine ((t j').engineAdd 0 0 false 0x14000 2048 []) = true ∧ fine ((t j').engineAdd 0 0 false 1 2048 []) = false := by
  and_intros <;> first | decide | exact ⟨rfl, rfl⟩

/-- Entries that are misaligned, too high and good; a fibre in a target program. -/
theorem witness_Target_programs :
    let x := fibre [0x10000, 0x10002, 0x10000000000000]
    let r : TargetRun := ⟨x.ages, x.named, 32, x.preds, x.flags, x.pc, {}, .push, 0⟩
    let y : Fibre := { numbers with target := some r }
    let v (i : Fin 32) : Nat := ((machine x).operand x (.n i)).toNat
    (machine x).Issues 0 x ∧ x.target = none ∧ (0 : Fin 32).val + 8 ≤ 32 ∧ v 1 % 4 ≠ 0 ∧ (v 2 % 4 = 0 ∧ 2 ^ 52 ≤ v 2) ∧ (v 0 % 4 = 0 ∧ v 0 < 2 ^ 52) ∧
    (machine y).Issues 0 y ∧ y.target = some r ∧ r.hints.rep = none ∧ (machine y).Undebugged := by
  and_intros <;> first | decide | exact ⟨rfl, rfl⟩ | exact issues .. | exact undebugged _

/-- A collective of f32 elements: one source of four elements, tag 7; its table, members, timeout and status word. -/
def collectiveBytes (table members timeout status : Nat) : List Byte :=
  [0, 4, 1, 0] ++ bytesOfNat 4 4 ++ bytesOfNat 4 7 ++ bytesOfNat 4 0 ++ bytesOfNat 24 0 ++ bytesOfNat 8 table ++ bytesOfNat 2 members ++ bytesOfNat 2 0 ++
    bytesOfNat 2 timeout ++ bytesOfNat 2 0 ++ bytesOfNat 8 0 ++ bytesOfNat 8 status ++ bytesOfNat 56 0

/-- Packages of a domain of four, this one 0, with a fabric port up. -/
def linked (s : State) : State := { s with link := { control := 0x68000, fabric := Vector.replicate 8 .up } }

/-- Descriptors and tables that keep the limits and not; no room; parts that match and not, of a full and of a waiting collective; one-member and timed collectives;
status words that can be written and not; finite terms; terms of a top-k. -/
theorem witness_Collectives :
    let x := fibre [0x13000, 0x13020, 0x8000000000000, 0x13080, 0x13100]
    let s := linked (holding (machine x) [(0x13000, collectiveBytes 0x13200 2 0 0), (0x13080, collectiveBytes 0x13200 0 0 0), (0x13100, collectiveBytes 0x13202 2 0 0),
      (0x13200, [0, 0, 1, 0, 0, 0])])
    let v (i : Fin 32) : Nat := (s.operand x (.n i)).toNat
    let at_ (i : Fin 32) : Option (List Byte) := (fibreReader 0 x s (v i) 128).toOption.map (·.1)
    let table (i : Fin 32) : Option (List Byte) := (at_ i).bind fun bs => (fibreReader 0 x s (collectiveOf bs).table 4).toOption.map (·.1)
    let c (n timeout status : Nat) : Collective := { context := 0, launch := 0, group := 0, desc := collectiveBytes 0 n timeout status, table := List.range n, started := 0 }
    let m (n : Nat) : CollectiveMessage := { rank := 1, tag := 7, match0 := (c n 0 0).desc.take 16 ++ ((c n 0 0).desc.drop 48).take 2, table := List.range n, terms := [[0, 0, 0, 0]] }
    let joined (n : Nat) : Collective := { c n 0 0 with messages := [m n] }
    let t (k : Collective) : State := { linked (machine numbers) with time := 1000000, collectives := [(0, k)] }
    let a : XVal := .fin false ⟨1, 0, false⟩
    let b : XVal := .fin true ⟨3, 4, false⟩
    (s.Issues 0 x ∧ x.speculative = false ∧ v 1 % 64 ≠ 0 ∧ v 0 % 64 = 0) ∧ (v 2 % 64 = 0 ∧ fine (fibreReader 0 x s (v 2) 128) = false) ∧
    ((at_ 0).map collectiveOk = some true ∧ (at_ 3).map collectiveOk = some false ∧ (at_ 4).map collectiveOk = some true) ∧
    ((table 0).map fun tb => tableOk s.domainSize s.node 0 [fieldOf tb 0 2, fieldOf tb 2 2]) = some true ∧
    ((table 4).map fun tb => tableOk s.domainSize s.node 0 [fieldOf tb 0 2, fieldOf tb 2 2]) = some false ∧
    ((s.taskOf 0 x).isSome = false ∧ s.collectives.length < 64 ∧ 64 ≤ ({ s with collectives := List.replicate 64 (0, c 2 0 0) } : State).collectives.length) ∧
    ((t (c 2 0 0)).collectives.get? 0 = some (c 2 0 0) ∧ (c 2 0 0).full = false ∧ (t (c 2 0 0)).collectiveFor (m 2) = some 0 ∧
      (t (c 2 0 0)).link.control.getLsbD 15 = true ∧ (t (c 2 0 0)).collectiveFor { m 2 with rank := 0 } = some 0) ∧
    ((m 2).rank ≠ (collectiveOf (c 2 0 0).desc).rank ∧ (m 2).rank < (collectiveOf (c 2 0 0).desc).members ∧ (m 2).tag = (collectiveOf (c 2 0 0).desc).tag) ∧
    ((c 2 0 0).agrees (m 2) = true ∧ (joined 2).full = true ∧ (c 3 0 0).agrees (m 3) = true ∧ (joined 3).full = false ∧ (c 2 0 0).agrees { m 2 with match0 := [] } = false) ∧
    ((t (c 3 0 0)).collectiveFor (m 3) = some 0 ∧ (c 1 0 0).full = true) ∧
    (((t (joined 2)).engineAcquires (joined 2).acquired).2 = true ∧
      (({ t (joined 2) with link := { waiting := [(1, 1)] } } : State).engineAcquires [(0, 1)]).2 = false ∧ s.touchesOrdered 0 x (collectiveOf (c 2 0 0).desc).pieces = false ∧
      (let task : Frame := { benchFrame with group := none }
       let far := linked (holding (mapped x 0x137) [(0x13000, collectiveBytes 0x13200 2 0 0)])
       task.group = none ∧ far.touchesOrdered 0 x [(0x13000, 4)] = true)) ∧
    ((collectiveOf (c 2 0 0).desc).timeout = 0 ∧ (collectiveOf (c 2 1 0).desc).timeout ≠ 0 ∧ (c 2 1 0).full = false ∧
      (c 2 1 0).started + (collectiveOf (c 2 1 0).desc).timeout * 1000000 ≤ (t (c 2 1 0)).time) ∧
    (fine ((t (c 2 0 0x8000000000000)).engineLocate (c 2 0 0x8000000000000).agent 0x8000000000000 8 true) = false ∧
      (((t (c 2 0 0x14000)).engineLocate (c 2 0 0x14000).agent 0x14000 8 true).toOption.bind fun e =>
        (e.2.engineWrite (c 2 0 0x14000).agent e.1 (bytesOfNat 8 0))).isSome = true) ∧
    ((a = .fin false ⟨1, 0, false⟩ ∧ b = .fin true ⟨3, 4, false⟩) ∧ [a, b].Perm [b, a]) ∧ 1 ≤ [(1 : Word), 2].length ∧ (topkResult .f32 2 [1, 2])[0]? = some (2, 1) ∧
      (topkResult .f32 2 [1, 2])[1]? = some (1, 0) ∧ 0 ∉ (topkResult .f32 1 [1, 2]).map (·.2) := by
  and_intros <;> first | decide | exact .swap _ _ _ | exact ⟨rfl, rfl⟩

/-- Queue pairs and ports that serve and not; keys of each space; places that are served, not served, unaligned and with an error; full service and recovery. -/
theorem witness_Host_port :
    let s : State := { machine numbers with link := { host := .up, control := 0x8000 } }
    let bad : State := { s with home := { s.home with bad := [localKey true 0x13000] } }
    let place : Nat := 0x10000013000
    let one (e : Option (List (Nat × Nat) × State)) : Option (List (Nat × Nat)) := e.map (·.1)
    s.portServes 1024 = false ∧ (machine numbers).portServes 0 = false ∧ s.portServes 1023 = true ∧ 0x44 ≤ 0x44 ∧ s.fullService = true ∧
    State.reset.fullService = false ∧ rdmaSpace 0x40 = some .physical ∧ rdmaSpace 0x3F = some (.context 0x3F) ∧
    s.rdmaPlaces .physical 0x20000000000 8 true = none ∧ s.rdmaPlaces (.context 0) 0x8000000000000 8 false = none ∧ s.rdmaPlaces (.context 1) 0 8 true = none ∧
    0x13004 % 8 ≠ 0 ∧ place % 8 = 0 ∧ one (s.rdmaPlaces .physical place 8 true) = some [(localKey true 0x13000, 8)] ∧
    one (s.rdmaPlaces (.context 0) 0x13000 8 false) = some [(localKey true 0x13000, 8)] ∧ one (s.rdmaPlaces (.context 0) 0x13000 8 true) = some [(localKey true 0x13000, 8)] ∧
    bad.rdmaError (.context 0) [(localKey true 0x13000, 8)] = true ∧ s.rdmaError (.context 0) [(localKey true 0x13000, 8)] = false ∧
    bad.rdmaError .physical [(localKey true 0x13000, 8)] = false ∧ s.home.faulty (localKey true 0x13000) 8 0 = false ∧ 0 ∉ s.pairErrors ∧
    ({ s with pairErrors := [7] } : State).portServes 7 = false ∧ s.bellAt [(localKey true 0x13000, 8)] = none ∧
    ({ s with queues := [(0, queue [])] } : State).bellAt [(localKey true 0x10020, 8)] = some (localKey true 0x10020) ∧ (4032 < 4096 ∧ 4032 % 64 = 0) ∧
    s.link.host.carries = true ∧ (s.link.control.getLsbD 15 = true ∧ (0x8001 : Word).getLsbD 15 = true ∧ bitsField 0x8001 0 12 ≠ bitsField s.link.control 0 12) ∧
    (machine numbers).link.host.carries = false := by
  and_intros <;> decide

/-- A unit in each state, that may train and not; the last module and not the last; packages in the domain and not, reached and not; stores, atomics, markers. -/
theorem witness_Links :
    let s (v : LinkState) (c : Word) : State := { machine numbers with link := { armed := if c = 0 then [] else [.fabric 0], control := c, fabric := Vector.replicate 8 v } }
    let u : LinkUnit := .fabric 0
    let modules (i j : LinkState) : State := { machine numbers with link := { modules := (Vector.replicate 16 .down).set 0 i |>.set 1 j } }
    let l := linked (machine numbers)
    let k : AtomKind := .op .add .n32 .rn false 1 0
    let m : Marker := { path := 0, sender := 1, epoch := 1, count := 0, paths := 1 }
    let later : Marker := { m with count := 1 }
    ((s .down 0x100000000).link.unit u = .down ∧ (s .down 0x100000000).enabled u = true ∧ (s .down 0).enabled u = false ∧ (s .up 0).link.unit u ≠ .down) ∧
    ((s (.training 2) 0).link.unit u = .training 2 ∧ (s .up 0).link.unit u = .up ∧ (s .down 0).link.unit u ≠ .up ∧
      (s .degraded 0).link.unit u = .degraded ∧ (s .up 0).link.unit u ≠ .degraded) ∧
    (((s .up 0).link.unit u).carries = true ∧ ((s (.training 0) 0).link.unit u).carries = false) ∧
    (((modules .up .down).link.unit (.module 0)).carries = true ∧ (∀ j, j ≠ 0 → ((modules .up .down).link.unit (.module j)).carries = false) ∧
      1 ∈ (modules .up .down).diesUp ∧ ((modules .up .degraded).link.unit (.module 1)).carries = true ∧
      (∀ i : Fin 16, (((modules .up .down).setUnit (.module 0) .down).link.unit (.module i)) = .down) ∧
      (((modules .up (.training 0)).setUnit (.module 0) .down).link.unit (.module 1)) ≠ .down) ∧
    (let late (n : Nat) : State := { l with time := n, link := { l.link with portsDown := some 5 } }
     1 ≠ l.node ∧ l.inDomain 1 = true ∧ 1 ∉ l.link.unreachable ∧ (late 0).link.downSince 1 = some 5 ∧ (late 10000004).time < 5 + 10000000 ∧
     5 + 10000000 ≤ (late 10000005).time ∧ ({ l.link with portsDown := none } : LinkFabric).downSince 1 = none) ∧
    (l.fabricOpen 0 = false ∧ l.fabricOpen 4 = false ∧ l.fabricOpen 3 = true ∧ l.fabricOpen 1 = true) ∧
    (0x13000 + [(1 : Byte)].length ≤ 2 * Config.tierBytes true ∧ l.link.markers = []) ∧ (0x13000 + k.size ≤ 2 * Config.tierBytes true ∧ 0x13000 % k.size = 0) ∧
    (m.epoch % 2 ^ 32 = nextEpoch (l.link.ackedTo 1) ∧ ({ m with epoch := 2 } : Marker).epoch % 2 ^ 32 ≠ nextEpoch (l.link.ackedTo 1) ∧ 2 ≤ ({ m with paths := 2 } : Marker).paths) ∧
    (0x13000 + 32 ≤ 2 * Config.tierBytes true ∧ 0x13000 % 32 = 0 ∧ 0x13000 % 16 = 0 ∧ 0x13008 % 16 ≠ 0 ∧ l.home.mem.readBytes (localKey true 0x13000) 16 = pairBytes (0, 0) ∧
      l.home.mem.readBytes (localKey true 0x13000) 16 ≠ pairBytes (0, 1)) ∧
    (m.sender = 1 ∧ (∀ n ∈ l.link.markers, n.sender ≠ 1) ∧ m.paths ≤ 1 ∧ m.count ≤ l.link.performedOn 1 m.path ∧ l.link.performedOn 1 later.path < later.count) ∧
    (l.domainSize ≤ 4 ∧ l.node = 0 ∧ 3 < l.domainSize) := by
  and_intros <;> decide

/-- The first 32 bytes of a ring descriptor. -/
def ringBytes (base : Nat) : List Byte := bytesOfNat 8 base ++ bytesOfNat 4 1 ++ bytesOfNat 20 0

/-- A command of the debug window in slot 0, for the group of context 0, slot 0, linear index 0. -/
def command (code : Nat) (arg : Nat := 0) : List Byte := bytesOfNat 1 code ++ bytesOfNat 15 0 ++ bytesOfNat 8 arg ++ bytesOfNat 40 0

/-- Ring descriptors misplaced, unreadable, bad and good; waymarks open, closed, retired and speculative, their rings mapped and not; sessions that sample, that trace
fully and not; debug commands accepted and not, well formed and not, busy and taken, of groups that are there, gone, stopped and stopping, with members and without. -/
theorem witness_Watching :
    let x := fibre [0x13000, 0x13004, 0x8000000000000, 0x13020]
    let s := holding (machine x) [(0x13000, ringBytes 0x14000), (0x13020, ringBytes 0x14001)]
    let v (i : Fin 32) : Nat := (s.operand x (.n i)).toNat
    let ring (i : Fin 32) : Option (Option (Word × Nat)) := (fibreReader 0 x s (v i) 32).toOption.map fun e => waymarkRing e.1
    let m : Waymark := { context := 0, fibre := 0, ring := 0x13000, base := 0x14000, records := 1, tile := 0, launch := 0, group := 0, fid := 0, core := 0, opened := 0 }
    let y : Fibre := { numbers with mark := some 0 }
    let marked (m : Waymark) : State := { machine y with marks := [(0, m)] }
    let lost : Waymark := { m with ring := 0x8000000000000 }
    let adrift : Waymark := { m with base := 0x8000000000000 }
    let at_ (m : Waymark) : Option (Nat × Word × State) := (marked m).deviceLocate 0 0 (m.ring.toNat + 16)
    let t : TraceSession := { buffer := 0x30000, size := 12, full := true, summary := false, samples := true, launch := 0xFFFFFFFF, group := 0xFFFFFFFF, queue := 0xFFFF, period := 1024, tailWord := 0 }
    let traced (t : TraceSession) : State := { machine numbers with queues := [(0, { queue [] with trace := some t })] }
    let e (code : Nat) : DebugEntry := { slot := 0, message := command code }
    let w (e : DebugEntry) (g : Group := benchGroup) : State := { machine numbers g with debugWindow := { accepted := [e] } }
    let stopped : Group := { benchGroup with state := .stopped }
    let stopping : Group := { benchGroup with dbg := { stopping := some (1, some 0) } }
    let done (r : Option Word) : Group := { stopped with dbg := { stopping := some (1, r) } }
    (s.Issues 0 x ∧ v 1 % 32 ≠ 0 ∧ v 0 % 32 = 0 ∧ v 2 % 32 = 0 ∧ fine (fibreReader 0 x s (v 2) 32) = false ∧ (ring 0).map Option.isSome = some true ∧ ring 3 = some none) ∧
    (x.mark = none ∧ y.mark = some 0 ∧ (marked m).Issues 0 y ∧ (marked m).marks.get? 0 = some m ∧ (0 : Nat) ≠ 1 ∧ (machine y).marks.get? 0 = none) ∧
    (m.retired = none ∧ ({ m with retired := some 7 } : Waymark).retired ≠ none ∧ ({ m with speculative := some (0, 0) } : Waymark).speculative ≠ none ∧ m.speculative = none ∧
      (at_ m).isSome = true ∧ (at_ lost).isSome = false ∧ ((marked m).deviceLocate 0 0 (m.base.toNat + 64 * 0)).isSome = true ∧
      ((marked adrift).deviceLocate 0 0 (adrift.base.toNat + 64 * 0)).isSome = false) ∧
    ((traced t).queues.get? 0 = some { queue [] with trace := some t } ∧ ({ t with samples := false } : TraceSession).samples = false ∧ t.samples = true ∧ t.period ≠ 0 ∧
      t.sampled.get? 0 = none ∧ ((traced t).sampled t 0 0).isSome = true ∧ ({ t with sampled := [(0, (0, 1))] } : TraceSession).sampled.get? 0 = some (0, 1) ∧
      ((traced t).core 0).clock / t.period ≤ 0 ∧ numbers.group = some 0 ∧ (traced t).tracesFully 0 0 t = true ∧
      (traced t).tracesFully 0 0 { t with full := false } = false) ∧
    ((command 1).length = 64 ∧ State.reset.debugWindow.bytes.read 63 = (command 1).getD 63 0 ∧ State.reset.debugWindow.bytes.read 63 ≠ ((command 1).set 63 1).getD 63 0) ∧
    ((w (e 1)).portOpen = true ∧ State.reset.portOpen = false ∧ (machine numbers).debugDue 0 = none) ∧
    (∀ code ∈ [1, 2, 3, 4, 5, 6], (w (e code)).debugDue 0 = some (e code) ∧ fieldOf (e code).message 0 1 = code ∧ debugCommandOk (e code).message = true ∧
      ((w (e code)).debugGroup (e code).message).toOption.map (·.1) = some 0 ∧ (e code).taken = false ∧ (e code).busy = false) ∧
    ((∀ code ∈ [3, 4, 5, 6], debugCommandOk (command code) = true ∧ debugCommandOk (command code 1) = false) ∧
      fine ((w (e 1) { benchGroup with state := .retired }).debugGroup (command 1)) = false ∧
      (w { e 1 with taken := true } { benchGroup with state := .retired }).debugDue 0 = some { e 1 with taken := true } ∧
      (w { e 1 with taken := true } stopping).debugDue 0 = none ∧ ({ e 1 with busy := true } : DebugEntry).busy = true) ∧
    (benchGroup.state = .running ∧ (w (e 1)).inPass 0 = true ∧ ({ w (e 1) with pass := none } : State).inPass 0 = false ∧ stopped.state = .stopped ∧
      ((w (e 2) stopped).debugGroup (command 2)).toOption.map (fun e => e.2.state) = some .stopped ∧ ((w (e 2) stopped).members 0).map (·.1) = [0] ∧
      ({ w (e 2) stopped with fibres := [] } : State).members 0 = []) ∧
    (benchGroup.state ≠ .stopped ∧ (done none).state = .stopped ∧ (done none).dbg.stopping = some (1, none) ∧ (done (some 0)).dbg.stopping = some (1, some 0)) := by
  and_intros <;> first | decide | exact ⟨rfl, rfl⟩

/-- Steps of boot that can end and not, with images that verify and not; clocks above the least and at it, with a context that runs; sites of errors, with loads that can end
before the error and that cannot; units under test; cores that are busy, drained and empty; quadrants tested lately and not. -/
theorem witness_Platform :
    let booting (n : Nat) : State := { platform := { step := n } }
    let unsigned (n : Nat) : State := { platform := { step := n, images := Vector.replicate 8 { rsa := .missing } } }
    let joined (n : Nat) : State := { platform := { step := n }, link := { modules := Vector.replicate 16 .up, host := .up } }
    let hot : State := { machine numbers with platform := { step := 8, clock := Vector.replicate 2 1201 } }
    let cool : State := { machine numbers with platform := { step := 8, testing := [.core 0, .memoryDevice 0 true 0] } }
    let store : Pend := { op := .syncAdd (.mem (2 * 2 ^ 41 + 0x13000) 0 false .default 0x13000) 1, unit := 0 }
    let load : Pend := { op := .load (.mem (localKey true 0x13000) 0 false .default 0x13000) .n8 false, dest := .named 31, unit := 0 }
    let stuck : State := { hot with fibres := [(0, { numbers with pend := [store, load] })], link := { hot.link with down := [(1, 0)] } }
    let tested (n : Nat) : State := hot.setCore 0 { hot.core 0 with clock := n, tested := Vector.replicate 4 (some 0) }
    let working : Group := { benchGroup with matrix := [{ fibre := some 0, unit := 0, fn := 1, a := 0, b := 0, c := 0, guard := none, started := some 0 }] }
    let stored : State := hot.setCore 0 { hot.core 0 with dirty := [(7, ⟨1, 0, 0, false, false⟩)] }
    (8 ≤ (booting 8).platform.step ∧ (booting 7).platform.step < 8 ∧ (booting 7).platform.failed = false ∧ (joined 0).link.host.carries = true ∧
      (joined 5).link.modules[(0 : Fin 16)].carries = true ∧ (∀ i : Fin 16, (booting 5).link.modules[i].carries = false) ∧ (booting 0).link.host.carries = false ∧
      (∀ i : Fin 8, (booting 1).platform.images[i].rsa = .verifying ∧ (booting 1).platform.images[i].slh = .verifying) ∧ (unsigned 1).platform.images[(0 : Fin 8)].rsa ≠ .verifying ∧
      (booting 6).platform.testing = [] ∧ TestUnit.core 7 ∉ (booting 5).fences) ∧
    ((0 : Fin 2).val ∉ (booting 3).diesUp ∧ (1 : Fin 2).val ∈ hot.diesUp ∧ 1200 < hot.platform.clock[(1 : Fin 2)] ∧ (1 : Fin 2).val ∈ cool.diesUp ∧
      cool.platform.clock[(1 : Fin 2)] ≤ 1200 ∧ cool.contexts.get? 0 = some benchContext ∧ benchContext.state = .running) ∧
    ((hot.readBefore (.memory true 0x13000)).isSome = true ∧ (stuck.readBefore (.memory true 0x13000)).isSome = false ∧ (∀ e ∈ hot.fibres, e.2.pend = []) ∧
      (hot.siteUnit (.memory true 0)).isSome = true ∧ hot.siteUnit (.bank 9) = none) ∧
    ((stored.core 0).dirty.get? 7 = some ⟨1, 0, 0, false, false⟩ ∧ hot.anyFibre 0 = some numbers ∧ hot.frames.get? 0 = some benchFrame ∧ hot.fibres.get? 0 = some numbers ∧
      hot.launches.get? 0 = some benchLaunch ∧ hot.groups.get? 0 = some benchGroup ∧ numbers.resident = true ∧ ({ numbers with stackSize := 64 } : Fibre).stackSize = 64 ∧
      ({ numbers with life := .saved none false } : Fibre).resident = false) ∧
    (TestUnit.core 0 ∉ hot.platform.testing ∧ TestUnit.memoryDevice 0 true 0 ∈ cool.platform.testing ∧ TestUnit.core 0 ∈ cool.platform.testing) ∧
    (cool.coreBusy 0 = true ∧ cool.coreDrained 0 = true ∧ ({ cool with groups := [], fibres := [] } : State).coreBusy 0 = false) ∧
    ((hot.core 0).tested[(0 : Fin 4)] = none ∧ hot.betweenCommands 0 = true ∧ (machine numbers working).betweenCommands 0 = false ∧
      ((tested 65535).core 0).tested[(0 : Fin 4)] = some 0 ∧ ((tested 65535).core 0).clock < 0 + 65536 ∧ 0 + 65536 ≤ ((tested 65536).core 0).clock) := by
  and_intros <;> decide



/-! Witnesses for the clauses of one statement each that its first witness does not reach. -/

/-- n0-n6 in f32: -0, 0, infinity, its negative, a signalling NaN, 3 and 4; in s32: -1 and 2^31 as a float; a step that is due. -/
theorem witness_Floating_results_special :
    let x := fibre [0x80000000, 0, 0x7F800000, 0xFF800000, 0x7F800001, 0x40400000, 0x40800000, 0xC0800000, 0x40200000, 0x4F000000]
    let v (i : Fin 32) : XVal := exact .f32 ((machine x).operand x (.n i))
    (cmpX (v 5) (v 6) = .lt ∧ cmpX (v 6) (v 5) = .gt ∧ cmpX (v 5) (v 5) = .eq ∧ (v 5).isNan = false ∧ (v 5).isZero = false) ∧
    ((v 0).isZero = true ∧ (v 0).isNeg = true ∧ (v 1).isZero = true ∧ (v 1).isNeg = false) ∧ v 2 = .inf false ∧ v 3 = .inf true ∧ v 4 = .nan true ∧
    ((v 7).isNeg = true ∧ (v 7).isNan = false ∧ (v 7).isZero = false) ∧ (∃ m, v 5 = .fin false m) ∧ (∃ m, v 7 = .fin true m) ∧
    (cmpX (v 5) (exactInt 3) = .eq ∧ (3 : Int) ≠ 0 ∧ (3 : Int).natAbs < 2 ^ 13) ∧ cmpX (v 6) (.fin false ⟨1, 2, false⟩) = .eq ∧
    (Ty.b32.isBits = true ∧ Ty.f32.isBits = false ∧ Ty.f32.isFloat = true ∧ Ty.s32.isFloat = false ∧ Ty.s32.isBits = false) ∧
    ((∃ m, v 8 = .fin false m) ∧ ∃ m, v 9 = .fin false m) ∧ { x with stepDue := true }.stepDue = true ∧ (numbers.stepDue = false) := by
  and_intros <;> first | decide | exact ⟨_, by decide⟩ | exact ⟨_, rfl⟩

/-- A fibre of an ordered task, and one that is speculative; bytes of the slice, dirty bytes, clean lines, a tile that breaks R355, and reads that fault; returned values
for each destination; writes with room and without; a policy that bypasses L1. -/
theorem witness_Loads_and_stores_perform_places :
    let pa := localKey true 0x10000
    let x := numbers
    let s := machine x
    let y : Fibre := { x with speculative := true }
    let spec (n : Nat) : State := { machine y with launches := [(0, { benchLaunch with record := { benchLaunch.record with budget := n } })] }
    let task : State := machine x benchGroup benchContext { benchLaunch with kernel := { benchLaunch.kernel with ordered := true } }
    let loc (comp : Nat) (ordered : Bool) (p : CachePolicy) : Loc := .mem pa comp ordered p 0x10000
    let dirty (n : Nat) : State := s.setCore 0 { s.core 0 with dirty := [(pa + 4, ⟨1, n, 0, false, false⟩)] }
    let clean : State := s.setCore 0 { s.core 0 with clean := [{ pa := pa, bytes := List.replicate 64 7, mode := none }] }
    let lost : State := { s with link := { unreachable := [0] } }
    let p (d : PendDest) : Pend := { op := .load (loc 0 false .default) .s32 false, dest := d, unit := 0, hold := true }
    let es : List (Nat × Loc) := [(0, loc 0 false .default), (1, .mem (pa + 4) 0 false .default 0x10004)]
    s.groups.get? 0 = some benchGroup ∧ (∀ i < 4, benchGroup.unacquired (.fibre 0) i = false) ∧ benchGroup.matrix = [] ∧ benchGroup.doneMatrix = [] ∧
    ((task.taskOf 0 x).isSome = true ∧ (task.launches.get? 0).isSome = true ∧ s.phaseImages 0 x = none ∧ s.taskOf 0 x = none) ∧
    (s.blurFreed 0 0x10000 [1, 2] = ([1, 2], s)) ∧ (∀ e ∈ (dirty 0).cores, ∀ d ∈ e.2.dirty, d.1 / 256 = pa / 256 → e.1 = x.core ∧ d.2.comp = 0) ∧
    ((dirty 0).core 0).dirty.Pairwise (fun a b => a.1 < b.1) ∧ ((dirty 0).core 0).dirty.get? (pa + 4) = some ⟨1, 0, 0, false, false⟩ ∧
    (∀ l ∈ (s.core 0).clean, pa + 4 ≤ l.pa + l.bytes.length ∨ l.pa + l.bytes.length ≤ pa) ∧ (findLine (clean.core 0).clean pa 0).isSome = true ∧ pa % 64 + 4 ≤ 64 ∧
    (findLine (s.core 0).clean pa 1 = none ∧ allDirty (s.core 0).dirty pa 4 = false ∧ (s.home.read pa 4 1).map List.length = some 4 ∧ (broken s).home.read pa 4 1 = none) ∧
    (s.core 0).sampler = [] ∧ CachePolicy.nol1 ≠ .default ∧
    ((withBad x).hasError 0 x 4 (loc 0 false .default) = true ∧ s.cutOff (loc 0 false .default) = false ∧ lost.cutOff (.mem (2 ^ 41 + pa) 0 false .default 0x10000) = true ∧
      lost.leavesCore 0 4 (.mem (2 ^ 41 + pa) 0 false .default 0x10000) = true) ∧
    (fine (s.readChecked 0 x true false (loc 0 false .default) 4 (.fibre 0)) = true ∧ fine ((withBad x).readChecked 0 x true false (loc 0 false .default) 4 (.fibre 0)) = false ∧
      fine (s.readAll 0 x true 4 (.fibre 0) (es.map (·.2))) = true ∧ fine ((withBad x).readAll 0 x true 4 (.fibre 0) (es.map (·.2))) = false) ∧
    (∀ d ∈ [PendDest.age 15, .pushAtReturn, .named 31, .element .s32 (loc 0 false .default), .vec 15], ({ x with pend := [p d] } : Fibre).pend[0]? = some (p d)) ∧
    (fine (vectors.writev (.v 1) [⟨5, 2⟩] 0 false) = true ∧ fine ((vectors 0).writev (.v 1) [⟨5, 2⟩] 0 false) = false ∧ fine (vectors.writeSxBlock 1 0 .f32 .sx8 (List.replicate 64 0)) = true ∧
      fine ((vectors 0).writeSxBlock 1 0 .f32 .sx8 (List.replicate 64 1)) = false) ∧
    (sxMalformed .sx8 (List.replicate 62 0 ++ [1, 1]) = true ∧ sxAllZero (List.replicate 62 0 ++ [1, 1]) = false) ∧
    (queueDescOk (List.replicate 32 0) = false ∧ queueDescOk (bytesOfNat 8 0x10000 ++ bytesOfNat 4 1 ++ bytesOfNat 4 4 ++ List.replicate 16 0) = true) ∧
    ((spec 0).specFits 0 0 ((spec 0).redirected 0 y [(loc 0 false .default, [1])]) = false ∧ (spec 1).specFits 0 0 ((spec 1).redirected 0 y [(loc 0 false .default, [1])]) = true) ∧
    (7 ≠ (s.core 0).release ∧ ((dirty 7).core 0).dirty.get? (pa + 4) = some ⟨1, 7, 0, false, false⟩ ∧ (distinct ((((dirty 0).core 0).dirty.map fun e => e.1 / 64) ++ (List.range 2).map fun i => (pa + i) / 64)).length ≤ 1024 * (s.core 0).boundary) := by
  and_intros <;> decide

/-- A stack with a byte in error, below and above sp; a record with a count of 0, and one that finds no room. -/
theorem witness_Spills_errors :
    let x : Fibre := { stacked 16 [0x81] with badStack := [20] }
    let r : Runs := [⟨7, 1⟩, ⟨5, 3⟩]
    let y (quota : Nat) : Fibre := { vectors quota [1] with sp := BitVec.ofNat 52 stackBase, window := 8, stack := Memory.writeBytes [] 0 (runRecord r) }
    let z : Fibre := { y 256 with stack := Memory.writeBytes [] 0 (bytesOfNat 8 1) }
    (machine x).Issues 0 x ∧ (∃ o ∈ x.badStack, 16 ≤ o ∧ o < 16 + 16) ∧ (∀ o ∈ (stacked 16 [0x81]).badStack, o < 16 ∨ 32 ≤ o) ∧
    (y 0).stack.readBytes 0 32 = runRecord r ∧ 0 + 32 ≤ (y 0).stackSize ∧ (y 3).quota - ((y 3).runsUsed - (y 3).occupancy (.v 0)) < r.length ∧
    (∀ e ∈ r, 1 ≤ e.count ∧ e.count ≤ 64) ∧ runsLen r ≤ 64 ∧ z.badStack = [] ∧ natOfBytes (z.stack.readBytes 0 8) = 1 ∧ (z.stack.read 16).toNat = 0 ∧
    (∃ j < 1, (z.stack.read (0 + 8 + 8 * 1 + j)).toNat = 0) := by
  and_intros <;> first | decide | exact issues ..

/-- A ray that waits and one whose turn has come; a record in error; blocks that are new and not; launches that find a slot; a tile that waits; resets of a queue; a guard
write that is in force and one that is not. -/
theorem witness_Engines_turns :
    let x := numbers
    let s := machine x
    let w : Group := { benchGroup with guardWrites := [(0, 0, 0, .true_, (0, 0))] }
    let late : Group := { benchGroup with guardWrites := [(9, 0, 0, .true_, (0, 0))] }
    let c : CopyCommand := { fibre := some 0, unit := 0, list := 0, count := 1, guard := some 0, since := 0 }
    let by_ : Launcher := { context := 0, cls := 0, depth := 0, queue := 0, packet := 0, tag := 0, edges := [] }
    (x.rayRequest = none ∧ ({ x with rayRequest := some (3, true) } : Fibre).rayRequest = some (3, true) ∧ s.raysHeld 0 < 512 ∧ s.rayRequests 0 = [] ∧
      ({ x with life := .stalled (.rayUnit 3 true) } : Fibre).life = .stalled (.rayUnit 3 true)) ∧
    (benchContext.badRecords.contains (0, 1) = false ∧ ({ benchContext with badRecords := [(0, 1)] } : Context).badRecords.contains (0, 1) = true) ∧
    (benchContext.unset = [] ∧ (∀ k, s.contexts.get? 0 = some k → 0x10000 / 256 * 256 ∉ k.unset)) ∧
    ((s.freeSlot 0).isSome = true ∧ by_.parent = none ∧ by_.child = none ∧ (0 ∈ s.diesUp ∧ 1 ∈ s.diesUp) ∧ ({ by_ with child := some 1 } : Launcher).child = some 1) ∧
    (∀ v ∈ w.guardWrites, v.1 + 2 ≤ ({ s.core 0 with clock := 2 } : CoreState).clock) ∧ (∀ v ∈ late.guardWrites, (s.core 0).clock < v.1 + 2) ∧
    ({ benchGroup with copies := [c] } : Group).copies = [c] ∧ c.guard = some 0 ∧ c.passed = false ∧ s.members 0 ≠ [] ∧ benchGroup.guards[0] = .open_ ∧
    ({ c with since := 1 } : CopyCommand).since ≠ c.since := by
  and_intros <;> decide

/-- Joint launches of a grid that is read and accepted, and of one whose record is refused; of a stream, a copy list and a job that break their fields' limits. -/
theorem witness_Joint_launches :
    let s (ps : List Packet) : State := holding (queued ps) [(0x12000, descriptor), (0x13000, launchRecord)]
    let joint (mask rec : Nat) : Packet := packet ([1] ++ bytesOfNat 7 0 ++ [BitVec.ofNat 8 mask] ++ bytesOfNat 7 0 ++ bytesOfNat 8 rec ++ bytesOfNat 40 0)
    let p := joint 1 0x13000
    let f (p : Packet) (off n : Nat) : Nat := fieldOf p.bytes off n
    let plan (a : Nat) := (s [p]).readPlan (engineReader (commandAgent 0)) (engineReader (commandAgent 0)) a none false
    let by_ : Launcher := { context := 0, cls := 0, depth := 0, queue := 0, packet := 0, tag := 0, edges := [] }
    (((s [p]).startable? 0).map fun e => e.2) = some p ∧ f p 0 1 = 1 ∧ packetLegal p.bytes = true ∧ ((s [p]).engineAcquires ((queue [p]).startEdges p)).2 = true ∧
    (1 ≤ f p 8 1 ∧ f p 8 1 < 16 ∧ (f p 8 1).testBit 1 = false ∧ (f p 8 1).testBit 2 = false ∧ (f p 8 1).testBit 3 = false ∧ f p 16 8 % 64 = 0 ∧ f p 12 4 = 0 ∧
      f p 24 8 = 0 ∧ f p 32 4 = 0 ∧ f p 56 8 = 0 ∧ f p 36 4 = 0 ∧ f p 40 8 = 0 ∧ f p 48 8 = 0) ∧
    ((plan 0x13000).toOption.bind fun e => e.1.bind fun r => (e.2.accept by_ r).map fun k => (e.2.cellWritable 0 r.record, (k.2.launches.get? k.1).isSome)) = some (true, true) ∧
    (plan 0x14000).toOption.map (fun e => e.1) = some none ∧ fine (plan 0x8000000000000) = false ∧
    (f (joint 8 0) 8 1).testBit 3 = true ∧ f (joint 16 0) 8 1 = 16 := by
  and_intros <;> decide

end Sys2Proof.Tests
end

/-! Moves, compares and predicates (R97, R98, R103, R106, R107): the model's readings of a word on W bits in terms of bit vectors, what a write of
predicates leaves, and the four statements. -/

namespace Sys2Proof

/-! ### Words read and extended by a type -/

theorem Ty.width_pos (t : Ty) : 0 < t.width := by cases t <;> decide

theorem Ty.width_le (t : Ty) : t.width ≤ 64 := by cases t <;> decide

theorem bitsOf_eq_toNat (t : Ty) (v : Word) : bitsOf t v = (v.setWidth t.width).toNat := by
  rw [bitsOf, BitVec.toNat_setWidth]

theorem bitsOf_eq_bitsOf_iff (t : Ty) (v w : Word) : bitsOf t v = bitsOf t w ↔ v.setWidth t.width = w.setWidth t.width := by
  rw [bitsOf_eq_toNat, bitsOf_eq_toNat, BitVec.toNat_inj]

/-- R95, R98: the number that the low bits of a word are. -/
theorem intOf_eq_number (t : Ty) (v : Word) : intOf t v = t.number (v.setWidth t.width) := by
  unfold intOf Ty.number
  cases t.signed
  · simp
  · have hw : 2 ^ t.width = 2 * 2 ^ (t.width - 1) := by rw [← pow_succ', Nat.sub_add_cancel t.width_pos]
    simp only [BitVec.toInt, BitVec.toNat_setWidth, Bool.true_and, decide_eq_true_eq, if_true, ge_iff_le]
    split <;> split <;> omega

theorem zeroExt_eq_setWidth (t : Ty) (n : Nat) : zeroExt t n = (BitVec.ofNat t.width n).setWidth 64 := by
  apply BitVec.eq_of_toNat_eq
  simp only [zeroExt, BitVec.toNat_setWidth, BitVec.toNat_ofNat]

/-- R29: a type extends by its sign, or by zeros. -/
theorem place_eq_extend (t : Ty) (n : Nat) : place t n = t.extend (BitVec.ofNat t.width n) := by
  unfold place Ty.extend
  cases t.signed
  · exact zeroExt_eq_setWidth t n
  · have hw : 2 ^ t.width ≤ 2 ^ 64 := Nat.pow_le_pow_right (by decide) t.width_le
    have hm : n % 2 ^ t.width < 2 ^ t.width := Nat.mod_lt _ (Nat.two_pow_pos _)
    have hmod : n % 2 ^ t.width % 2 ^ 64 = n % 2 ^ t.width := Nat.mod_eq_of_lt (hm.trans_le hw)
    apply BitVec.eq_of_toNat_eq
    simp only [BitVec.toNat_signExtend, BitVec.msb_eq_decide, BitVec.toNat_setWidth, BitVec.toNat_ofNat, Bool.true_and, decide_eq_true_eq, if_true,
      ge_iff_le, hmod]
    split
    · rw [BitVec.toNat_ofNat, Nat.mod_eq_of_lt (by omega)]
    · rw [BitVec.toNat_ofNat, hmod, Nat.add_zero]

theorem place_bitsOf (t : Ty) (v : Word) : place t (bitsOf t v) = t.extend (v.setWidth t.width) := by
  rw [place_eq_extend, bitsOf_eq_toNat, BitVec.ofNat_toNat, BitVec.setWidth_eq]

theorem zeroExt_bitsOf (t : Ty) (v : Word) : zeroExt t (bitsOf t v) = (v.setWidth t.width).setWidth 64 := by
  rw [zeroExt_eq_setWidth, bitsOf_eq_toNat, BitVec.ofNat_toNat, BitVec.setWidth_eq]

end Sys2Proof

namespace Sys2Proof.Machine

/-! ### Predicates -/

theorem getLsbD_setPredBit (ps : BitVec 8) (p : Fin 8) (b : Bool) {j : Nat} (hj : j < 8) :
    (setPredBit ps p.val b).getLsbD j = if j = p.val then b else ps.getLsbD j := by
  have hbit : (1#8 <<< p.val).getLsbD j = decide (j = p.val) := by
    rw [BitVec.getLsbD_shiftLeft, BitVec.getLsbD_one]
    grind
  cases b
  · simp only [setPredBit, Bool.false_eq_true, if_false, BitVec.getLsbD_and, BitVec.getLsbD_not, hbit]
    split <;> simp [*]
  · simp only [setPredBit, if_true, BitVec.getLsbD_or, hbit]
    split <;> simp [*]

theorem getLsbD_psetBits (ps : BitVec 8) (a b : Word) {j : Nat} (hj : j < 8) :
    (psetBits ps a b).getLsbD j = if b.getLsbD j then a.getLsbD j else ps.getLsbD j := by
  cases hb : b.getLsbD j <;> simp [psetBits, hb, hj]

theorem Fibre.test_eq (x : Fibre) (neg : Bool) (p : Fin 8) : x.test neg p = decide (x.preds.getLsbD p.val = !neg) := by
  unfold Fibre.test Fibre.pred
  cases x.preds.getLsbD p.val <;> cases neg <;> rfl

/-! ### Instructions that set no flag -/

theorem Fibre.orFlags_zero (x : Fibre) : x.orFlags 0#6 = x := by
  simp only [Fibre.orFlags, BitVec.or_zero]

/-- A scalar instruction whose computation sets no flag writes its destination and nothing else. -/
theorem State.scalar_flagless {s : State} {f : Nat} {x : Fibre} (h : s.Issues f x) (d : Dst) (k : (Src → Word) → Fibre → Word) :
    (s.scalar d fun r y => (k r y, 0#6)) = .next (s.completed f x (x.write d (k (s.operand x) x))) := by
  rw [State.scalar_eq h, Fibre.orFlags_zero]

theorem State.scalar1_eq {s : State} {f : Nat} {x : Fibre} (h : s.Issues f x) (d : Dst) (a : Src) (op : Word → Word) :
    s.scalar1 d a op = .next (s.completed f x (x.write d (op (s.operand x a)))) :=
  State.scalar_flagless h d fun r _ => op (r a)

theorem State.scalar2_eq {s : State} {f : Nat} {x : Fibre} (h : s.Issues f x) (d : Dst) (a b : Src) (op : Word → Word → Word) :
    s.scalar2 d a b op = .next (s.completed f x (x.write d (op (s.operand x a) (s.operand x b)))) :=
  State.scalar_flagless h d fun r _ => op (r a) (r b)

/-! ### Compares -/

/-- R98: an integer compare writes its truth to its predicate, and nothing else. -/
theorem State.setpInt_writes {s : State} {f : Nat} {x : Fibre} (h : s.Issues f x) {i : Instr} {c : Cond} {a b : Src} {p : Fin 8} {t : Ty}
    (hi : exec i s = s.setpInt c a b p t) {truth : Bool} (hc : cmpInt c t (s.operand x a) (s.operand x b) = truth) :
    ∃ ps : BitVec 8, exec i s = .next (s.completed f x { x with preds := ps }) ∧
      ∀ j < 8, ps.getLsbD j = if j = p.val then truth else x.preds.getLsbD j := by
  subst hc
  exact ⟨_, hi.trans (State.own_eq h _), fun _ hj => getLsbD_setPredBit _ _ _ hj⟩

/-- R103: a floating compare writes its truth to its predicate and joins the invalid flag where its condition asks for it, and nothing else. -/
theorem State.setpFloat_writes {s : State} {f : Nat} {x : Fibre} (h : s.Issues f x) {i : Instr} {c : Cond} {a b : Src} {p : Fin 8} {t : Ty}
    (hi : exec i s = s.setpFloat c a b p t) {truth invalid : Bool}
    (hc : cmpFloat c t (s.operand x a) (s.operand x b) = (truth, flagIf invalid Flag.invalid)) :
    ∃ ps : BitVec 8,
      exec i s = .next (s.completed f x { x with preds := ps, flags := x.flags ||| (if invalid then Flag.invalid else 0) }) ∧
      ∀ j < 8, ps.getLsbD j = if j = p.val then truth else x.preds.getLsbD j := by
  refine ⟨setPredBit x.preds p.val truth, ?_, fun _ hj => getLsbD_setPredBit _ _ _ hj⟩
  rw [hi, State.setpFloat, State.own_eq h, hc]
  rfl

/-! ### The statements -/

/-- Settles O14: an ordered compare asks that neither operand is a NaN; `un` asks that one is. -/
theorem floatingCompares : Obligations.Floating_compares := by
  intro s f x h a b p t
  refine ⟨State.setpFloat_writes (c := .eq) h rfl ?eq, State.setpFloat_writes (c := .un) h rfl ?un, State.setpFloat_writes (c := .lt) h rfl ?lt,
    State.setpFloat_writes (c := .le) h rfl ?le⟩
  case eq => simp only [cmpFloat, beq_eq_decide]
  case un => simp only [cmpFloat]
  case lt => simp only [cmpFloat, beq_eq_decide]
  case le => simp only [cmpFloat, bne, beq_eq_decide, ne_eq, decide_not]

/-- Settles O10: each writes one value that sets no flag. -/
theorem moves : Obligations.Moves := by
  intro s f x h d a b t sh neg p
  refine ⟨State.scalar2_eq h d a b fun v w => leaValue v w sh.val, ?mov, ?sel⟩
  case mov =>
    have hmov : exec (.mov d a t) s = _ := State.scalar1_eq h d a fun v => place t (bitsOf t v)
    rw [hmov, place_bitsOf]
  case sel =>
    have hsel : exec (.sel d a b neg p t) s = _ := State.scalar_flagless h d fun r y => zeroExt t (bitsOf t (if y.test neg p then r a else r b))
    simp only [hsel, zeroExt_bitsOf, Fibre.test_eq, decide_eq_true_eq]

/-- Settles O11: the compared numbers are the low bits of the operands, read by the type. -/
theorem integerCompares : Obligations.Integer_compares := by
  intro s f x h a b p t
  refine ⟨State.setpInt_writes (c := .eq) h rfl ?eq, State.setpInt_writes (c := .ne) h rfl ?ne, State.setpInt_writes (c := .lt) h rfl ?lt,
    State.setpInt_writes (c := .le) h rfl ?le⟩
  case eq => simp only [cmpInt, beq_eq_decide, bitsOf_eq_bitsOf_iff]
  case ne => simp only [cmpInt, bne, beq_eq_decide, bitsOf_eq_bitsOf_iff, ne_eq, decide_not]
  case lt => simp only [cmpInt, intOf_eq_number]
  case le => simp only [cmpInt, intOf_eq_number]

/-- Settles O12: both act on their own fibre alone, and `nop` leaves it as it is. -/
theorem nopAndPset : Obligations.Nop_and_pset := by
  intro s f x h
  refine ⟨State.own_eq h fun _ y => y, fun a b => ⟨_, ?pset, fun _ hj => getLsbD_psetBits _ (s.operand x a) _ hj⟩⟩
  case pset => exact State.own_eq h fun r y => { y with preds := psetBits y.preds (r a) (r b) }

end Sys2Proof.Machine

/-! Breaks and illegal encodings (R343, R73): where an exception leads whose handler runs (R338), and the statement. -/

namespace Sys2Proof.Machine

/-! ### An exception whose handler runs -/

/-- R338: the fibre at the start of its handler, after a fault at a unit and repeat index. -/
def Fibre.inHandlerAt (x : Fibre) (tvec unit : BitVec 52) (rep : Nat) (src : FaultSource) (code : FaultCode) (addr info : Word) : Fibre :=
  { x with
    life := x.life.readied, pc := tvec, rep := 0, hints := {}, rayRequest := none,
    trap := { inHandler := true, code := BitVec.ofNat 16 (code.code + 256 * src.code), unit := unit, rep := BitVec.ofNat 7 rep, addr := addr, info := info } }

/-- R338: with the in-handler bit clear, a trap vector, and no break for the debugger, taking an exception starts the handler; apart from the fibre, only
convoys and trace records change. -/
theorem State.takeTrap_starts_handler {s : State} {f : Nat} {x : Fibre} {c : Context} (hx : s.fibres.get? f = some x)
    (hc : s.contexts.get? x.context = some c) (hvec : c.desc.tvec ≠ 0) (hin : x.trap.inHandler = false) {code : FaultCode}
    (hbrk : c.desc.breakToDebugger = false ∨ x.group = none ∨ code ≠ .break_) (unit : BitVec 52) (rep : Nat) (src : FaultSource) (addr info : Word) :
    ∃ cores queues, s.takeTrap f unit rep src code addr info =
      { s with cores := cores, queues := queues, fibres := s.fibres.put f (x.inHandlerAt c.desc.tvec unit rep src code addr info) } := by
  have hdebug : (c.desc.breakToDebugger && x.group.isSome && code == .break_) = false := by
    rcases hbrk with h | h | h <;> simp [h]
  have hhandler : ¬(x.trap.inHandler = true ∨ c.desc.tvec = 0) := not_or.2 ⟨by simp [hin], hvec⟩
  obtain ⟨cores, hleave, -⟩ := s.leaveConvoy_cases f
  obtain ⟨queues, htrace, -⟩ := State.traceUnit_cases { s with cores := cores } x unit rep true
  refine ⟨cores, if code = .step then s.queues else queues, ?_⟩
  rw [State.takeTrap_cases hx hc, if_neg (by simp [hdebug]), if_neg hhandler, hleave, htrace]
  split <;> rfl

/-- R338: the same of a fault that the issuing fibre raises outside a target program, where no group is being debugged. -/
theorem State.trapped_starts_handler {s : State} {f : Nat} {x : Fibre} {c : Context} (htarget : x.target = none) (hu : s.Undebugged)
    (hc : s.contexts.get? x.context = some c) (hvec : c.desc.tvec ≠ 0) (hin : x.trap.inHandler = false) {code : FaultCode}
    (hbrk : c.desc.breakToDebugger = false ∨ x.group = none ∨ code ≠ .break_) (addr info : Word) :
    (s.trapped f x code addr info).fibres = s.fibres.put f (x.cancelQueues.inHandlerAt c.desc.tvec x.unit x.rep .unit code addr info) := by
  have hx : (s.setFibre f x.cancelQueues).fibres.get? f = some x.cancelQueues := Tab.get?_put_self ..
  obtain ⟨cores, queues, htrap⟩ := State.takeTrap_starts_handler hx hc hvec hin hbrk x.unit x.rep .unit addr info
  obtain ⟨_, _, _, hdone, -⟩ := ((s.setFibre f x.cancelQueues).takeTrap f x.unit x.rep .unit code addr info).memberDone_cases (by rw [htrap]; exact hu)
  calc (s.trapped f x code addr info).fibres
      = ((s.setFibre f x.cancelQueues).takeTrap f x.unit x.rep .unit code addr info).memberDone.fibres := by
        rw [State.trapped, State.settle_eq htarget, State.settleUnit]
    _ = ((s.setFibre f x.cancelQueues).takeTrap f x.unit x.rep .unit code addr info).fibres := by rw [hdone]
    _ = _ := by rw [htrap, State.setFibre_fibres, Tab.put_put]

/-! ### The statement -/

/-- Settles O21: both instructions only raise their fault, and the handler of a `brk` starts with the trap of the fibre at its unit. -/
theorem breakAndIllegal : Obligations.Break_and_illegal := by
  intro s f x h
  refine ⟨fun n => ⟨State.issueWith_eq h _, fun c htarget hu hc hvec hin hdebug => ?handler⟩, State.issueWith_eq h _⟩
  case handler =>
    rw [State.trapped_starts_handler htarget hu hc hvec hin (.inl hdebug)]
    exact ⟨_, Tab.get?_put_self .., rfl, rfl, rfl, rfl⟩

end Sys2Proof.Machine
